-- ==== Sys2Proof/Word.lean ====
section
/-! DEFINITION. Words, byte strings and sparse maps. Bit 0 is the least significant bit and multi-byte
values are little-endian (R3 of spec/00_scope.md). -/

namespace Sys2Proof

/-- A byte. -/
abbrev Byte := BitVec 8

/-- An 8-byte register or address field. -/
abbrev Word := BitVec 64

/-- An FP32 bit pattern. -/
abbrev F32 := BitVec 32

/-- An engine ID: module in [15:4], die slot in [3:0] (R396). -/
abbrev Eid := BitVec 16

/-- A byte string. -/
abbrev Bytes := List Byte

/-- A sparse map from numbers, kept in strictly rising key order. -/
abbrev SMap (α : Type) := List (Nat × α)

/-- The value stored at a key. -/
def smapGet {α : Type} : SMap α → Nat → Option α
  | [], _ => none
  | (k, v) :: t, n => if k = n then some v else if n < k then none else smapGet t n

/-- Store a value at a key, keeping the keys strictly rising. -/
def smapSet {α : Type} : SMap α → Nat → α → SMap α
  | [], n, x => [(n, x)]
  | (k, v) :: t, n, x =>
    if k = n then (n, x) :: t
    else if n < k then (n, x) :: (k, v) :: t
    else (k, v) :: smapSet t n x

/-- Remove a key. -/
def smapDel {α : Type} (m : SMap α) (n : Nat) : SMap α := m.filter (fun e => e.1 != n)

/-- The keys rise strictly. -/
def smapWf {α : Type} (m : SMap α) : Prop := (m.map Prod.fst).Pairwise (· < ·)

/-- Field [lo + w − 1 : lo] of a word. -/
def bits {n : Nat} (x : BitVec n) (lo w : Nat) : BitVec w := x.extractLsb' lo w

/-- The same field as a number. -/
def bitsNat {n : Nat} (x : BitVec n) (lo w : Nat) : Nat := x.toNat / 2 ^ lo % 2 ^ w

/-- The word with field [lo + w − 1 : lo] replaced. -/
def setBits {n : Nat} (x : BitVec n) (lo w : Nat) (v : Nat) : BitVec n :=
  BitVec.ofNat n (x.toNat - bitsNat x lo w * 2 ^ lo + v % 2 ^ w * 2 ^ lo)

/-- The little-endian byte string of a number, `n` bytes long (R3). -/
def leBytes : Nat → Nat → Bytes
  | 0, _ => []
  | n + 1, x => BitVec.ofNat 8 x :: leBytes n (x / 256)

/-- The number a little-endian byte string stores (R3). -/
def leNat : Bytes → Nat
  | [] => 0
  | b :: t => b.toNat + 256 * leNat t

/-- A big-endian byte string of a number. -/
def beBytes (n x : Nat) : Bytes := (leBytes n x).reverse

/-- The number a big-endian byte string stores. -/
def beNat (b : Bytes) : Nat := leNat b.reverse

/-- `n` bytes of a string from byte `lo` on, as a number. -/
def leField (b : Bytes) (lo n : Nat) : Nat := leNat ((b.drop lo).take n)

/-- A string of zero bytes. -/
def zeroBytes (n : Nat) : Bytes := List.replicate n 0

/-- `b` cut or padded with zero bytes to `n` bytes. -/
def padTo (n : Nat) (b : Bytes) : Bytes := b.take n ++ zeroBytes (n - b.length)

/-- Saturating increment of an unsigned counter. -/
def satAdd {n : Nat} (x : BitVec n) (k : Nat) : BitVec n :=
  BitVec.ofNat n (min (x.toNat + k) (2 ^ n - 1))

/-- Whether `satAdd x k` had to saturate. -/
def satHits {n : Nat} (x : BitVec n) (k : Nat) : Bool := decide (2 ^ n - 1 < x.toNat + k)

/-- ⌈a / b⌉. -/
def ceilDiv (a b : Nat) : Nat := (a + b - 1) / b

/-- The value rounded up to a multiple of `b`. -/
def roundUp (a b : Nat) : Nat := ceilDiv a b * b

end Sys2Proof
end

