-- ==== Sys2Proof/Syntax.lean ====
section
/-! DEFINITION. The commands and events of spec/opcode_table.json, one constructor per row, with their operands. -/

namespace Sys2Proof

/-- A 64 B command packet as the engine reads it from a submission slot (Table Cmd-4, R54). Byte 0, the opcode,
is the one of the table row that carries the packet. `params` is bytes 8 to 59: byte `k` of the packet is bits
[8(k − 8) + 7 : 8(k − 8)] of it. -/
structure Packet where
  version : Byte
  flags   : BitVec 16
  tag     : BitVec 32
  params  : BitVec 416
  crc     : BitVec 32
  deriving DecidableEq, Repr, Inhabited

/-- A 64 B fabric message header as it arrives (Table Fab-3, R403): byte `k` is bits [8k + 7 : 8k]. -/
abbrev Header := BitVec 512

/-- How an in-service macro test ended (R277, R278): no defect, a defect that a spare row or column repairs, or
a defect that none repairs. -/
inductive TestOutcome where
  | pass
  | rowRepair
  | fail
  deriving DecidableEq, Repr, Inhabited

/-- A rail of Table Boot-1. -/
inductive Rail where
  | aon | sram | core | io
  deriving DecidableEq, Repr, Inhabited

/-- A defect that a test set finds (R495, R496): its set of Table Boot-5, the physical unit of R477, and
whether a spare row or column repairs it. -/
structure Finding where
  set     : Nat
  unit    : Nat
  rowFits : Bool
  deriving DecidableEq, Repr, Inhabited

/-- A record that MSG_ID_EXPIRE forgets: a remembered msg_id of a sender (R414) or a cancel's discard record (R126). -/
inductive Expiry where
  | seen (src : Eid) (msgId : BitVec 32)
  | discard (src : Eid) (task : BitVec 32) (tag : BitVec 32)
  deriving DecidableEq, Repr, Inhabited

/-- Every command and event of spec/opcode_table.json. -/
inductive Instr where
  /-- R55. No-operation command, accepted under any implemented version; it completes with a work count of zero. -/
  | nop (ring : Nat) (p : Packet)
  /-- R56. Binds the ring to the first offered QCP version the engine implements, and optionally writes the capability block. -/
  | hello (ring : Nat) (p : Packet)
  /-- R65. Writes one CRC-protected result block for the class named: engine limits, table, ring, counters, stream or error log. -/
  | query (ring : Nat) (p : Packet)
  /-- R50. Completes after every earlier task in its scope has completed, optionally after their writes have drained. -/
  | fence (ring : Nat) (p : Packet)
  /-- R35. Creates, enables, disables or resets a ring from 1 to 16,383 and builds its RCT entry. -/
  | ringConfig (ring : Nat) (p : Packet)
  /-- R68. Defines a table at this engine from a CRC-checked descriptor, or deletes a table. -/
  | tableDefine (ring : Nat) (p : Packet)
  /-- R238. Schedules the named version to become current at acceptance or at a given FTIME. -/
  | tableCommit (ring : Nat) (p : Packet)
  /-- R240. Makes a previous or open version retiring; it is freed once unreferenced and past its grace FTIME. -/
  | tableRetire (ring : Nat) (p : Packet)
  /-- R94. Writes CRC-checked shard-map entries into a version's map, opening the version if it is free. -/
  | shardMapSet (ring : Nat) (p : Packet)
  /-- R245. Writes a consistent or fuzzy image of this engine's primary blocks of a version. -/
  | tableSnapshot (ring : Nat) (p : Packet)
  /-- R247. Fills blocks of a version at a destination engine, in a role, from a source engine or a snapshot image. -/
  | shardMigrate (ring : Nat) (p : Packet)
  /-- R137. Coalesces an index list, routes it to holders and combines their partial sums into pooled bags. -/
  | lookupPool (ring : Nat) (p : Packet)
  /-- R114. Gathers each distinct row once and writes it to every list position that names it. -/
  | lookupGather (ring : Nat) (p : Packet)
  /-- R308. Gathers the stored working copies of the listed experts into scratch, memory or a relay chain. -/
  | slabGather (ring : Nat) (p : Packet)
  /-- R119. Routes an index list so that holders prefetch rows speculatively into berms and load translations. -/
  | lookahead (ring : Nat) (p : Packet)
  /-- R124. Cancels the matching look-up, gather and lookahead tasks of a tag on a ring. -/
  | lookupCancel (ring : Nat) (p : Packet)
  /-- R173. Sends bag gradients in buckets to the primaries, using kept or resent lists. -/
  | gradScatter (ring : Nat) (p : Packet)
  /-- R185. Combines split rows after earlier scatters, or discards the open gradients of a table version. -/
  | gradFlush (ring : Nat) (p : Packet)
  /-- R187. Closes a version's open gradients and drains them row by row to the CUCs for update. -/
  | updateApply (ring : Nat) (p : Packet)
  /-- R225. Validates an update microprogram and loads it into every CUC, or unloads a slot. -/
  | updateProgramLoad (ring : Nat) (p : Packet)
  /-- R203. Translates the pages, then sends groups of FP32 addends to the homes of their target lines. -/
  | atomicAdd (ring : Nat) (p : Packet)
  /-- R283. Arms a stream from a descriptor and reserves two tiles of tile buffer. -/
  | streamArm (ring : Nat) (p : Packet)
  /-- R286. Optionally replaces a stream's bases or outermost count, and starts one transfer of the stream. -/
  | streamRearm (ring : Nat) (p : Packet)
  /-- R296. Cancels a stream's transfer tasks, optionally also disarming the stream. -/
  | streamCancel (ring : Nat) (p : Packet)
  /-- R292. Writes a semaphore value and re-examines the semaphore's waiters. -/
  | semSet (ring : Nat) (p : Packet)
  /-- R293. Adds an increment to a semaphore of this engine or of a named engine. -/
  | semSignal (ring : Nat) (p : Packet)
  /-- R294. Waits until a semaphore meets its condition, then subtracts a decrement atomically. -/
  | semWait (ring : Nat) (p : Packet)
  /-- R311. Writes up to 256 B, inline or from a source, and optionally signals a semaphore. -/
  | culvertWrite (ring : Nat) (p : Packet)
  /-- R303. Defines a relay chain from a hop list and sends each hop its entry. -/
  | relayChainSet (ring : Nat) (p : Packet)
  /-- R324. Walks every page of a range into the translation cache. -/
  | xlatePrefetch (ring : Nat) (p : Packet)
  /-- R345. Records advice for a range at the accepting engine. -/
  | memAdvise (ring : Nat) (p : Packet)
  /-- R347. Moves the small pages of a range to a destination tier, using the migration pools. -/
  | memMigrate (ring : Nat) (p : Packet)
  /-- R342. Marks a written fault batch resolved and drops the cached translations of its pages. -/
  | faultResolve (ring : Nat) (p : Packet)
  /-- R330. Bumps SOL_PT_GEN and drops the cached translations of a range at this engine or across the module. -/
  | ptInvalidate (ring : Nat) (p : Packet)
  /-- R383. Sets or clears a placement region that maps aperture offsets onto device virtual addresses. -/
  | placementRegionSet (ring : Nat) (p : Packet)
  /-- R254. Sets the berm size, the scratchpad share and the hot threshold. -/
  | bermConfig (ring : Nat) (p : Packet)
  /-- R270. Pins or unpins the listed rows in the berm of every valid holder. -/
  | bermPin (ring : Nat) (p : Packet)
  /-- R274. Invalidates all sectors, or only speculative sectors, of one table or of every table. -/
  | bermFlush (ring : Nat) (p : Packet)
  /-- R364. Sets the governor's hard threshold, soft target and power ceiling together. -/
  | govPolicy (ring : Nat) (p : Packet)
  /-- R442. Reads, sets or rate-trims FTIME, or sets the grandmaster priority or pulse-per-second enable. -/
  | timeCtl (ring : Nat) (p : Packet)
  /-- R452. Queues a request for a signed Gauge readout, event log or public key. -/
  | gaugeRead (ring : Nat) (p : Packet)
  /-- R61. Adds up to four RWS register entries to the staged set. -/
  | configStage (ring : Nat) (p : Packet)
  /-- R62. Captures and checks the staged set, then commits it or discards it. -/
  | configCommit (ring : Nat) (p : Packet)
  /-- R481. Arms one error injection at a detector and unit, or disarms it. -/
  | diagInject (ring : Nat) (p : Packet)
  /-- R478. Retires, restores or fuses a soft repair of a unit at levels 1 to 4. -/
  | repairCtl (ring : Nat) (p : Packet)
  /-- R495. Holds acceptance, runs the selected test sets with soft repair, and writes a result block. -/
  | selftest (ring : Nat) (p : Packet)
  /-- R31. An 8-byte write to SOL_DB[n] that updates a ring's sq_tail and cq_head after bounds checks. -/
  | doorbellWrite (ring size : Nat) (value : Word)
  /-- R28. A finished task writes its completion record once a completion-queue slot is free. -/
  | completionWrite (task : Nat)
  /-- R35. A draining ring's last task completes, so the ring becomes disabled and the disable or reset completes. -/
  | ringDrainEnd (ring : Nat)
  /-- R63. A held commit reaches its commit point and applies every staged entry together. -/
  | configCommitPoint
  /-- R105. The duplicated sluice pointers disagree, so the sluice resets and its tasks end with HW_ERROR. -/
  | sluicePointerMismatch (polder : Nat)
  /-- R149. A waiting coalesce window is admitted once combine groups or slots can be reserved for its bags. -/
  | windowAdmit (task : Nat)
  /-- R117. A holder receives a list segment, gathers its rows and pools them, or pins, prefetches or stores terms. -/
  | indexListReceive (h : Header) (payload : Bytes)
  /-- R137. The requester combines an arriving partial sum into the bag's combine groups. -/
  | partialSumReceive (h : Header) (payload : Bytes)
  /-- R125. A holder discards the cancelled task's unstarted lists and state, then acknowledges. -/
  | cancelReceive (h : Header) (payload : Bytes)
  /-- R127. The originating engine receives a holder's or destination's acknowledgement of a list, cancel, bucket or migration. -/
  | taskAckReceive (h : Header) (payload : Bytes)
  /-- R262. A pending berm fill returns from memory, serves its gather and is installed unless it was superseded. -/
  | bermFillComplete (fetch : Nat)
  /-- R407. A primary receives a segment of a gradient bucket and queues the bucket once it is whole. -/
  | gradBucketReceive (h : Header) (payload : Bytes)
  /-- R176. A primary takes a bucket from its queue and adds its contributions to the open gradients. -/
  | bucketExpand
  /-- R195. A home CUC reads the record, runs the update program, writes the record back and writes a fresh working copy. -/
  | cucRowUpdate (task localBlock offset : Nat)
  /-- R194. A remote CUC receives a row's finalised gradient for update of a record it homes. -/
  | updateRowReceive (h : Header) (payload : Bytes)
  /-- R204. A home applies a group of addends to one line under a single lock. -/
  | atomicGroupReceive (h : Header) (payload : Bytes)
  /-- R206. The sender learns that a group of far adds has been applied at its home. -/
  | atomicDoneReceive (h : Header) (payload : Bytes)
  /-- R238. A pending commit reaches its FTIME, or time lock, and makes the version current. -/
  | tableCommitPoint (tid : Nat)
  /-- R240. A retiring version with no references, past its grace FTIME, is freed and the retire's second record is written. -/
  | versionFree (tid : Nat) (version : BitVec 16)
  /-- R408. A destination writes migrated or refreshed rows and acknowledges them once they reach coherence. -/
  | migrateDataReceive (h : Header) (payload : Bytes)
  /-- R247. An engine receives a forwarded command packet, such as a SHARD_MIGRATE to run as destination. -/
  | commandForwardReceive (h : Header) (payload : Bytes)
  /-- R254. Once earlier tasks drain, the berm is resized, its cache sectors are invalidated and acceptance resumes. -/
  | bermConfigApply
  /-- R263. Every 2^20 CLK_TIME cycles, every sector's freq is halved and hot marks that fall below half the threshold are cleared. -/
  | bermAgeing
  /-- R277. Every 1 ms the next berm macro is copied to its spare or drained, and then march-tested. -/
  | bermMacroTest
  /-- R278. A berm macro test ends; the macro is returned, repaired, replaced by its spare or withdrawn. -/
  | bermMacroTestEnd (outcome : TestOutcome)
  /-- R287. Once the empty semaphore allows, a stream takes 1 from it and writes its next tile. -/
  | streamTileWrite (stream : Nat)
  /-- R287. A tile's writes reach coherence, and the stream signals its full semaphore or completes. -/
  | streamTileLanded (stream : Nat)
  /-- R408. A destination engine writes tile bytes and acknowledges them once they reach coherence. -/
  | remoteWriteReceive (h : Header) (payload : Bytes)
  /-- R305. A hop writes a chunk to its base, forwards it, and signals its semaphore per completed unit. -/
  | relayChunkReceive (h : Header) (payload : Bytes)
  /-- R304. A hop checks and stores, or refuses, its entry of a relay chain. -/
  | relayHopSetReceive (h : Header) (payload : Bytes)
  /-- R293. A semaphore owner applies a remote increment and re-examines the semaphore's waiters. -/
  | semOpReceive (h : Header) (payload : Bytes)
  /-- R299. After a period with waiting tasks and no progress, the watchdog ends one waiting task with DEADLOCK_BREAK. -/
  | watchdogFire
  /-- R318. A page walk ends, filling the translation cache or raising a fault. -/
  | walkComplete (walk : Nat)
  /-- R318. A walk that met MIG walks again 1 µs later, and ends in MIGRATING after 1 ms. -/
  | walkMigRetry (walk : Nat)
  /-- R339. The collector merges an incoming fault record into the open batch, or opens a new batch. -/
  | faultRecordReceive (h : Header) (payload : Bytes)
  /-- R337. An engine adds a REMOTE record for a fault that another engine met on behalf of its task. -/
  | faultNoticeReceive (h : Header) (payload : Bytes)
  /-- R339. The open batch closes at 512 records, at 4,096 task entries, or 10 µs after it opened. -/
  | faultBatchClose
  /-- R340. A waiting closed batch is written to a free fault-queue slot, and the fault vector is raised. -/
  | faultBatchWrite
  /-- R330. An engine drops the cached translations that another engine's invalidate, migrate or resolve names. -/
  | xlateDropReceive (h : Header) (payload : Bytes)
  /-- R343. A write to SOL_XLATE_REQ translates an address into SOL_XLATE_RESULT. -/
  | xlateReq (value : Word)
  /-- R349. A stack or the M-die path is lost; the site goes offline and its translations are dropped. -/
  | siteOffline (unit : Nat)
  /-- R358. A controller reports an HBM4 row past its corrected-error threshold, and the engine logs it for repair. -/
  | hbmRowCeReport (stack pc bank row : Nat)
  /-- R362. Every 10 µs, the governor reads stack temperatures and Gauge power and sets the allowed issue fraction. -/
  | govUpdate (t0 t1 : Option Nat)
  /-- R361. Every millisecond, the LPDDR5X MR4 refresh-rate field is read and lp_hot is set if required. -/
  | mr4Read (highest : Bool)
  /-- R366. A SOL_HBM_PPR start with op count starts a count of spare rows in a bank. -/
  | hbmPprCountSpares (value : Word)
  /-- R366. A SOL_HBM_PPR start with op hard repair starts post-package repair of a row on an offline stack. -/
  | hbmPprRepair (value : Word)
  /-- R366. A PPR operation ends; busy clears and result and spares are set. -/
  | hbmPprDone (result spares : Nat)
  /-- R355. Writing 1 to a SOL_MEM_CTL.hbm_online bit brings a trained stack online. -/
  | hbmOnlineWrite (value : Word)
  /-- R369. A host link trains in a supported mode and comes up. -/
  | hostLinkUp (link width rate : Nat)
  /-- R370. A host link goes down; it is marked lost, and the rings behind it enter the error state. -/
  | hostLinkLost (link : Nat)
  /-- R377. A host CXL.mem access through the engine's window is translated and served, or failed. -/
  | hostWindowAccess (link offset len : Nat) (data : Option Bytes)
  /-- R384. An adapter write into the placement aperture reaches its region's target with invalidation, or is unclaimed. -/
  | apertureWrite (offset : Nat) (data : Bytes)
  /-- R385. An adapter read through the placement aperture reads memory non-coherently, or is unclaimed. -/
  | apertureRead (offset len : Nat)
  /-- R386. A read of SOL_PLACE_FENCE returns once placement writes, near-cache lines and host-held lines have drained. -/
  | placeFenceRead
  /-- R390. A host snoop takes a line from the near-add cache after its minimum hold. -/
  | hostSnoop (link line : Nat)
  /-- R391. A back-invalidate response arrives, and the held write or directory reuse proceeds. -/
  | birspiReceive (link line : Nat) (data : Option Bytes)
  /-- R389. A NACKed near request retries after its back-off, or enters the home's queue after 16 NACKs. -/
  | nearRetry (request : Nat) (nacked : Bool)
  /-- R399. Every 10 ms, the discovery agent sends PROBE on every port and marks silent ports down. -/
  | probePeriod
  /-- R399. The discovery agent answers a PROBE with PROBE_REPLY on the same port. -/
  | probeReceive (port : Nat) (h : Header)
  /-- R400. The discovery agent marks the port up and updates its neighbour-table entry. -/
  | probeReplyReceive (port : Nat) (h : Header)
  /-- R399. An X-die reports a fabric port's link down, and the port goes down. -/
  | portLinkDown (port : Nat)
  /-- R413. A sender frees the kept messages that an ACK names. -/
  | ackReceive (h : Header) (payload : Bytes)
  /-- R413. A receiver acknowledges accepted messages within 2 µs, up to six per ACK. -/
  | ackSend (dst : Eid)
  /-- R416. A sender resends a message after a NACK, switching QFM version if asked. -/
  | nackReceive (h : Header) (payload : Bytes)
  /-- R413. An unacknowledged message is resent when its doubling timeout expires. -/
  | messageResend (msgId : BitVec 32)
  /-- R418. An engine declares lost the engine or module that a PEER_DOWN names. -/
  | peerDownReceive (h : Header) (payload : Bytes)
  /-- R418. A die-to-die port reports an engine's die lost, and that engine is declared lost. -/
  | d2dDieLost (slot : Nat)
  /-- R411. A receiver grants class-3 credit from its bulk or relay pool. -/
  | creditReqReceive (h : Header) (payload : Bytes)
  /-- R411. A sender receives credit and learns how many units the grantor has counted as returned. -/
  | creditGrantReceive (h : Header) (payload : Bytes)
  /-- R411. A grant unused for 1 ms lapses and counts as returned at both ends. -/
  | creditLapse (peer : Eid) (relay grantor : Bool)
  /-- R414. A remembered msg_id, or a cancel discard record, is forgotten after the message lifetime. -/
  | msgIdExpire (e : Expiry)
  /-- R418. A write to SOL_FAB_REVIVE clears the lost mark of one peer or of every peer. -/
  | fabRevive (value : Word)
  /-- R421. The crystal settle delay expires, and the first comparison window starts. -/
  | xtalSettleEnd
  /-- R422. A comparison window of 2^20 RCO cycles ends, and the crystal count is judged. -/
  | clockWindowEnd (count : Nat) (test : Bool)
  /-- R423. 64 RCO cycles pass with no crystal edge, and the crystal fails. -/
  | xtalEdgeLoss
  /-- R427. The PLL locks, and the domains move to root ÷64 at a common edge. -/
  | pllLock
  /-- R423. The PLL loses lock on the crystal, and the crystal fails. -/
  | pllLockLoss
  /-- R431. The PLL does not lock within 200 µs; the crystal fails, or the engine falls to RCO direct. -/
  | pllLockTimeout
  /-- R426. Each RAMP_INTERVAL, the dividers step by one toward ÷64 or toward their targets. -/
  | clockRampStep
  /-- R431. Every 10 ms in RCO direct, the engine retries a PLL lock. -/
  | rcoDirectRetry
  /-- R422. A write of start to SOL_CLK_TEST runs one extra comparison window that causes no coast. -/
  | clkTest (value : Word)
  /-- R437. Every 125 ms, an engine sends TIME_ANNOUNCE to each time neighbour. -/
  | timeAnnouncePeriod
  /-- R437. An engine updates its best grandmaster and its parent from an announcement. -/
  | timeAnnounceReceive (h : Header) (payload : Bytes)
  /-- R437. An announcement not renewed within 375 ms is forgotten. -/
  | announceExpire (src : Eid)
  /-- R438. Every 2^-10 s, a parent sends TIME_SYNC to each child. -/
  | timeSyncPeriod
  /-- R439. A child computes its offset and disciplines FTIME by stepping or trimming. -/
  | timeSyncReceive (h : Header) (payload : Bytes)
  /-- R438. A parent answers a delay request with TIME_DELAY_RESP carrying its ingress stamp. -/
  | timeDelayReqReceive (h : Header) (payload : Bytes)
  /-- R438. A child updates its link delay estimate. -/
  | timeDelayRespReceive (h : Header) (payload : Bytes)
  /-- R441. After 8 missed syncs, or the grandmaster forgotten, the engine freezes trim and enters holdover. -/
  | holdoverEnter
  /-- R441. holdover_ms expires, and time lock clears. -/
  | holdoverExpire
  /-- R444. PPS_OUT rises when FTIME seconds advance while pps_en and time lock are set. -/
  | ppsRise
  /-- R444. PPS_OUT falls when the fraction reaches 0x2000_0000. -/
  | ppsFall
  /-- R445. Every 10 µs of island time, the Gauge integrates energy into its channels and emits MPULSE pulses. -/
  | gaugeInterval (eCore eHbmRail engineBeats allBeats : Nat)
  /-- R445. The M-die sense point reports the engine's share of M-die CUC energy. -/
  | gaugeMdieReport (energy : Nat)
  /-- R449. The island counts CLK_TIME edges against the RCO and declares or ends a supervision fault. -/
  | gaugeSupervisionWindow (edges : Nat)
  /-- R450. Sub-island power-up starts a new epoch with zeroed counters and logs a power loss. -/
  | gaugePowerUp (calFail : Option Nat)
  /-- R452. The island signs and writes the next queued readout, at most one per 5 ms. -/
  | gaugeSign
  /-- R457. A tester requests a readout through the metrology test port, with its own nonce. -/
  | metrologyRead (kind : Byte) (nonce : BitVec 128)
  /-- R457. A tester injects a Gauge detector through the metrology test port, and it is logged. -/
  | metrologyInject (detector : Byte)
  /-- R451. A calibration write on the test port is applied if unsealed, or refused and logged if sealed. -/
  | metrologyCalWrite (word : Nat) (value : BitVec 32)
  /-- R451. The seal fuse is blown at final test, locking calibration, firmware, counters and log. -/
  | sealBlow
  /-- R461. Every 1 ms, a polder tests its next lane and retires it if it fails. -/
  | laneTest (polder : Nat)
  /-- R462. Every 1 ms, the next control-SRAM data macro is tested in rotation. -/
  | csramMacroTest (polder : Nat)
  /-- R466. After 10 ms with no firmware heartbeat, the control processor is reset. -/
  | cpHeartbeatTimeout
  /-- R481. A pending injection becomes armed when FTIME reaches its arm time. -/
  | injectionArmTime
  /-- R483. A write to SOL_INJ_CTL arms or disarms an injection, or only stores its fields. -/
  | injCtlWrite (value : Word)
  /-- R484. VDD_CORE or VDD_SRAM leaves tolerance, and the engine enters cold reset. -/
  | railFault (rail : Rail)
  /-- R486. Cold reset reloads fuses and straps and clears engine state under Table Boot-2. -/
  | coldReset
  /-- R488. Release of cold reset starts the clocks and the phases of start-up. -/
  | coldResetRelease
  /-- R496. Once the clocks run, the engine runs all six test sets and moves to waiting for firmware. -/
  | bootSelftest (found : List Finding)
  /-- R487. A write of SOL_CTL.eng_reset sends PEER_DOWN and resets the engine. -/
  | engReset
  /-- R490. A write of SOL_CTL.fw_load makes the boot ROM read, verify and start a firmware image. -/
  | fwLoad
  /-- R492. A write of SOL_CTL.svn_commit raises the anti-rollback floor to the running image's svn. -/
  | svnCommit
  /-- R493. A write of SOL_CTL.cfg_commit commits the staged set before ring 0 runs. -/
  | cfgCommit
  /-- R506. A write to SOL_RCT_BASE is taken only while every ring is disabled. -/
  | rctBaseWrite (value : Word)
  /-- R507. Writing SOL_RING0_CTL.enable as 1 walks the control tables and enables ring 0. -/
  | ring0Enable
  /-- R507. Writing SOL_RING0_CTL.enable as 0 disables ring 0, or resets it from the error state. -/
  | ring0Disable
  /-- R503. An MMIO write to a staged register stages its RWS fields and applies its RW fields at once. -/
  | stageWrite (offset : Nat) (value : Word)
  /-- R508. A write of SOL_STAGE_CTL.discard empties the staged set. -/
  | stageDiscard
  /-- R510. Clearing a mask bit while its event is pending sends one MSI-X message. -/
  | irqMaskWrite (value : Word)
  /-- R499. A write to any register without a row of its own, applied by access code, phase and alignment. -/
  | registerWrite (offset size : Nat) (value : Word)
  /-- R355. The HBM4 stacks or LPDDR5X packages finish training, so SOL_MEM_STATUS reports their rates and the packages' lp_online bits set. -/
  | memoryTrained (hbmRate lpRate : Nat)
  /-- R457. MEN goes high and a test-port session opens, which the Gauge logs with code 0x0A. -/
  | metrologySessionOpen (calWrite : Bool)
  /-- R461. A 20 µs in-service lane test ends, and a failing lane is retired or its polder fails. -/
  | laneTestEnd (polder : Nat) (pass : Bool)
  /-- R462. A control-SRAM macro test ends, and the macro is returned, repaired, replaced by its spare or withdrawn. -/
  | csramMacroTestEnd (polder : Nat) (outcome : TestOutcome)
  /-- R478. Once the tasks accepted before a level 3 or 4 REPAIR_CTL have completed, the unit is swapped with its spare and acceptance resumes. -/
  | repairApplyPoint
  /-- R495. Once earlier tasks have drained, SELFTEST runs its test sets, repairs softly, writes its result block and resumes acceptance. -/
  | selftestRun (found : List Finding)
  /-- R499. A narrow or misaligned register read returns zero and is logged by detector 0x1A. -/
  | misalignedRegisterRead (offset size : Nat)
  deriving DecidableEq, Repr, Inhabited

end Sys2Proof
end

