-- ==== Sys2Proof/Config.lean ====
section
/-! DEFINITION. What the spec leaves open: constants without a body, so that nothing can be proved of a value of theirs.
Each is applied to the operands it depends on, or to the state's draw counter for a fresh value. -/

namespace Sys2Proof.Config

/-- The function unit's own coefficients (R521) as they show: whether the result one place above the correctly rounded
one is returned where that one, for the reduced argument, is `r`. Functions: 0 reciprocal, 1 rsqrt, 2 exp2, 3 log2. -/
opaque unitUp : Nat → F32 → Bool

/-- The same for one place below. -/
opaque unitDown : Nat → F32 → Bool

/-- The payload of a NaN that an addition or product of pooling, scatter or far adds yields (R133, R204). -/
opaque nanPayload : F32 → F32 → F32

/-- The share of a row's dropped positions that falls to a term merged from several positions, where the messages carry
only merged weights (R136, R404). -/
opaque mergedPositions : Nat → Nat

/-- The secret per-signature number of an ECDSA signature (R454), by draw. -/
opaque signNonce : Nat → Nat

/-- The global row number of a record that another engine's update has this engine's CUC write: by requester, TID and the record's fabric
physical address, since UPDATE_ROW does not carry it (R198, Table Fab-4). -/
opaque foreignRow : Nat → Nat → Nat → BitVec 40

/-- Whether the gradient primary of another engine has stopped taking buckets at a time: no message tells its requesters (R183, R298). -/
opaque primaryStalled : Nat → Word → Bool

/-- A byte that the spec leaves undefined, by draw. -/
opaque freeByte : Nat → Byte

/-- A word that the spec leaves undefined, by draw. -/
opaque freeWord : Nat → Word

end Sys2Proof.Config
end

