-- ==== Sys2Proof/Machine/Float.lean ====
section
/-! DEFINITION. FP32 arithmetic (R218), the compensated step (R132), the function unit (R162 to R165) and rounding. A
finite FP32 value is an integer multiple of 2^−149, and every operation is computed exactly and then rounded once. -/

namespace Sys2Proof.Machine

/-! ### Rounding -/

/-- a / b rounded to the nearest integer, ties to even. -/
def divRne (a b : Nat) : Nat :=
  let q := a / b
  let r := a % b
  if 2 * r < b then q else if b < 2 * r then q + 1 else if q % 2 = 0 then q else q + 1

/-- a / b rounded down, or up where the 16 random bits `u` carry its fraction over (R197). -/
def divSto (u a b : Nat) : Nat :=
  if 65536 ≤ a % b * 65536 / b + u then a / b + 1 else a / b

/-- ⌊log2 (a / b)⌋ for positive a and b. -/
def log2Floor (a b : Nat) : Int :=
  let k : Int := (Nat.log2 a : Int) - (Nat.log2 b : Int)
  if 0 ≤ k then (if b * 2 ^ k.toNat ≤ a then k else k - 1)
  else (if b ≤ a * 2 ^ (-k).toNat then k else k - 1)

/-- The code, without sign, of the positive value a / b in a format of `mb` mantissa bits and exponent bias `bias`,
rounded by `rnd`, with the exponent range unbounded above (R83). Zero has code 0. -/
def roundCode (rnd : Nat → Nat → Nat) (mb bias a b : Nat) : Nat :=
  if a = 0 then 0
  else
    let lowest : Int := 1 - (bias : Int)
    let e := max (log2Floor a b) lowest
    let sh : Int := (mb : Int) - e
    let q := if 0 ≤ sh then rnd (a * 2 ^ sh.toNat) b else rnd a (b * 2 ^ (-sh).toNat)
    (e - lowest).toNat * 2 ^ mb + q

/-! ### FP32 values -/

def f32Sign (x : F32) : Bool := x.getLsbD 31
def f32Exp (x : F32) : Nat := bitsNat x 23 8
def f32Man (x : F32) : Nat := bitsNat x 0 23
def f32IsNan (x : F32) : Bool := f32Exp x == 255 && f32Man x != 0
def f32IsInf (x : F32) : Bool := f32Exp x == 255 && f32Man x == 0
def f32IsFinite (x : F32) : Bool := f32Exp x != 255
def f32IsZero (x : F32) : Bool := bitsNat x 0 31 == 0

/-- The canonical quiet NaN. -/
def f32Qnan : F32 := 0x7FC00000
def f32One : F32 := 0x3F800000
def f32Inf (neg : Bool) : F32 := if neg then 0xFF800000 else 0x7F800000
def f32Zero (neg : Bool) : F32 := if neg then 0x80000000 else 0

/-- A NaN made quiet. -/
def f32Quiet (x : F32) : F32 := x ||| 0x00400000

/-- The magnitude of a finite value in units of 2^−149. -/
def f32Mag (x : F32) : Nat :=
  if f32Exp x = 0 then f32Man x else (2 ^ 23 + f32Man x) * 2 ^ (f32Exp x - 1)

/-- A finite value in units of 2^−149. -/
def f32Int (x : F32) : Int := if f32Sign x then -(f32Mag x : Int) else f32Mag x

/-- The FP32 value of ±(a / b), rounded to nearest even; beyond the range it is infinity. -/
def f32Round (neg : Bool) (a b : Nat) : F32 :=
  let c := roundCode divRne 23 127 a b
  let c := if 0x7F800000 ≤ c then 0x7F800000 else c
  BitVec.ofNat 32 (if neg then c + 2 ^ 31 else c)

/-- The FP32 value of z / b, with zero of the given sign. -/
def f32OfInt (zeroNeg : Bool) (z : Int) (b : Nat) : F32 :=
  if z = 0 then f32Zero zeroNeg else f32Round (z < 0) z.natAbs b

/-- An unsigned integer as FP32, rounded to nearest even. -/
def f32OfNat (n : Nat) : F32 := f32Round false n 1

def f32Abs (x : F32) : F32 := x &&& 0x7FFFFFFF
def f32Neg (x : F32) : F32 := x ^^^ 0x80000000

/-- The first NaN operand made quiet, or else `r` (R218). -/
def nanFirst (ops : List F32) (r : F32) : F32 :=
  match ops.find? f32IsNan with
  | some n => f32Quiet n
  | none => r

/-- a + b (R218). -/
def fadd (a b : F32) : F32 :=
  nanFirst [a, b] <|
    if f32IsInf a then (if f32IsInf b && f32Sign a != f32Sign b then f32Qnan else a)
    else if f32IsInf b then b
    else f32OfInt (f32Sign a && f32Sign b) (f32Int a + f32Int b) (2 ^ 149)

/-- a − b (R218). -/
def fsub (a b : F32) : F32 := nanFirst [a, b] (fadd a (f32Neg b))

/-- a × b (R218). -/
def fmul (a b : F32) : F32 :=
  nanFirst [a, b] <|
    let neg := f32Sign a != f32Sign b
    if f32IsInf a || f32IsInf b then (if f32IsZero a || f32IsZero b then f32Qnan else f32Inf neg)
    else f32OfInt neg (f32Int a * f32Int b) (2 ^ 298)

/-- a × b + c with one rounding (R218). -/
def ffma (a b c : F32) : F32 :=
  nanFirst [a, b, c] <|
    let neg := f32Sign a != f32Sign b
    if f32IsInf a || f32IsInf b then
      if f32IsZero a || f32IsZero b then f32Qnan
      else if f32IsInf c && f32Sign c != neg then f32Qnan else f32Inf neg
    else if f32IsInf c then c
    else f32OfInt (neg && f32Sign c) (f32Int a * f32Int b + f32Int c * 2 ^ 149) (2 ^ 298)

/-- c − a × b with one rounding (R218). -/
def ffms (a b c : F32) : F32 := nanFirst [a, b, c] (ffma (f32Neg a) b c)

/-- a < b on values that are not NaN; −0 and +0 are equal. -/
def flt (a b : F32) : Bool :=
  if f32IsNan a || f32IsNan b then false
  else if f32IsZero a && f32IsZero b then false
  else if f32Sign a then (if f32Sign b then bitsNat b 0 31 < bitsNat a 0 31 else true)
  else (if f32Sign b then false else bitsNat a 0 31 < bitsNat b 0 31)

/-- maximum(a, b): NaN if either is, and +0 above −0 (R218). -/
def fmax (a b : F32) : F32 :=
  nanFirst [a, b] (if flt a b || (f32IsZero a && f32IsZero b && f32Sign a) then b else a)

/-- minimum(a, b) (R218). -/
def fmin (a b : F32) : F32 :=
  nanFirst [a, b] (if flt b a || (f32IsZero a && f32IsZero b && f32Sign b) then b else a)

/-! ### Arithmetic whose NaN payloads the spec leaves open -/

/-- The result of an operation of pooling, scatter or far adds: IEEE 754-2019 leaves the payload of a NaN free. -/
def openNan (a b r : F32) : F32 := if f32IsNan r then Config.nanPayload a b ||| f32Qnan else r

def padd (a b : F32) : F32 := openNan a b (fadd a b)
def psub (a b : F32) : F32 := openNan a b (fsub a b)
def pmul (a b : F32) : F32 := openNan a b (fmul a b)

/-- The compensated step of R132 and R133 on a (sum, compensation) pair. -/
def compStep (s c x : F32) (add sub : F32 → F32 → F32) : F32 × F32 :=
  let t := add s x
  if f32IsFinite t then
    if flt (f32Abs s) (f32Abs x) then (t, add c (add (sub x t) s))
    else (t, add c (add (sub s t) x))
  else (t, c)

/-- The step in pooling and in the gradient store. -/
def poolStep (g : F32 × F32) (x : F32) : F32 × F32 := compStep g.1 g.2 x padd psub

/-- A finalised sum fl(s + c); exact zero is +0 (R132, R134). -/
def finalise (g : F32 × F32) : F32 :=
  let r := padd g.1 g.2
  if f32IsZero r then 0 else r

/-- The compensated sum of a list, finalised. -/
def compSum (xs : List F32) : F32 := finalise (xs.foldl poolStep (0, 0))

/-! ### The function unit -/

/-- ⌊√n⌋, by `k` binary digits. -/
def isqrtAux (n : Nat) : Nat → Nat → Nat
  | 0, r => r
  | k + 1, r => let t := r + 2 ^ k; isqrtAux n k (if t * t ≤ n then t else r)

/-- ⌊√n⌋. -/
def isqrt (n : Nat) : Nat := isqrtAux n (Nat.log2 n / 2 + 1) 0

/-- Whether a result is a power of two. -/
def pow2Result (r : F32) : Bool :=
  let m := bitsNat r 0 31
  if f32Exp r = 0 then m &&& (m - 1) == 0 else f32Man r == 0

/-- Whether a result is an integer. -/
def intResult (r : F32) : Bool := f32IsFinite r && f32Mag r % 2 ^ 149 == 0

/-- Whether the value of function `k` is exact there (Table Pool-7). -/
def exactResult (k : Nat) (r : F32) : Bool := if k = 3 then intResult r else pow2Result r

def unitUpAt (k : Nat) (r : F32) : Bool :=
  Config.unitUp k r && !exactResult k r && 2 ≤ bitsNat r 0 31 && bitsNat r 0 31 < 0x7F7FFFFF

/-- The unit's result for a reduced argument (Table Pool-6), from the correctly rounded one: at most one place away, the same bits for
the same reduced argument, monotone in it, and untouched at the exact points (R162 to R164, R521). -/
def unitResult (k : Nat) (r : F32) : F32 :=
  if exactResult k r || bitsNat r 0 31 < 2 || 0x7F7FFFFF ≤ bitsNat r 0 31 then r
  else if unitUpAt k r then r + 1
  else if Config.unitDown k r && !unitUpAt k (r - 1) then r - 1
  else r

/-- ±r × 2^k, rounded to nearest even. -/
def f32Scale (neg : Bool) (r : F32) (k : Int) : F32 :=
  if 0 ≤ k then f32Round neg (f32Mag r * 2 ^ k.toNat) (2 ^ 149) else f32Round neg (f32Mag r) (2 ^ (149 + (-k).toNat))

/-- reciprocal(x): x = ±2^e × u with u in [1, 2) (R162 to R165). -/
def freciprocal (x : F32) : F32 :=
  if f32IsNan x then f32Quiet x
  else if f32IsInf x then f32Zero (f32Sign x)
  else if f32IsZero x then f32Inf (f32Sign x)
  else
    let z := f32Mag x
    let k := Nat.log2 z
    f32Scale (f32Sign x) (unitResult 0 (f32Round false (2 ^ k) z)) (149 - k)

/-- rsqrt(x): x = 2^(2e) × u with u in [1, 4), here u = 2z / 4^h and e = h − 75. -/
def frsqrt (x : F32) : F32 :=
  if f32IsNan x then f32Quiet x
  else if f32IsZero x then f32Inf (f32Sign x)
  else if f32Sign x then f32Qnan
  else if f32IsInf x then 0
  else
    let z := f32Mag x
    let h := (Nat.log2 z + 1) / 2
    let y := isqrt (4 ^ (h + 60) / (2 * z))
    let exact := y * y * (2 * z) == 4 ^ (h + 60)
    f32Scale false (unitResult 1 (if exact then f32Round false y (2 ^ 60) else f32Round false (2 * y + 1) (2 ^ 61))) (75 - (h : Int))

/-- ln 2 in units of 2^−96. -/
def ln2Fixed : Nat := 54916777467707473351141471128

/-- Σ t^k / k! from the term `term` on, in units of 2^−96, truncated term by term. -/
def expSeries (t : Nat) : Nat → Nat → Nat → Nat
  | 0, _, _ => 0
  | fuel + 1, k, term => term + expSeries t fuel (k + 1) (term * t / 2 ^ 96 / (k + 1))

/-- exp2(x): x = n + u with u in [0, 1). -/
def fexp2 (x : F32) : F32 :=
  if f32IsNan x then f32Quiet x
  else if f32IsInf x then (if f32Sign x then 0 else x)
  else if f32IsZero x then f32One
  else if !f32Sign x && 128 * 2 ^ 149 ≤ f32Mag x then f32Inf false
  else if f32Sign x && 150 * 2 ^ 149 ≤ f32Mag x then 0
  else
    let z := f32Int x
    let n : Int := z / 2 ^ 149
    let u := (z % 2 ^ 149).toNat
    let y := if u = 0 then 2 ^ 96 else expSeries (u * ln2Fixed / 2 ^ 149) 32 0 (2 ^ 96)
    f32Scale false (unitResult 2 (f32Round false y (2 ^ 96))) n

/-- `fuel` binary digits of log2 (m / 2^96), for m from 2^96 up to 2^97. -/
def log2Digits : Nat → Nat → Nat → Nat
  | 0, _, acc => acc
  | fuel + 1, m, acc =>
    let q := m * m / 2 ^ 96
    if 2 ^ 97 ≤ q then log2Digits fuel (q / 2) (2 * acc + 1) else log2Digits fuel q (2 * acc)

/-- log2(x): x = 2^e × u with u in [1, 2), and the result is e + log2(u). -/
def flog2 (x : F32) : F32 :=
  if f32IsNan x then f32Quiet x
  else if f32IsZero x then f32Inf true
  else if f32Sign x then f32Qnan
  else if f32IsInf x then x
  else
    let z := f32Mag x
    let k := Nat.log2 z
    let m := z * 2 ^ 96 / 2 ^ k
    let e : Int := (k : Int) - 149
    f32OfInt false (e * 2 ^ 149 + f32Mag (unitResult 3 (f32OfInt false (log2Digits 64 m 0) (2 ^ 64)))) (2 ^ 149)

/-- SQRT (R219). -/
def fsqrt (x : F32) : F32 :=
  if f32IsNan x then f32Quiet x
  else if f32IsZero x then x
  else if f32Sign x then f32Qnan
  else if f32IsInf x then x
  else fmul x (frsqrt x)

end Sys2Proof.Machine
end

