-- ==== Sys2Proof/Machine/Formats.lean ====
section
/-! DEFINITION. Number formats (R79 to R85), row sizes and strides (R75, R77, R78) and output layouts (R152, R154). -/

namespace Sys2Proof.Machine

/-- A floating-point element format of Table Rows-5: exponent bits, mantissa bits, bias, whether it has infinities, and
whether it has NaNs. -/
structure ElemFmt where
  eb : Nat
  mb : Nat
  bias : Nat
  inf : Bool
  nan : Bool

def fmtBf16 : ElemFmt := ⟨8, 7, 127, true, true⟩
def fmtFp16 : ElemFmt := ⟨5, 10, 15, true, true⟩
def fmtE4m3 : ElemFmt := ⟨4, 3, 7, false, true⟩
def fmtE5m2 : ElemFmt := ⟨5, 2, 15, true, true⟩
def fmtE3m2 : ElemFmt := ⟨3, 2, 3, false, false⟩
def fmtE2m3 : ElemFmt := ⟨2, 3, 1, false, false⟩
def fmtE2m1 : ElemFmt := ⟨2, 1, 1, false, false⟩

/-- The element format of FMT codes 0x1 to 0x9 (Table Rows-4). -/
def elemFmt : Nat → ElemFmt
  | 1 => fmtBf16
  | 2 => fmtFp16
  | 3 => fmtE4m3
  | 4 => fmtE5m2
  | 5 => fmtE4m3
  | 6 => fmtE5m2
  | 7 => fmtE3m2
  | 8 => fmtE2m3
  | _ => fmtE2m1

/-- emax of R84. -/
def mxEmax : Nat → Int
  | 5 => 8
  | 6 => 15
  | 7 => 4
  | _ => 2

def ElemFmt.width (f : ElemFmt) : Nat := 1 + f.eb + f.mb

/-- The largest finite code without sign. -/
def ElemFmt.maxCode (f : ElemFmt) : Nat :=
  if f.inf then (2 ^ f.eb - 1) * 2 ^ f.mb - 1
  else if f.nan then 2 ^ (f.eb + f.mb) - 2
  else 2 ^ (f.eb + f.mb) - 1

/-- FP32 of ±m × 2^k. -/
def f32Scaled (neg : Bool) (m : Nat) (k : Int) : F32 :=
  if 0 ≤ k then f32Round neg (m * 2 ^ k.toNat) 1 else f32Round neg m (2 ^ (-k).toNat)

/-- The element of code `c` times 2^s, as FP32 (R81). -/
def decodeElem (f : ElemFmt) (s : Int) (c : Nat) : F32 :=
  let neg := c / 2 ^ (f.eb + f.mb) % 2 == 1
  let e := c / 2 ^ f.mb % 2 ^ f.eb
  let m := c % 2 ^ f.mb
  let nan : F32 := BitVec.ofNat 32 ((if neg then 2 ^ 31 else 0) + 0x7F800000 + m * 2 ^ (23 - f.mb)) ||| 0x00400000
  if f.inf && e + 1 == 2 ^ f.eb then (if m = 0 then f32Inf neg else nan)
  else if f.nan && !f.inf && c % 2 ^ (f.eb + f.mb) == 2 ^ (f.eb + f.mb) - 1 then nan
  else if e = 0 then f32Scaled neg m (s + 1 - f.bias - f.mb)
  else f32Scaled neg (2 ^ f.mb + m) (s + e - f.bias - f.mb)

/-- The code of x × 2^(−s), and whether it saturated (R83). -/
def convertElem (f : ElemFmt) (rnd : Nat → Nat → Nat) (s : Int) (x : F32) : Nat × Bool :=
  let sign := if f32Sign x then 2 ^ (f.eb + f.mb) else 0
  if f32IsNan x then
    if f.inf then
      (sign + ((2 ^ f.eb - 1) * 2 ^ f.mb) + (f32Man x / 2 ^ (23 - f.mb) ||| 2 ^ (f.mb - 1)), false)
    else (sign + 2 ^ (f.eb + f.mb) - 1, false)
  else if f32IsInf x then
    if f.inf then (sign + (2 ^ f.eb - 1) * 2 ^ f.mb, false) else (sign + 2 ^ (f.eb + f.mb) - 1, false)
  else
    let k : Int := 149 + s
    let c := if 0 ≤ k then roundCode rnd f.mb f.bias (f32Mag x) (2 ^ k.toNat)
             else roundCode rnd f.mb f.bias (f32Mag x * 2 ^ (-k).toNat) 1
    if f.maxCode < c then (sign + f.maxCode, true) else (sign + c, false)

/-- ⌊log2 |x|⌋ of a finite value that is not zero. -/
def f32Log2 (x : F32) : Int := (Nat.log2 (f32Mag x) : Int) - 149

/-- The greatest magnitude of the finite elements; zero if there are none. -/
def amaxOf (xs : List F32) : F32 :=
  xs.foldl (fun m x => if f32IsFinite x && flt m (f32Abs x) then f32Abs x else m) 0

/-! ### Bit strings -/

/-- The bytes of codes of `b` bits, code 0 lowest (R82). -/
def packCodes (b : Nat) (cs : List Nat) : Bytes :=
  leBytes (ceilDiv (b * cs.length) 8) (cs.foldr (fun c acc => c % 2 ^ b + acc * 2 ^ b) 0)

/-- `n` codes of `b` bits each. -/
def unpackCodes (b n : Nat) (bs : Bytes) : List Nat :=
  let z := leNat bs
  (List.range n).map (fun j => z / 2 ^ (b * j) % 2 ^ b)

/-! ### Sizes -/

/-- Element bits of an FMT code (Table Rows-4). -/
def fmtBits : Nat → Nat
  | 0 => 32
  | 1 => 16
  | 2 => 16
  | 7 => 6
  | 8 => 6
  | 9 => 4
  | 11 => 4
  | _ => 8

def isMx (fmt : Nat) : Bool := 5 ≤ fmt && fmt ≤ 9
def isRowQ (fmt : Nat) : Bool := fmt == 10 || fmt == 11

/-- Stored working-copy size of Table Rows-4. -/
def wcSize (fmt w : Nat) : Nat :=
  fmtBits fmt * w / 8 + (if isMx fmt then w / 32 else if isRowQ fmt then 8 else 0)

/-- Working-copy stride (R78). -/
def wcStride (fmt w : Nat) : Nat :=
  let z := wcSize fmt w
  if z ≤ 16 then 16 else if z ≤ 32 then 32 else if z ≤ 64 then 64 else if z ≤ 128 then 128 else roundUp z 256

/-- Bytes of a slot by its mode. -/
def slotBytes (mode w : Nat) : Nat := if mode = 1 then 4 else if mode = 2 then 4 * w else 0

/-- Record size (R75, Table Rows-3). -/
def recSize (a b w : Nat) : Nat := 16 + 4 * w + slotBytes a w + slotBytes b w

/-- Record stride (R75). -/
def recStride (a b w : Nat) : Nat := roundUp (recSize a b w) 16

/-! ### FP32 lists -/

def f32List (n : Nat) (bs : Bytes) : List F32 := (unpackCodes 32 n bs).map (BitVec.ofNat 32)
def f32Bytes (xs : List F32) : Bytes := packCodes 32 (xs.map BitVec.toNat)

/-! ### Decoding a working copy (R81) -/

def decodeRow (fmt w : Nat) (bs : Bytes) : List F32 :=
  let codes := unpackCodes (fmtBits fmt) w bs
  let trailer := bs.drop (fmtBits fmt * w / 8)
  if fmt = 0 then codes.map (BitVec.ofNat 32)
  else if isMx fmt then
    codes.zipIdx.map fun (c, i) =>
      let sc := leField trailer (i / 32) 1
      if sc = 255 then f32Qnan else decodeElem (elemFmt fmt) ((sc : Int) - 127) c
  else if isRowQ fmt then
    let scale : F32 := BitVec.ofNat 32 (leField trailer 0 4)
    let bias : F32 := BitVec.ofNat 32 (leField trailer 4 4)
    codes.map fun q => ffma scale (f32OfNat q) bias
  else codes.map (decodeElem (elemFmt fmt) 0)

/-! ### Producing a working copy (R83 to R85) -/

/-- What an encoding gives: the stored bytes, whether an element saturated, and whether one was not finite. -/
structure Encoded where
  bytes : Bytes
  sat : Bool
  nonfinite : Bool

/-- How element i is rounded. -/
abbrev Rounding := Nat → Nat → Nat → Nat

def rneAll : Rounding := fun _ => divRne

/-- s of R84 for a block whose greatest magnitude is `amax`. -/
def mxScale (fmt : Nat) (amax : F32) : Int :=
  if f32IsZero amax then -127 else max (-127) (min 127 (f32Log2 amax - mxEmax fmt))

/-- One MX block: its codes, scale byte, saturation and non-finite mark. -/
def mxBlock (fmt : Nat) (rnd : Rounding) (first : Nat) (xs : List F32) : List Nat × Nat × Bool × Bool :=
  if xs.any (fun x => !f32IsFinite x) then (xs.map (fun _ => 0), 255, false, true)
  else
    let s := mxScale fmt (amaxOf xs)
    let cs := xs.zipIdx.map fun (x, i) => convertElem (elemFmt fmt) (rnd (first + i)) s x
    (cs.map Prod.fst, (s + 127).toNat, cs.any Prod.snd, false)

/-- `n` blocks of 32 elements. -/
def blocks32 : Nat → List F32 → List (List F32)
  | 0, _ => []
  | n + 1, xs => xs.take 32 :: blocks32 n (xs.drop 32)

def encodeMx (fmt w : Nat) (rnd : Rounding) (xs : List F32) : Encoded :=
  let bl := (blocks32 (w / 32) xs).zipIdx.map fun (b, j) => mxBlock fmt rnd (32 * j) b
  { bytes := packCodes (fmtBits fmt) (bl.flatMap (fun b => b.1)) ++ bl.map (fun b => BitVec.ofNat 8 b.2.1)
    sat := bl.any (fun b => b.2.2.1)
    nonfinite := bl.any (fun b => b.2.2.2) }

/-- scale of R85, from lo and hi. -/
def rowScale (qmax : Nat) (lo hi : F32) : F32 :=
  let d := fsub hi lo
  if f32IsInf d then f32OfInt false (f32Int hi - f32Int lo) (2 ^ 149 * qmax)
  else f32OfInt false (f32Int d) (2 ^ 149 * qmax)

def encodeRowQ (fmt : Nat) (rnd : Rounding) (xs : List F32) : Encoded :=
  let qmax := if fmt = 10 then 255 else 15
  let fin := xs.filter f32IsFinite
  let lo := match fin with | [] => 0 | x :: t => t.foldl fmin x
  let hi := match fin with | [] => 0 | x :: t => t.foldl fmax x
  let scale := rowScale qmax lo hi
  let qs := xs.zipIdx.map fun (x, i) =>
    if !f32IsFinite x || f32IsZero scale then (0, false)
    else
      let q := rnd i (f32Int x - f32Int lo).toNat (f32Mag scale)
      if qmax < q then (qmax, true) else (q, false)
  { bytes := packCodes (fmtBits fmt) (qs.map Prod.fst) ++ leBytes 4 scale.toNat ++ leBytes 4 lo.toNat
    sat := qs.any Prod.snd
    nonfinite := xs.any (fun x => !f32IsFinite x) }

/-- The stored bytes of a row of w elements in an FMT code. -/
def encodeRow (fmt w : Nat) (rnd : Rounding) (xs : List F32) : Encoded :=
  if fmt = 0 then ⟨f32Bytes xs, false, xs.any (fun x => !f32IsFinite x)⟩
  else if isMx fmt then encodeMx fmt w rnd xs
  else if isRowQ fmt then encodeRowQ fmt rnd xs
  else
    let cs := xs.zipIdx.map fun (x, i) => convertElem (elemFmt fmt) (rnd i) 0 x
    ⟨packCodes (fmtBits fmt) (cs.map Prod.fst), cs.any Prod.snd, xs.any (fun x => !f32IsFinite x)⟩

/-! ### Outputs (R152, R154) -/

/-- Row size of an output FMT, which is not a raw copy (Table Pool-4). -/
def outSize (fmt w : Nat) : Nat := if fmt = 3 ∨ fmt = 4 then roundUp w 4 + 4 else wcSize fmt w

/-- FP8 with a power-of-two row scale (R154). -/
def encodeFp8Scaled (fmt : Nat) (xs : List F32) : Bytes :=
  let amax := amaxOf xs
  let emax : Int := if fmt = 3 then 8 else 15
  let s : Int := if f32IsZero amax then 0 else max (-126) (min 127 (f32Log2 amax - emax))
  let cs := xs.map fun x => BitVec.ofNat 8 (convertElem (elemFmt fmt) divRne s x).1
  padTo (roundUp xs.length 4) cs ++ leBytes 4 (f32Scaled false 1 s).toNat

/-- A finalised row in an output FMT. -/
def encodeOut (fmt : Nat) (xs : List F32) : Bytes :=
  if fmt = 3 ∨ fmt = 4 then encodeFp8Scaled fmt xs else (encodeRow fmt xs.length rneAll xs).bytes

end Sys2Proof.Machine
end

