-- ==== Sys2Proof/Machine/Crypto.lean ====
section
/-! DEFINITION. CRC-32C (R41, RFC 3720), SHA-256 (FIPS 180-4) and ECDSA over P-256 (FIPS 186-5), the standards of Table
Scope-4. -/

namespace Sys2Proof.Machine

/-! ### CRC-32C -/

/-- One bit of the reflected division. -/
def crcBit (c : BitVec 32) : BitVec 32 :=
  if c.getLsbD 0 then (c >>> 1) ^^^ 0x82F63B78 else c >>> 1

/-- One byte. -/
def crcByte (c : BitVec 32) (b : Byte) : BitVec 32 :=
  crcBit (crcBit (crcBit (crcBit (crcBit (crcBit (crcBit (crcBit (c ^^^ b.setWidth 32))))))))

/-- CRC-32C of a byte string (R41). -/
def crc32c (bs : Bytes) : BitVec 32 := bs.foldl crcByte 0xFFFFFFFF ^^^ 0xFFFFFFFF

/-- A byte string with its CRC-32C behind it. -/
def withCrc (bs : Bytes) : Bytes := bs ++ leBytes 4 (crc32c bs).toNat

/-- Whether the last four bytes are the CRC-32C of those before. -/
def crcHolds (bs : Bytes) : Bool := leField bs (bs.length - 4) 4 == (crc32c (bs.take (bs.length - 4))).toNat

/-! ### SHA-256

FIPS 180-4 defines its constants as fractions of roots of primes; they are computed here from that definition. -/

/-- The greatest r with r^k ≤ n, digit by binary digit from 2^(b − 1) down. -/
def rootDigits (k n : Nat) : Nat → Nat → Nat
  | 0, r => r
  | b + 1, r => rootDigits k n b (if (r + 2 ^ b) ^ k ≤ n then r + 2 ^ b else r)

/-- The first 32 bits behind the point of the k-th root of a prime below 2^9. -/
def rootFraction (k p : Nat) : BitVec 32 := BitVec.ofNat 32 (rootDigits k (p * 2 ^ (32 * k)) 37 0)

/-- The primes up to 311, the sixty-fourth. -/
def shaPrimes : List Nat :=
  (List.range 312).filter fun n => decide (2 ≤ n) && (List.range 16).all fun d => decide (n ≤ d + 2) || n % (d + 2) != 0

/-- The constant of each round. -/
def shaKeys : List (BitVec 32) := shaPrimes.map (rootFraction 3)

/-- The hash value before the first block. -/
def shaStart : List (BitVec 32) := (shaPrimes.take 8).map (rootFraction 2)

/-- The exclusive or of a word turned right by each of some amounts. -/
def turned (by_ : List Nat) (x : BitVec 32) : BitVec 32 := by_.foldl (fun y k => y ^^^ x.rotateRight k) 0

/-- One round on the eight working words, `k` being the round's message word plus its constant. -/
def shaRound (words : List (BitVec 32)) (k : BitVec 32) : List (BitVec 32) :=
  match words with
  | a :: b :: c :: d :: e :: f :: g :: h :: _ =>
    let chosen := g ^^^ (e &&& (f ^^^ g))
    let most := (a &&& b) ||| (c &&& (a ||| b))
    let step := k + h + chosen + turned [6, 11, 25] e
    (step + most + turned [2, 13, 22] a) :: a :: b :: c :: (step + d) :: e :: f :: [g]
  | short => short

/-- Extend the message words by `n`; the newest stands first. -/
def shaExtend (n : Nat) (words : List (BitVec 32)) : List (BitVec 32) :=
  (List.range n).foldl (fun w _ =>
    let old := fun (k : Nat) => w.getD (k - 1) 0
    (old 16 + old 7 + (turned [7, 18] (old 15) ^^^ (old 15 >>> 3)) + (turned [17, 19] (old 2) ^^^ (old 2 >>> 10))) :: w) words

/-- Hash one block of 64 bytes into a hash value. -/
def shaBlock (hash : List (BitVec 32)) (block : Bytes) : List (BitVec 32) :=
  let given := (List.range 16).map fun k => BitVec.ofNat 32 (beNat ((block.drop (4 * k)).take 4))
  let words := (shaExtend 48 given.reverse).reverse
  List.zipWith (· + ·) hash ((List.zipWith (· + ·) words shaKeys).foldl shaRound hash)

/-- SHA-256 of a byte string, 32 bytes. -/
def sha256 (bs : Bytes) : Bytes :=
  let m := bs ++ [0x80] ++ zeroBytes ((119 - bs.length % 64) % 64) ++ beBytes 8 (8 * bs.length)
  let hash := (List.range (m.length / 64)).foldl (fun hash k => shaBlock hash ((m.drop (64 * k)).take 64)) shaStart
  hash.flatMap fun w => beBytes 4 w.toNat

/-! ### P-256 -/

def p256P : Nat := 0xFFFFFFFF00000001000000000000000000000000FFFFFFFFFFFFFFFFFFFFFFFF
def p256N : Nat := 0xFFFFFFFF00000000FFFFFFFFFFFFFFFFBCE6FAADA7179E84F3B9CAC2FC632551
def p256B : Nat := 0x5AC635D8AA3A93E7B3EBBD55769886BC651D06B0CC53B0F63BCE3C3E27D2604B
def p256Gx : Nat := 0x6B17D1F2E12C4247F8BCE6E563A440F277037D812DEB33A0F4A13945D898C296
def p256Gy : Nat := 0x4FE342E2FE1A7F9B8EE7EB4A7C0F9E162BCE33576B315ECECBB6406837BF51F5

/-- b^e mod m over the lowest `fuel` bits of e. -/
def powMod (m : Nat) : Nat → Nat → Nat → Nat
  | 0, _, _ => 1 % m
  | fuel + 1, b, e =>
    let r := powMod m fuel (b * b % m) (e / 2)
    if e % 2 = 1 then b * r % m else r

/-- The inverse of a modulo the prime m. -/
def invMod (m a : Nat) : Nat := powMod m 256 (a % m) (m - 2)

/-- A point of the curve; none is the point at infinity. -/
abbrev EcPoint := Option (Nat × Nat)

def subP (a b : Nat) : Nat := (a + p256P - b % p256P) % p256P

def ecAdd : EcPoint → EcPoint → EcPoint
  | none, q => q
  | some p, none => some p
  | some (x1, y1), some (x2, y2) =>
    if x1 = x2 ∧ (y1 + y2) % p256P = 0 then none
    else
      let l := if x1 = x2 then (3 * x1 * x1 + p256P - 3) % p256P * invMod p256P (2 * y1) % p256P
               else subP y2 y1 * invMod p256P (subP x2 x1) % p256P
      let x3 := subP (subP (l * l % p256P) x1) x2
      some (x3, subP (l * subP x1 x3 % p256P) y1)

/-- k·P over the lowest `fuel` bits of k. -/
def ecMul : Nat → Nat → EcPoint → EcPoint
  | 0, _, _ => none
  | fuel + 1, k, p =>
    let r := ecMul fuel (k / 2) (ecAdd p p)
    if k % 2 = 1 then ecAdd p r else r

/-- The signature (r, s) of a digest under private key d, with per-signature number k. -/
def ecdsaSign (d k : Nat) (digest : Bytes) : Nat × Nat :=
  let r := match ecMul 256 k (some (p256Gx, p256Gy)) with | none => 0 | some (x, _) => x % p256N
  (r, invMod p256N k * (beNat digest + r * d) % p256N)

/-- Whether (r, s) signs the digest under public key (x, y). -/
def ecdsaVerify (x y r s : Nat) (digest : Bytes) : Bool :=
  let onCurve := x < p256P && y < p256P && y * y % p256P == (x * x * x + (p256P - 3) * x + p256B) % p256P
  if onCurve && 0 < r && r < p256N && 0 < s && s < p256N then
    let w := invMod p256N s
    let u1 := beNat digest * w % p256N
    let u2 := r * w % p256N
    match ecAdd (ecMul 256 u1 (some (p256Gx, p256Gy))) (ecMul 256 u2 (some (x, y))) with
    | none => false
    | some (px, _) => px % p256N == r
  else false

end Sys2Proof.Machine
end

