-- ==== Sys2Proof/Machine/Parts.lean ====
section
/-! DEFINITION. The kinds of record the engine's state is made of: plain data, one structure per thing the spec names. -/

namespace Sys2Proof.Machine

/-! ### Places in memory -/

/-- Where a translated byte lies: device memory by fabric physical address (Table Xlate-1), host memory by link and
host physical address (R371), or the scratchpad by offset (R250). -/
inductive Place where
  | dev (fpa : Nat)
  | host (link hpa : Nat)
  | scratch (off : Nat)
  deriving DecidableEq, Repr, Inhabited

/-- One held translation: a page or a run of pages of 2^lg bytes from `va` (R319, R320), with the leaf's W. -/
structure Xlat where
  va     : Nat
  lg     : Nat
  len    : Nat
  place  : Place
  w      : Bool
  locked : Bool
  /-- the leaf it was derived from -/
  pte    : Word
  deriving DecidableEq, Repr, Inhabited

/-! ### Rings, tasks and completions -/

inductive RingState where
  | disabled | enabled | error | draining
  deriving DecidableEq, Repr, Inhabited

/-- A ring: its RCT entry (Table Cmd-2), the doorbell's counts (R27), and what R35, R66 and the interrupt rule need. -/
structure Ring where
  sqBase : Word
  cqBase : Word
  cqWb : Word
  depthLog2 : Byte
  cls : Byte
  prio : Byte
  proto : Byte
  msix : BitVec 16
  irqCoalesce : BitVec 16
  rateFloor : BitVec 16
  ringFlags : BitVec 16
  st : RingState
  sqHead : BitVec 32
  sqTail : BitVec 32
  cqTail : BitVec 32
  cqHead : BitVec 32
  completions : BitVec 32
  errCause : Byte
  /-- completions since the ring last raised its interrupt -/
  sinceIrq : Nat
  /-- the RING_CONFIG task that drains the ring -/
  drainTask : Option Nat
  /-- the drain ends as a reset -/
  drainReset : Bool
  /-- its queues or cq_wb are lost: completion records are discarded (R370, R517) -/
  discard : Bool
  /-- driver_id of the ring's last HELLO (R57) -/
  driver : Word
  /-- what its last doorbell came behind: host accesses that waited, and lines with a held-back write (R376, log entry 108) -/
  behind : List Nat
  behindLines : List Nat
  deriving DecidableEq, Repr, Inhabited

/-- How a task ended: the fields of its completion record (Table Cmd-19). -/
structure Result where
  status : Byte
  detail : BitVec 24
  dropped : BitVec 32
  work : BitVec 32
  deriving DecidableEq, Repr, Inhabited

/-- One (bag, merged weight) term of a row (R111). -/
structure Term where
  bag : Nat
  weight : F32
  deriving DecidableEq, Repr, Inhabited

/-- A distinct row of a list: local block, offset, window count and terms (R406); `positions` are the list positions
the requester keeps for a gather (R114). -/
structure RowEnt where
  lb : Nat
  off : Nat
  count : Nat
  terms : List Term
  positions : List Nat
  /-- the positions that each term merged, where the requester is this engine (R136) -/
  merged : List Nat
  deriving DecidableEq, Repr, Inhabited

/-- A coalesced window that has not been sent: its number, polder, the bags whose first position lies in it, and one
list per holder (R107 to R116). -/
structure Window where
  num : Nat
  polder : Nat
  bags : List Nat
  /-- bags of earlier windows that go on in it (R107) -/
  cont : List Nat
  /-- zero-length bags whose start falls in it -/
  zeros : List Nat
  lists : List (Nat × List RowEnt)
  /-- its indices and weights in list order, each 64 bits wide or 32, and how many the sluice has taken (R102) -/
  idx : List (Nat × F32)
  wide : Bool
  fed : Nat
  deriving DecidableEq, Repr, Inhabited

/-- An open requester-side bag (R137): sums, the (holder, window) final bits still expected, the positions kept, the
polder, and the spill slots reserved beyond its combine groups. -/
structure Bag where
  bag : Nat
  polder : Nat
  groups : Nat
  slots : List Nat
  sums : List (F32 × F32)
  await : List (Nat × Nat)
  kept : Nat
  unmapped : Nat
  deriving DecidableEq, Repr, Inhabited

/-- The output rows of a look-up: the first one's address, the distance between rows, a row's size, and how many there are. -/
structure OutRows where
  addr : Nat
  stride : Nat
  size : Nat
  count : Nat
  deriving DecidableEq, Repr, Inhabited

/-- A look-up, gather, slab gather, lookahead, pin or unpin in progress at the requester. -/
structure LookupRun where
  windows : List Window
  bags : List Bag
  /-- finals each bag expects over the whole task, by bag -/
  finals : List (Nat × List (Nat × Nat))
  /-- kept positions of each bag -/
  keptOf : List (Nat × Nat)
  /-- acknowledgements outstanding: (engine, kind of Table Fab-4) -/
  await : List (Nat × Nat)
  /-- gathered rows outstanding: (holder, first position, list positions) -/
  rows : List (Nat × Nat × List Nat)
  /-- the positions that the terms of lists to this engine itself merged: window, local block, offset, and one count a term -/
  mine : List (Nat × Nat × Nat × List Nat)
  /-- slabs injected into a relay chain and not yet in place at every hop: (unit, hops left) -/
  relay : List (Nat × Nat)
  /-- bags, rows or slabs written in full, or rows counted by holders -/
  work : Nat
  /-- the output rows, where the task writes any -/
  out : Option OutRows
  /-- output rows written in full (R128) -/
  written : List Nat
  /-- output rows of other look-ups that ran at the same time (R156) -/
  shared : List OutRows
  /-- the end the task will take once what is outstanding has drained -/
  failing : Option Result
  deriving DecidableEq, Repr, Inhabited

/-- A scatter in progress at the requester: buckets outstanding as (primary, bucket). -/
structure ScatterRun where
  /-- (primary, kind of Table Fab-4) acknowledgements outstanding -/
  await : List (Nat × Nat)
  contributions : Nat
  resent : Bool
  fwd : Option Nat
  releasing : List Nat
  deriving DecidableEq, Repr, Inhabited

/-- An UPDATE_APPLY in progress: the program bound at acceptance and the rows updated so far. -/
structure UpdateRun where
  program : List (BitVec 32)
  /-- rows sent to other engines' CUCs, oldest first: engine, local block, offset -/
  await : List (Nat × Nat × Nat)
  /-- engines that have been sent the packet -/
  told : List Nat
  updated : Nat
  failed : Option (Byte × BitVec 24)
  deriving DecidableEq, Repr, Inhabited

/-- An ATOMIC_ADD in progress: groups outstanding by line, and elements added. -/
structure AtomicRun where
  await : List (Nat × Nat × Nat)
  added : Nat
  failed : Option (Byte × BitVec 24)
  deriving DecidableEq, Repr, Inhabited

/-- A stream transfer queued or in progress (R284 to R287). `next` is the next tile to write, `flight` the tiles written and not
yet in place, with the messages still unacknowledged, or the EIDs of the hops that have not the tile yet. `context` is the polder whose
thread context it holds, from its start on (R290). From tile `spoiled` on nothing is signalled (R295); `refused` says that the
destination engine has reported a failure. -/
structure TransferRun where
  stream : Nat
  /-- its bases and outermost count, taken at acceptance (R286) -/
  src : Nat
  dst : Nat
  outer : Nat
  srcFrames : Bool
  dstFrames : Bool
  context : Option Nat
  next : Nat
  signalled : Nat
  flight : List (Nat × List (BitVec 32))
  bytes : Nat
  waited : Bool
  spoiled : Option Nat
  refused : Bool
  failing : Option Result
  deriving DecidableEq, Repr, Inhabited

/-- An XLATE_PREFETCH in progress: the pages still to be walked, the stream whose budget it uses, and the pages newly
translated. -/
structure PrefetchRun where
  next : Nat
  stop : Nat
  stream : Option Nat
  count : Nat
  deriving DecidableEq, Repr, Inhabited

/-- A PT_INVALIDATE in progress: its range, the host-held lines whose back-invalidates are unanswered, whether translations have
been dropped, the engines that have not dropped theirs, the entries dropped, and an engine that was lost. -/
structure DropRun where
  start : Nat
  len : Nat
  wide : Bool
  lines : List Nat
  dropped : Bool
  await : List Nat
  count : Nat
  lost : Option Nat
  deriving DecidableEq, Repr, Inhabited

/-- The page that a MEM_MIGRATE is moving: its address, its leaf's address and value, and the pool entry it takes. -/
structure PageMove where
  va : Nat
  leafAt : Nat
  leaf : Word
  frame : Word
  deriving DecidableEq, Repr, Inhabited

/-- A MEM_MIGRATE in progress. -/
structure MoveRun where
  next : Nat
  stop : Nat
  page : Option PageMove
  lines : List Nat
  await : List Nat
  moved : Nat
  deriving DecidableEq, Repr, Inhabited

/-- What an accepted task is doing. -/
inductive Work where
  | fence (waits : List Nat) (count : Nat)
  | ringDrain (ring : Nat)
  | configCommit (lines : List Nat) (entries : Nat)
  | bermConfig
  | semWait
  | semSignal (msgId : BitVec 32)
  | lookup (l : LookupRun)
  | cancel (tasks : List Nat) (holders : List Nat) (count : Nat) (lost : Option Nat)
  | scatter (r : ScatterRun)
  | gradFlush (waits : List Nat)
  | update (u : UpdateRun)
  | atomic (a : AtomicRun)
  | transfer (t : TransferRun)
  | snapshot
  /-- a SHARD_MIGRATE at its destination: rows awaited per block and content, rows written, and the local blocks they go to -/
  | migrate (await : List (Nat × Nat)) (rows : Nat) (targets : List (Nat × Nat))
  | tableCommit (tid : Nat) (ver : BitVec 16)
  | refresh (tid : Nat) (ver : BitVec 16) (await : List (Nat × Nat × Nat)) (lost : Option Nat) (refused : Bool) (faulted : Option Nat)
  | prefetch (r : PrefetchRun)
  | invalidate (r : DropRun)
  | memMigrate (r : MoveRun)
  | resolve (await : List Nat) (count : Nat)
  | forwarded (dst : Nat)
  | placement (region : Nat)
  | gauge
  | repair
  | selftest
  | relaySet (await : List Nat) (hops : Nat) (refused : Option Result)
  /-- a culvert write whose lines the host still holds (R311) -/
  | landing
  deriving DecidableEq, Repr, Inhabited

/-- Where a task stands. -/
inductive Phase where
  /-- held behind ORDERED (Table Cmd-5) -/
  | held
  /-- waiting for the task ahead of it (R193, R285) or for a thread context -/
  | queued
  /-- waiting for a page that MEM_MIGRATE is moving (R318) -/
  | migWait (va : Nat) (write : Bool) (since : Word)
  | running (w : Work)
  /-- ended; its completion record is not yet written (R28) -/
  | done (r : Result)
  deriving DecidableEq, Repr, Inhabited

/-- The staged configuration that tasks bind at acceptance (R46, R63): SOL_COH_CTL, SOL_PT_ROOT and SOL_MIG_POOLS. The other
staged registers are engine-wide controls, or change only while no task uses what they name (R145). -/
structure TaskCfg where
  cohCtl : Word
  ptRoot : Word
  migPools : Word
  deriving DecidableEq, Repr, Inhabited

/-- Everything one accepted packet causes (Table Scope-2). -/
structure Task where
  id : Nat
  ring : Nat
  op : Byte
  pkt : Packet
  /-- the protocol version bound at acceptance (R46) -/
  proto : Byte
  /-- the table version bound at acceptance (R46) -/
  bind : Option (Nat × BitVec 16)
  cfg : TaskCfg
  /-- the staged set that a CONFIG_COMMIT captured at acceptance to discard it (R62, R64) -/
  captured : List (Nat × Word)
  /-- the block that a QUERY of a table captured at acceptance (R65) -/
  block : Bytes
  phase : Phase
  /-- the result of a task that took effect at its acceptance and that ORDERED holds from completing (log entry 34) -/
  early : Option Result
  /-- holders that have received a list of the task (R125) -/
  sent : List Nat
  dropped : Nat
  sat : Bool
  spill : Bool
  /-- a repair or withdrawal while it ran: detector and error-log index (R467) -/
  degraded : Option (Byte × BitVec 16)
  /-- the originating engine, when the packet was forwarded -/
  origin : Option (Nat × BitVec 32)
  deriving DecidableEq, Repr, Inhabited

/-- A commit that has captured its set and not reached its commit point (R62, R63). -/
structure PendCommit where
  entries : List (Nat × Word)
  task : Option Nat
  deriving DecidableEq, Repr, Inhabited

/-- The command front end: rings, tasks, the staged set and the counters of Table Cmd-25. -/
structure CmdState where
  rings : SMap Ring
  tasks : List Task
  nextTask : Nat
  /-- of the last 15 acceptances from rings other than ring 0, which went to normal rings, newest first (R36) -/
  recent : List Bool
  /-- the ring last accepted from in each class and level, for round-robin: key 0 normal, 1 fill, 2 + level priority -/
  lastRing : SMap Nat
  /-- SOL_RING0_SQ or SOL_RING0_CQ was written since the last enable (R507) -/
  ring0Moved : Bool
  staged : List (Nat × Word)
  pendCommit : Option PendCommit
  lastReason : Byte
  lastIndex : BitVec 16
  fastAccepted : Word
  fwAccepted : Word
  indices : Word
  rowsSent : Word
  partials : Word
  contributions : Word
  farAdds : Word
  records : Word
  sat64 : Byte
  /-- MSI-X messages sent, oldest first: (host link, vector) -/
  msix : List (Nat × BitVec 16)
  deriving DecidableEq, Repr, Inhabited

/-! ### Registers software writes -/

/-- The live values of every RW and RWS register field (Table Reg-1). -/
structure Regs where
  rctBase : Word
  ring0Sq : Word
  ring0Cq : Word
  ring0Ctl : Word
  spillBase : Word
  spillCtl : Word
  wdogCtl : Word
  memCtl : Word
  fabCtl : Word
  fabRoute : Word
  fabNbr : Word
  fwSrc : Word
  stageSel : Word
  irqEvt : Word
  irqPend : Word
  irqMask : Word
  clkCtl : Word
  clkout : Word
  ftimeCtl : Word
  govCtl : Word
  govGain : Word
  hwinCtl : Word
  cohCtl : Word
  ptRoot : Word
  ctRootA : Word
  ctRootB : Word
  fcQueue : Word
  migPools : Word
  migTail : Word
  migHead : Word
  errBase : Word
  injCtl : Word
  hbmPpr : Word
  /-- the MSI-X table's entries that have been written (R513), and the pending-bit array -/
  msixTab : SMap (BitVec 128)
  msixPend : List Nat
  deriving DecidableEq, Repr, Inhabited

/-! ### Tables and versions -/

/-- The state of a live version (Table Ver-1); a version that is not listed is free. -/
inductive VerState where
  | opened | current | previous | retiring
  deriving DecidableEq, Repr, Inhabited

/-- A TABLE_RETIRE that has not freed its version (R240). -/
structure Retire where
  grace : Word
  ring : Nat
  tag : BitVec 32
  quiet : Bool
  deriving DecidableEq, Repr, Inhabited

structure Version where
  ver : BitVec 16
  st : VerState
  everCurrent : Bool
  retire : Option Retire
  deriving DecidableEq, Repr, Inhabited

/-- A pending TABLE_COMMIT (R238). -/
structure Commit where
  ver : BitVec 16
  ftime : Word
  task : Nat
  deriving DecidableEq, Repr, Inhabited

/-- A defined table: its 160 B descriptor (Table Rows-1, byte k at bits [8k + 7 : 8k]), its live versions in the order
they were opened, the counters of Table Rows-8 and the whole-slot marks of R242. -/
structure Table where
  desc : BitVec 1280
  versions : List Version
  commit : Option Commit
  missing : BitVec 32
  range : BitVec 32
  unmapped : BitVec 32
  sat : BitVec 3
  slotMarks : BitVec 4
  deriving DecidableEq, Repr, Inhabited

structure TableState where
  tables : SMap Table
  /-- the dirty directory of R242: (TID, slot, local block) -/
  dirty : List (Nat × Nat × Nat)
  /-- loadable program slots (Table Prog-7) -/
  progs : SMap (List (BitVec 32))
  deriving DecidableEq, Repr, Inhabited

/-! ### Look-ups at the holder -/

/-- What an event at this engine served, for the SAT and SPILL bits of its completion: a task of this engine, a list of another
engine's task, a queued bucket of another engine's scatter, or nothing. -/
inductive Who where
  | nobody
  | task (id : Nat)
  | list (src : Nat) (task : BitVec 32) (window : Nat)
  | bucket (src : Nat) (task : BitVec 32) (num : Nat)
  deriving DecidableEq, Repr, Inhabited

/-- A word of a sluice (Table Ingress-2), and the task whose window it belongs to. -/
structure SluiceWord where
  /-- 16 slots of 32 bits -/
  slots : List (BitVec 32)
  /-- bit j: byte j of the slots holds index data -/
  valid : BitVec 64
  /-- one weight for each index, in index order -/
  wslots : List F32
  window : BitVec 16
  wide : Bool
  last : Bool
  task : Nat
  deriving DecidableEq, Repr, Inhabited

/-- What a sluice holds twice (R105): each bank's write and read pointer, the bank being written, and the banks handed over and
not yet returned, the one being read first. Bank A is `false`. -/
structure SluicePtrs where
  writeA : Nat
  readA : Nat
  writeB : Nat
  readB : Nat
  writeBank : Bool
  readBanks : List Bool
  deriving DecidableEq, Repr, Inhabited

/-- A polder's sluice (R101 to R105): the words written in each bank and not yet presented, the indices of the word being packed
with its task, window and width, the indices the coalescer has taken from the word presented, and the two copies of the pointers. -/
structure Sluice where
  bankA : List SluiceWord
  bankB : List SluiceWord
  part : List (Nat × F32)
  writing : Option (Nat × Nat × Bool)
  taken : Nat
  ptrs : SluicePtrs
  ptrs2 : SluicePtrs
  deriving DecidableEq, Repr, Inhabited

/-- An open holder-side bag (R135): its sums, the spill slots that hold it when spilled, and its last touch. -/
structure PoolBag where
  bag : Nat
  /-- the sums, while the bag holds groups -/
  sums : List (F32 × F32)
  inGroups : Bool
  /-- the slots that hold a spilled bag -/
  slots : List Nat
  touched : Nat
  unmapped : Nat
  deriving DecidableEq, Repr, Inhabited

/-- A list a holder has received and not finished (R117). -/
structure HList where
  src : Nat
  task : BitVec 32
  tag : BitVec 32
  tid : Nat
  ver : BitVec 16
  window : Nat
  kind : Nat
  flags : Byte
  segs : Nat
  got : Nat
  polder : Nat
  bags : List PoolBag
  /-- rows kept under KEEP_LISTS or for a scatter -/
  rows : List RowEnt
  /-- fetches outstanding -/
  fetches : Nat
  /-- rows brought into the berm, or whose pin state changed -/
  work : Nat
  dropped : Nat
  /-- a row whose last term has not come (log entry 13) -/
  held : Option RowEnt
  /-- its version is free here: every row drops, and it changes nothing else (R237) -/
  dead : Bool
  /-- SAT and SPILL of the task it serves -/
  sat : Bool
  spill : Bool
  deriving DecidableEq, Repr, Inhabited

/-- A read of a row from memory that a holder waits for: a demand gather, a speculative fill, a pin fill, or the refill of a
sector after a macro test. -/
structure Fetch where
  id : Nat
  /-- the list served, by requester, task and window; none once nobody waits for it -/
  owner : Option (Nat × BitVec 32 × Nat)
  tid : Nat
  ver : BitVec 16
  row : RowEnt
  spec : Bool
  pin : Bool
  /-- lists that joined the fetch while it was pending (R122), with the row they asked for -/
  joined : List ((Nat × BitVec 32 × Nat) × RowEnt)
  /-- the granules to install; a flushed one is taken out (R274) -/
  sectors : List Nat
  /-- granules of them that a CUC has written since: not to be installed (R262) -/
  stale : List Nat
  deriving DecidableEq, Repr, Inhabited

/-- A kept list at a primary (R118, R171). -/
structure Kept where
  req : Nat
  tag : BitVec 32
  task : BitVec 32
  tid : Nat
  ver : BitVec 16
  rows : List RowEnt
  slots : List Nat
  /-- terms resent for one scatter (R173), not lists kept for a later one -/
  resent : Bool
  /-- a bucket has named it (log entry 17) -/
  used : Bool
  deriving DecidableEq, Repr, Inhabited

/-- The requester's side of kept lists (R171): n_b per bag, the pool mode, and the primaries that hold a term of each bag. -/
structure KeptReq where
  task : Nat
  tag : BitVec 32
  tid : Nat
  ver : BitVec 16
  mean : Bool
  nb : List (Nat × Nat)
  marks : List (Nat × Nat)
  complete : Bool
  missing : Bool
  slots : List Nat
  released : Bool
  users : List Nat
  deriving DecidableEq, Repr, Inhabited

/-- A CANCEL that waits for its task's issued gathers: requester, task, tag, and the fetches still out (R125). -/
structure CancelWait where
  src : Nat
  task : BitVec 32
  tag : BitVec 32
  fetches : List Nat
  /-- rows that LOOKAHEAD lists of the task brought into the berm before they ended (R128) -/
  work : Nat
  deriving DecidableEq, Repr, Inhabited

structure HolderState where
  lists : List HList
  fetches : List Fetch
  nextFetch : Nat
  kept : List Kept
  keptReq : List KeptReq
  /-- one sluice per logical polder -/
  sluice : List Sluice
  /-- order of the last touch of groups and sectors -/
  clock : Nat
  spilled : BitVec 32
  restored : BitVec 32
  early : BitVec 32
  poolSat : BitVec 3
  cancels : List CancelWait
  deriving DecidableEq, Repr, Inhabited

/-! ### Gradients -/

/-- An open or closed gradient of a row (R166, R179, R180): its partial accumulators, counts and spill slots. -/
structure Grad where
  tid : Nat
  ver : BitVec 16
  lb : Nat
  off : Nat
  /-- the UPDATE_APPLY that closed it -/
  closed : Option Nat
  parts : List (List (F32 × F32))
  count : BitVec 32
  since : Nat
  split : Bool
  slots : List Nat
  touched : Nat
  /-- its storage was lost: detector and error-log index (R146) -/
  lost : Option (Byte × BitVec 16)
  /-- the scatters whose contributions are in it, by requester and task (R468) -/
  givers : List (Nat × BitVec 32)
  deriving DecidableEq, Repr, Inhabited

/-- A gradient bucket queued at a primary (R407). -/
structure Bucket where
  src : Nat
  task : BitVec 32
  tag : BitVec 32
  tid : Nat
  ver : BitVec 16
  fmt : Nat
  num : Nat
  fwd : BitVec 32
  segs : Nat
  got : Nat
  len : Nat
  bytes : Bytes
  /-- contributions already added -/
  added : Nat
  sat : Bool
  spill : Bool
  deriving DecidableEq, Repr, Inhabited

/-- The step parameters of a remote UPDATE_APPLY, from its COMMAND_FORWARD (Table Fab-4, type 0x21). -/
structure RemoteUpdate where
  src : Nat
  task : BitVec 32
  pkt : Packet
  deriving DecidableEq, Repr, Inhabited

structure GradState where
  grads : List Grad
  buckets : List Bucket
  stalled : Bool
  remote : List RemoteUpdate
  spilled : BitVec 32
  restored : BitVec 32
  rowsSplit : BitVec 32
  notKept : BitVec 32
  stalls : BitVec 32
  gradSat : BitVec 6
  deriving DecidableEq, Repr, Inhabited

/-! ### The berm -/

/-- A sector (Table Berm-2) with its 256 bytes and its way. `filled` and `lastUse` order fills and uses. -/
structure Sector where
  g : Nat
  tid : Nat
  slot : Nat
  valid : BitVec 4
  data : BitVec 2048
  freq : BitVec 32
  spec : Bool
  hot : Bool
  pin : Bool
  pending : Bool
  lastUse : Nat
  filled : Nat
  way : Nat
  /-- the look-up that brought the sector in, by requester and task number, while no other task has hit it (R125) -/
  bringer : Option (Nat × BitVec 32)
  deriving DecidableEq, Repr, Inhabited

/-- A macro test in progress: the macro, whether the bank's spare serves it, and the pinned and hot sectors drained. -/
structure MacroTest where
  unit : Nat
  spare : Bool
  drained : List (Nat × Sector)
  deriving DecidableEq, Repr, Inhabited

structure BermState where
  size : Nat
  share : Nat
  threshold : BitVec 32
  sets : SMap (List Sector)
  hits : BitVec 32
  misses : BitVec 32
  specFills : BitVec 32
  specUnused : BitVec 32
  evictions : BitVec 32
  promotions : BitVec 32
  demotions : BitVec 32
  pinRefused : BitVec 32
  bypasses : BitVec 32
  specSkipped : BitVec 32
  sat : BitVec 11
  retired : BitVec 16
  /-- logical macros withdrawn from service -/
  withdrawn : List Nat
  nextMacro : Nat
  test : Option MacroTest
  deriving DecidableEq, Repr, Inhabited

/-! ### Streams, semaphores and relay chains -/

/-- An armed stream: its descriptor (Table Stream-1, byte k at bits [8k + 7 : 8k]) and current state (Table Stream-7). -/
structure Stream where
  desc : BitVec 2048
  persistent : Bool
  full : BitVec 16
  empty : BitVec 16
  src : Nat
  dst : Nat
  outer : Nat
  xlist : List Word
  srcFrames : Bool
  dstFrames : Bool
  disarming : Option Nat
  lastStatus : Byte
  transfers : BitVec 32
  transferSat : Bool
  tilesDone : BitVec 32
  waits : Word
  deriving DecidableEq, Repr, Inhabited

/-- A relay chain defined at this engine (R303). -/
structure Chain where
  hops : List (BitVec 128)
  ring : Bool
  chunkKib : Nat
  deriving DecidableEq, Repr, Inhabited

/-- What this engine stores, as a hop, of some owner's chain (R304): the entries it has been sent, by hop index. -/
structure Hop where
  owner : Nat
  chain : Nat
  count : Nat
  ring : Bool
  chunkUnits : Nat
  entries : SMap (BitVec 128)
  /-- units of which a chunk failed here: task and unit -/
  failed : List (Nat × Nat)
  deriving DecidableEq, Repr, Inhabited

structure StreamState where
  streams : SMap Stream
  /-- streams that have been disarmed, as they were then (R302) -/
  past : SMap Stream
  sems : SMap (BitVec 32)
  chains : SMap Chain
  hops : List Hop
  /-- elapsed time when the watchdog's present period started (R299) -/
  wdogSince : Word
  deriving DecidableEq, Repr, Inhabited

/-! ### Translation and faults -/

/-- A walk outstanding: its page, access, and the task it serves; a speculative walk raises no fault (R322). -/
structure Walk where
  id : Nat
  va : Nat
  write : Bool
  spec : Bool
  task : Option Nat
  stream : Option Nat
  /-- since when a demand walk has met MIG -/
  mig : Option Word
  deriving DecidableEq, Repr, Inhabited

/-- Advice on a range (R345). -/
structure Advice where
  start : Nat
  len : Nat
  code : Nat
  tier : Nat
  deriving DecidableEq, Repr, Inhabited

/-- A fault record of the open or a closed batch (Table Xlate-6) with its task entries (Table Xlate-7). -/
structure FRec where
  va : Nat
  cause : Nat
  level : Nat
  access : Nat
  engines : BitVec 16
  entry : Word
  ftime : Word
  remoteEid : Nat
  remoteBatch : Nat
  tasks : List (BitVec 128)
  deriving DecidableEq, Repr, Inhabited

structure Batch where
  seq : Nat
  recs : List FRec
  /-- elapsed time at the opening -/
  since : Word
  opened : Word
  closed : Word
  close : Nat
  deriving DecidableEq, Repr, Inhabited

structure XlateState where
  /-- the translation cache, most recently used first (R320) -/
  tlb : List Xlat
  ptGen : BitVec 32
  ringStore : SMap (List Xlat)
  spillStore : List Xlat
  ring0Store : List Xlat
  fcStore : List Xlat
  walks : List Walk
  nextWalk : Nat
  advice : List Advice
  open_ : Option Batch
  waiting : List Batch
  nextSeq : Nat
  lastSeq : Nat
  /-- batches written and not resolved, with the slot of the queue in use that holds each, if it lies there -/
  written : List (Nat × Option Nat × Batch)
  /-- batches that an accepted FAULT_RESOLVE of this engine, by task, has taken to resolve -/
  resolving : List (Nat × Batch)
  prod : BitVec 32
  cons : BitVec 32
  lost : BitVec 16
  poolEmpty : Bool
  ctMirror : Bool
  overflow : Bool
  /-- the error record of an impossible slot write has been written for the waiting batch (R522) -/
  slotFail : Bool
  xlateResult : Word
  /-- a conversion of SOL_XLATE_REQ in progress -/
  convert : Option Word
  deriving DecidableEq, Repr, Inhabited

/-! ### Memory -/

/-- Device memory by fabric physical address, host memory by link × 2^52 + address, and the scratchpad by offset: each in
the canonical form of `Memory.wf`. -/
structure MemState where
  dev : List Host.Cell
  host : List Host.Cell
  scratch : List Host.Cell
  /-- ranges of the scratchpad that are undefined: first offset, end, and the draw of the first byte -/
  undef : List (Nat × Nat × Nat)
  /-- poisoned 64 B lines of device memory, by line number -/
  poison : List Nat
  hbmOnline : BitVec 2
  hbmLost : BitVec 2
  hbmTrained : Bool
  lpOnline : BitVec 3
  lpLost : Bool
  hbmRate : Byte
  lpRate : BitVec 16
  poisonCount : BitVec 32
  /-- error-log index of the record of each unit that went offline -/
  offlineIdx : SMap (BitVec 16)
  /-- HBM rows already reported (R463) -/
  ceRows : List (Nat × Nat × Nat × Nat)
  /-- rows repaired by post-package repair, and the count of spares used per bank -/
  pprBusy : Bool
  pprResult : BitVec 2
  pprSpares : Byte
  deriving DecidableEq, Repr, Inhabited

/-- The thermal governor (R359 to R365). -/
structure GovState where
  integ : F32
  allowed : BitVec 9
  region : BitVec 2
  t0 : Byte
  t1 : Byte
  fails0 : Nat
  fails1 : Nat
  power : BitVec 16
  freeboard : Byte
  hardEff : Byte
  throttled : BitVec 32
  lpHot : Bool
  sensor : Bool
  atMin : Bool
  hard : Bool
  overridden : Bool
  deriving DecidableEq, Repr, Inhabited

/-! ### Host links and coherence -/

structure HostLink where
  up : Bool
  lost : Bool
  width : BitVec 4
  rate : BitVec 4
  deriving DecidableEq, Repr, Inhabited

/-- A line of device memory the host holds (R391): line number, link, the die slot of the window it came through, and the
virtual address it was reached by there. -/
structure DirLine where
  line : Nat
  link : Nat
  window : Nat
  va : Nat
  deriving DecidableEq, Repr, Inhabited

/-- A line of the near-add cache (R393): a device line or a host line (`link`), with its bytes. -/
structure NearLine where
  line : Nat
  link : Option Nat
  data : Bytes
  dirty : Bool
  deriving DecidableEq, Repr, Inhabited

/-- A group of adds that has not been applied: a near request with its NACKs so far, or, from 16 NACKs on, a group in the home's
queue (R388, R389). `origin` is the engine, task and tag of a group that another engine sent. -/
structure NearReq where
  id : Nat
  task : Nat
  origin : Option (Nat × Nat × Nat)
  line : Nat
  mask : BitVec 16
  addends : List F32
  nacks : Nat
  deriving DecidableEq, Repr, Inhabited

/-- A placement region (R383). -/
structure Region where
  off : Nat
  target : Nat
  len : Nat
  xl : List Xlat
  deriving DecidableEq, Repr, Inhabited

/-- A back-invalidate sent and not answered (R391), with the write it holds back: address and bytes. -/
structure BackInv where
  line : Nat
  link : Nat
  write : List (Nat × Bytes)
  deriving DecidableEq, Repr, Inhabited

/-- A host access through the window that waits: for a page that MEM_MIGRATE is moving, or for a line's back-invalidate. -/
structure HostReq where
  id : Nat
  page : Option Nat
  line : Option Nat
  link : Nat
  offset : Nat
  len : Nat
  data : Option Bytes
  deriving DecidableEq, Repr, Inhabited

/-- What follows a write that waits for the host's copies of its lines. -/
inductive Deed where
  /-- a culvert write is in place (R311) -/
  | culvert (id : Nat)
  /-- a relay unit is in place at this hop: the owner, its task and tag, the unit, and the hop's semaphore (R305) -/
  | hop (owner task tag unit sem : Nat)
  /-- update a row for another engine: the message and its payload -/
  | row (h : Header) (payload : Bytes)
  deriving DecidableEq, Repr, Inhabited

/-- A deed that waits until the host has given up lines (R391, R408). -/
structure Landing where
  lines : List Nat
  deed : Deed
  deriving DecidableEq, Repr, Inhabited

structure HostState where
  /-- deeds that wait for lines, oldest first -/
  landings : List Landing
  links : List HostLink
  dir : List DirLine
  backInv : List BackInv
  /-- host accesses that wait, oldest first -/
  waiting : List HostReq
  /-- reads of SOL_PLACE_FENCE that have not returned, with the lines each waits for -/
  fenceReads : List (List Nat)
  near : List NearLine
  nearReqs : List NearReq
  nextReq : Nat
  /-- lines another agent of the module holds or has queued for, as the environment reports -/
  predictor : SMap (BitVec 2)
  regions : SMap Region
  unclaimed : BitVec 32
  fence : Word
  poisonRd : BitVec 32
  droppedWr : BitVec 32
  /-- FTIME of the last host-window error record (R378) -/
  hwinLog : Option Word
  bisnp : BitVec 32
  dirEvict : BitVec 16
  toFar : BitVec 16
  /-- what the last host, adapter or register read returned; none for poison or Unsupported Request -/
  readData : Option Bytes
  deriving DecidableEq, Repr, Inhabited

/-! ### Fabric -/

/-- A message a sender keeps until it is acknowledged (R413). -/
structure SentMsg where
  msgId : BitVec 32
  dst : Nat
  header : Header
  payload : Bytes
  tries : Nat
  sentAt : Word
  /-- a chunk of another engine's task, passed on (R305) -/
  passed : Bool
  deriving DecidableEq, Repr, Inhabited

/-- A fabric port as the discovery agent knows it (R399, R400): its neighbour entry (Table Fab-1), missed periods, and
the far agent's EID. -/
structure Port where
  entry : BitVec 128
  up : Bool
  known : Bool
  missed : Nat
  farAgent : Nat
  deriving DecidableEq, Repr, Inhabited

/-- Class-3 credit toward or from one peer in one pool (R411), in 64 KiB units. -/
structure Credit where
  peer : Nat
  relay : Bool
  granted : Nat
  used : Nat
  returned : Nat
  /-- units asked for and not granted -/
  wanted : Nat
  deriving DecidableEq, Repr, Inhabited

structure FabState where
  kept : List SentMsg
  nextMsg : BitVec 32
  /-- next fseq per (destination, task) -/
  txSeq : List ((Nat × Nat) × BitVec 16)
  /-- next fseq expected per (source, task) -/
  rxSeq : List ((Nat × Nat) × BitVec 16)
  /-- messages held until the gap before them fills (R409) -/
  early : List (Header × Bytes)
  /-- messages whose delivery waits for a page that MEM_MIGRATE is moving, by walk (R318) -/
  stalled : List (Nat × Header × Bytes)
  /-- msg_ids accepted, per sender, with the FTIME of acceptance (R414) -/
  seen : List (Nat × BitVec 32 × Word)
  acksDue : List (Nat × BitVec 32)
  /-- REMOTE_WRITEs whose bytes could not be written: they are not acknowledged (R408) -/
  unwritten : List (Nat × BitVec 32)
  /-- discard records: requester, task, tag (R126) -/
  discards : List (Nat × BitVec 32 × BitVec 32)
  /-- SHARD_MIGRATEs that ended early: source, task, tag. Rows still on their way for them are discarded -/
  migEnded : List (Nat × BitVec 32 × BitVec 32)
  /-- peers marked lost, in the order they were declared -/
  lost : List Nat
  /-- the QFM version settled with a peer (R416), most recent first -/
  peerVer : List (Nat × Byte)
  ports : SMap Port
  /-- routing entries read since the last change of SOL_FAB_ROUTE (R401) -/
  routes : SMap (BitVec 128)
  grants : List Credit
  credits : List Credit
  foreign : BitVec 16
  retries : BitVec 16
  /-- the module's other engines: slots whose die is live -/
  liveSlots : List Nat
  /-- the lowest slot of another live engine with SOL_FAB_CTL.probe set, and with SOL_FC_QUEUE.collector set -/
  otherAgent : Option Nat
  otherCollector : Option Nat
  /-- messages to this engine itself, oldest first -/
  selfQ : List (Header × Bytes)
  /-- every message that has left, oldest first, with its fabric port, or 0xFFFF over the die-to-die ports -/
  sent : List (Nat × Header × Bytes)
  deriving DecidableEq, Repr, Inhabited

/-! ### Clocks and Fabric Time -/

/-- Which source the domains run from. -/
inductive ClkSrc where
  | rco | pllCrystal | pllRco
  deriving DecidableEq, Repr, Inhabited

/-- What the dividers are doing (R426). -/
inductive Ramp where
  | none | up | down
  deriving DecidableEq, Repr, Inhabited

structure ClkState where
  /-- SOL_CLK_STATUS.state (Table Clk-5) -/
  st : BitVec 4
  src : ClkSrc
  ramp : Ramp
  divA : Nat
  divF : Nat
  divC : Nat
  pllLock : Bool
  /-- the lock in progress aims at the crystal -/
  locking : Option Bool
  lastPass : Bool
  coast : Bool
  xtalFail : Bool
  returned : Bool
  coasts : Byte
  lastCount : BitVec 32
  passes : Nat
  testBusy : Bool
  testFail : Bool
  /-- tolerance of the running window and of the running test window: a new one applies from the next (Table Clk-4) -/
  tol : Nat
  testTol : Nat
  deriving DecidableEq, Repr, Inhabited

/-- An announcement not yet forgotten (R437). -/
structure Announce where
  src : Nat
  gm : Nat
  prio : Nat
  steps : Nat
  at_ : Word
  deriving DecidableEq, Repr, Inhabited

structure TimeState where
  /-- FTIME with 32 bits below the fraction (R433) -/
  ftime : BitVec 96
  /-- FTIME as it would be had it never been stepped: intervals are measured by it (R434) -/
  elapsed : BitVec 96
  trim : BitVec 24
  announces : List Announce
  parent : Option Nat
  /-- steps removed of the parent's announcement -/
  gmEid : Nat
  gmPrio : Nat
  steps : Nat
  lock : Bool
  stepped : Bool
  holdover : Bool
  holdSince : Option Word
  offset : Byte
  good : Nat
  bad : Nat
  /-- i of R439 in units of 2^−40 ns -/
  integ : Int
  /-- samples while acquiring: (t1, t2) pairs; none when the loop runs -/
  acquire : Option (List (Int × Int))
  delays : List Int
  /-- the last TIME_SYNC: its sequence and ingress stamp t2 -/
  lastSync : Option (BitVec 32 × Word)
  /-- the last (t1, t2) pair completed -/
  lastPair : Option (Int × Int)
  syncCount : Nat
  delayReq : Option (BitVec 32 × Word)
  nextReq : BitVec 32
  /-- TIME_SYNC egress per child: (child, sequence, FTIME of the last egress) -/
  egress : List (Nat × BitVec 32 × Word)
  /-- elapsed time at the last TIME_SYNC of the parent, or at its choice -/
  syncAt : Word
  ppsOut : Bool
  ppsSec : BitVec 32
  deriving DecidableEq, Repr, Inhabited

/-! ### The Gauge -/

/-- A queued readout (R452): its type, nonce, and the GAUGE_READ task, or none for the test port. -/
structure Readout where
  kind : Byte
  nonce : BitVec 128
  task : Option Nat
  deriving DecidableEq, Repr, Inhabited

structure GaugeState where
  epoch : Nat
  island : BitVec 96
  eTotal : Word
  eCore : Word
  eHbm : Word
  eMdie : Word
  rows : Word
  bytes : Word
  records : Word
  satFlag : Bool
  epochsSpent : Bool
  calFail : Bool
  supervision : Bool
  mdieAbsent : Bool
  coastMs : BitVec 32
  unsupMs : BitVec 32
  gapMs : BitVec 32
  /-- time below a millisecond in the three counters above, in µs -/
  coastUs : Nat
  unsupUs : Nat
  gapUs : Nat
  logCount : BitVec 32
  /-- the last 128 entries (Table Gauge-3), oldest first -/
  log : List (BitVec 128)
  seq : BitVec 32
  pTotal : BitVec 16
  pCore : BitVec 16
  pHbm : BitVec 16
  pMdie : BitVec 16
  /-- the M-die report of the present interval -/
  report : Option Nat
  queue : List Readout
  /-- MPULSE pulses emitted -/
  pulses : Nat
  /-- the last readout given to the test port -/
  portOut : Bytes
  inCoast : Bool
  /-- a detector injected through the test port, until its next event -/
  portInj : Option Byte
  deriving DecidableEq, Repr, Inhabited

/-! ### Repair, detectors and the error log -/

/-- An armed injection (R481). -/
structure Injection where
  detector : Byte
  every : Bool
  unit : BitVec 16
  count : BitVec 32
  armAt : Word
  armed : Bool
  seen : Nat
  deriving DecidableEq, Repr, Inhabited

/-- A soft repair (R460): level, unit, argument. -/
structure SoftRepair where
  level : Nat
  unit : Nat
  arg : BitVec 32
  deriving DecidableEq, Repr, Inhabited

structure RepairState where
  /-- error records numbered (SOL_ERR_PTR.prod) and consumed -/
  prod : BitVec 32
  cons : BitVec 32
  lost : BitVec 16
  sev0 : BitVec 16
  sev1 : BitVec 16
  sev2 : BitVec 16
  /-- records waiting for a ring (R471), oldest first: number and 64 bytes -/
  buffer : List (BitVec 32 × Bytes)
  fired : BitVec 256
  /-- per detector: FTIME of its last severity-0 record and records suppressed since (R472) -/
  quiet : SMap (Word × BitVec 32)
  inj : Option Injection
  /-- physical polder of each logical polder, and the lane out of service in each physical polder -/
  polderMap : List Nat
  laneOut : List (Option Nat)
  llsSpare : BitVec 8
  csramSpare : BitVec 9
  withdrawn : BitVec 12
  failed : Bool
  busy : Option Nat
  soft : List SoftRepair
  /-- the next lane to test in each logical polder, and the lane under test -/
  nextLane : List Nat
  laneTest : List (Option Nat)
  nextCsram : List Nat
  csramTest : List (Option Nat)
  /-- firings of detectors 0x03 and 0x05: (logical polder, FTIME) -/
  strikes : List (Nat × Word)
  deriving DecidableEq, Repr, Inhabited

/-! ### Fuses, straps and firmware -/

/-- Fuses, straps and one-time banks: what no reset clears. -/
structure Fuses where
  eid : Eid
  build : Byte
  step : Byte
  xsettle : Nat
  rcoCal : BitVec 21
  lpCount : Nat
  mdieSite : Nat
  lp0Site : Nat
  lp1Site : Nat
  lp2Site : Nat
  hbm0Site : Nat
  hbm1Site : Nat
  tcrit0 : Option Nat
  tcrit1 : Option Nat
  svnFloor : Nat
  keyHash0 : BitVec 256
  keyHash1 : BitVec 256
  revoked0 : Bool
  revoked1 : Bool
  /-- factory repair fuses and the field fuse bank (R460) -/
  factory : List SoftRepair
  field : List SoftRepair
  sealed : Bool
  gaugeSerial : Word
  gaugeFw : BitVec 32
  calId : BitVec 32
  cal : SMap (BitVec 32)
  gaugeKey : Nat
  gaugePubX : Nat
  gaugePubY : Nat
  epochBits : Nat
  deriving DecidableEq, Repr, Inhabited

structure BootState where
  /-- held in cold reset -/
  inReset : Bool
  /-- SOL_STATUS.phase (Table Boot-7) -/
  phase : BitVec 4
  fwResult : BitVec 4
  commitResult : BitVec 2
  bootFail : BitVec 6
  fwVersion : BitVec 32
  fwSvn : Byte
  /-- the retained image and the digest it was verified against (R490) -/
  image : Bytes
  digest : Bytes
  deriving DecidableEq, Repr, Inhabited

end Sys2Proof.Machine
end

