-- ==== Sys2Proof/Machine/Sluice.lean ====
section
/-! DEFINITION. A polder's sluice: packing indices into words, handing banks over, presenting words, and the duplicated pointers
(R101 to R105). -/

namespace Sys2Proof.Machine

/-! ### Words (R102, Table Ingress-2) -/

/-- Indices that a word holds. -/
def wordCap (wide : Bool) : Nat := if wide then 8 else 16

/-- The slots of an index: the low half of a 64-bit one first. -/
def indexSlots (wide : Bool) (x : Nat) : List (BitVec 32) :=
  if wide then [BitVec.ofNat 32 x, BitVec.ofNat 32 (x / 2 ^ 32)] else [BitVec.ofNat 32 x]

/-- A word of the window `num` of a task: slots without gaps, the rest padding that is not valid. -/
def packWord (task num : Nat) (wide last : Bool) (l : List (Nat × F32)) : SluiceWord :=
  let sl := l.flatMap (fun x => indexSlots wide x.1)
  { slots := sl ++ List.replicate (16 - sl.length) 0
    valid := BitVec.ofNat 64 (2 ^ (4 * sl.length) - 1)
    wslots := l.map (·.2) ++ List.replicate (16 - l.length) 0
    window := BitVec.ofNat 16 num
    wide := wide
    last := last
    task := task }

/-- Indices in a word: those whose bytes are valid. -/
def SluiceWord.count (w : SluiceWord) : Nat :=
  ((List.range 16).filter (fun k => w.valid.getLsbD (4 * k))).length / (if w.wide then 2 else 1)

def SluiceWord.index (w : SluiceWord) (k : Nat) : Nat :=
  let slot := fun (i : Nat) => ((w.slots[i]?).getD 0).toNat
  if w.wide then slot (2 * k) + slot (2 * k + 1) * 2 ^ 32 else slot k

/-- The indices and weights that the coalescer reads from a word; padding is no index. -/
def SluiceWord.indices (w : SluiceWord) : List (Nat × F32) :=
  (List.range w.count).map (fun k => (w.index k, (w.wslots[k]?).getD 0))

/-- The words of a window's indices. -/
def packWindow (task num : Nat) (wide : Bool) : Nat → List (Nat × F32) → List SluiceWord
  | 0, _ => []
  | fuel + 1, l =>
    if l.isEmpty then []
    else
      let rest := l.drop (wordCap wide)
      packWord task num wide rest.isEmpty (l.take (wordCap wide)) :: packWindow task num wide fuel rest

/-- What the coalescer reads of a window. -/
def throughSluice (task num : Nat) (wide : Bool) (l : List (Nat × F32)) : List (Nat × F32) :=
  (packWindow task num wide l.length l).flatMap (·.indices)

/-! ### Banks and pointers (R103 to R105) -/

def SluicePtrs.start : SluicePtrs := ⟨0, 0, 0, 0, false, []⟩

/-- Both banks empty, every pointer at bank A, word 0. -/
def Sluice.empty : Sluice := ⟨[], [], [], none, 0, SluicePtrs.start, SluicePtrs.start⟩

def Sluice.bank (x : Sluice) (b : Bool) : List SluiceWord := if b then x.bankB else x.bankA

def Sluice.setBank (b : Bool) (l : List SluiceWord) (x : Sluice) : Sluice := if b then { x with bankB := l } else { x with bankA := l }

def SluicePtrs.write (p : SluicePtrs) (b : Bool) : Nat := if b then p.writeB else p.writeA

def SluicePtrs.read (p : SluicePtrs) (b : Bool) : Nat := if b then p.readB else p.readA

def SluicePtrs.setBank (b : Bool) (w r : Nat) (p : SluicePtrs) : SluicePtrs :=
  if b then { p with writeB := w, readB := r } else { p with writeA := w, readA := r }

/-- Both copies of the pointers move alike. -/
def Sluice.move (f : SluicePtrs → SluicePtrs) (x : Sluice) : Sluice := { x with ptrs := f x.ptrs, ptrs2 := f x.ptrs2 }

/-- The comparison of every cycle. -/
def Sluice.agree (x : Sluice) : Bool := x.ptrs == x.ptrs2

/-- The bank that the write side would write has been handed over and not returned (R104). -/
def Sluice.writeStalled (x : Sluice) : Bool := x.ptrs.readBanks.contains x.ptrs.writeBank

/-- A word is complete: it goes to the bank being written. -/
def Sluice.putWord (w : SluiceWord) (x : Sluice) : Sluice :=
  let b := x.ptrs.writeBank
  (x.setBank b (x.bank b ++ [w])).move (fun p => p.setBank b (p.write b + 1) (p.read b))

/-- What the list reader writes in one cycle: indices of one window that fit the word being packed, and whether they are its last. -/
structure SluiceOffer where
  task : Nat
  num : Nat
  wide : Bool
  slots : List (Nat × F32)
  flush : Bool
  deriving DecidableEq, Repr, Inhabited

/-- The write side takes an offer: a full word, or one that the flush pads, goes to the bank; a partial word waits. -/
def Sluice.write (o : SluiceOffer) (x : Sluice) : Sluice :=
  let part := x.part ++ o.slots
  if o.flush || decide (wordCap o.wide ≤ part.length) then
    { x.putWord (packWord o.task o.num o.wide o.flush part) with
      part := [], writing := if o.flush then none else some (o.task, o.num, o.wide) }
  else { x with part := part, writing := some (o.task, o.num, o.wide) }

/-- The word the read side presents. -/
def Sluice.shown (x : Sluice) : Option SluiceWord := x.ptrs.readBanks.head?.bind (fun b => (x.bank b).head?)

/-- The coalescer takes up to 8 indices of the word presented; a bank whose words have all been presented returns. -/
def Sluice.read (x : Sluice) : Sluice :=
  match x.ptrs.readBanks, x.shown with
  | b :: rest, some w =>
    if x.taken + 8 < w.count then { x with taken := x.taken + 8 }
    else
      let left := (x.bank b).drop 1
      let x := { x.setBank b left with taken := 0 }
      if left.isEmpty then x.move (fun p => { p.setBank b 0 0 with readBanks := rest })
      else x.move (fun p => p.setBank b (p.write b) (p.read b + 1))
  | _, _ => x

/-- The end of a cycle: the bank being written is handed over where it is full, where a flush ended in it, or where the read side
holds no bank and the bank holds a complete word (R103). -/
def Sluice.handOver (flushed : Bool) (x : Sluice) : Sluice :=
  let b := x.ptrs.writeBank
  if !x.writeStalled && (decide (32 ≤ x.ptrs.write b) || flushed || (x.ptrs.readBanks.isEmpty && !(x.bank b).isEmpty)) then
    x.move (fun p => { p with readBanks := p.readBanks ++ [b], writeBank := !b })
  else x

/-- One cycle: the coalescer takes or waits, the list reader writes what it offers unless it is held back, and banks change hands. -/
def Sluice.cycle (take : Bool) (o : Option SluiceOffer) (x : Sluice) : Sluice :=
  let o := if x.writeStalled then none else o
  let x := if take then x.read else x
  let x := match o with | some o => x.write o | none => x
  x.handOver (o.any (·.flush))

/-- Discard a task's words (R125): the others close up, and a bank handed over that is left empty returns. -/
def Sluice.discard (task : Nat) (x : Sluice) : Sluice :=
  let keep := fun (l : List SluiceWord) => l.filter (fun w => w.task != task)
  let mine := x.writing.any (fun w => w.1 == task)
  let a := keep x.bankA
  let b := keep x.bankB
  let empty := fun (k : Bool) => if k then b.isEmpty else a.isEmpty
  let fix := fun (p : SluicePtrs) =>
    { (p.setBank false (p.readA + a.length) p.readA).setBank true (p.readB + b.length) p.readB with
      readBanks := p.readBanks.filter (fun k => !empty k) }
  let back := fun (p : SluicePtrs) => p.readBanks.foldl (fun p k => if empty k then p.setBank k 0 0 else p) p
  let y : Sluice := { x with
    bankA := a
    bankB := b
    part := if mine then [] else x.part
    writing := if mine then none else x.writing
    taken := if x.shown.any (fun w => w.task == task) then 0 else x.taken }
  y.move (fun p => fix (back p))

/-- Tasks with a word in a sluice, or writing one into it (R105). -/
def Sluice.tasks (x : Sluice) : List Nat :=
  ((x.bankA ++ x.bankB).map (·.task) ++ (x.writing.map (·.1)).toList).eraseDups

end Sys2Proof.Machine
end

