-- ==== Sys2Proof/Machine/State.lean ====
section
/-! DEFINITION. The engine's state, why a command could stop, and the state right after reset. -/

namespace Sys2Proof.Machine

/-- Why the machine stops with a fault. No command ends in one: the spec gives every command an effect. -/
inductive Fault where
  deriving DecidableEq, Repr

/-- Why a command has no meaning. -/
inductive Refusal where
  /-- The command of this mnemonic is not modelled. Raised by an arm of `exec` alone. Safe: nothing can be proved of it. -/
  | notModelled (mnemonic : String)
  deriving DecidableEq, Repr

/-- The engine: every register, queue, buffer, counter, mode and pin the spec gives it, the memory it reaches, and the
commands that wait, first in, first out. -/
structure State where
  fuses  : Fuses
  boot   : BootState
  regs   : Regs
  cmd    : CmdState
  tab    : TableState
  hold   : HolderState
  grad   : GradState
  berm   : BermState
  strm   : StreamState
  xl     : XlateState
  mem    : MemState
  gov    : GovState
  host   : HostState
  fab    : FabState
  clk    : ClkState
  time   : TimeState
  gauge  : GaugeState
  rep    : RepairState
  /-- the model's own counter that free values are drawn with -/
  draws  : Nat
  pending : List Instr
  deriving DecidableEq, Repr

/-! ### Reset values, part by part -/

/-- Fuses and straps of the modelled part: die slot 0 of module 0, P100-S, step A1. The spec calls them the part's own. -/
def Fuses.part : Fuses where
  eid := 0
  build := 0
  step := 0xA1
  xsettle := 0
  rcoCal := 1048576
  lpCount := 2
  mdieSite := 68
  lp0Site := 32
  lp1Site := 33
  lp2Site := 0x7F
  hbm0Site := 0
  hbm1Site := 1
  tcrit0 := none
  tcrit1 := none
  svnFloor := 0
  keyHash0 := 0
  keyHash1 := 0
  revoked0 := false
  revoked1 := false
  factory := []
  field := []
  sealed := true
  gaugeSerial := 0
  gaugeFw := 0
  calId := 0
  cal := []
  gaugeKey := 1
  gaugePubX := 0x6B17D1F2E12C4247F8BCE6E563A440F277037D812DEB33A0F4A13945D898C296
  gaugePubY := 0x4FE342E2FE1A7F9B8EE7EB4A7C0F9E162BCE33576B315ECECBB6406837BF51F5
  epochBits := 1

/-- Phase 0x1, no firmware (Tables Boot-3 and Boot-7). -/
def BootState.cold : BootState where
  inReset := false
  phase := 1
  fwResult := 0
  commitResult := 0
  bootFail := 0
  fwVersion := 0
  fwSvn := 0
  image := []
  digest := []

/-- The Reset columns of the field maps of Table Reg-1, for an engine in the die slot of this EID. -/
def Regs.cold (eid : Eid) : Regs where
  rctBase := 0
  ring0Sq := 0x6
  ring0Cq := 0
  ring0Ctl := 0x0000000100000000
  spillBase := 0
  spillCtl := 0
  wdogCtl := 0x10032
  memCtl := 0xB00
  fabCtl := 0xA0002
  fabRoute := 0
  fabNbr := 0
  fwSrc := 0
  stageSel := 0
  irqEvt := 0x0003000200010000
  irqPend := 0
  irqMask := 0
  clkCtl := 0x104001F4
  clkout := 0x5000
  ftimeCtl := if bitsNat eid 0 4 = 0 then 0x000003E800000080 else 0x000003E8000000FF
  govCtl := 0x555F
  govGain := 0x0000005001000800
  hwinCtl := 0
  cohCtl := 0
  ptRoot := 0
  ctRootA := 0
  ctRootB := 0
  fcQueue := if bitsNat eid 0 4 = 0 then 0x100 else 0
  migPools := 0
  migTail := 0
  migHead := 0
  errBase := 0
  injCtl := 0
  hbmPpr := 0
  msixTab := []
  msixPend := []

/-- No ring, no task, an empty staged set, counters zero (Table Boot-2). -/
def CmdState.cold : CmdState where
  rings := []
  tasks := []
  nextTask := 1
  recent := []
  lastRing := []
  ring0Moved := false
  staged := []
  pendCommit := none
  lastReason := 0
  lastIndex := 0
  fastAccepted := 0
  fwAccepted := 0
  indices := 0
  rowsSent := 0
  partials := 0
  contributions := 0
  farAdds := 0
  records := 0
  sat64 := 0
  msix := []

def TableState.cold : TableState := ⟨[], [], []⟩

def HolderState.cold : HolderState where
  lists := []
  fetches := []
  nextFetch := 0
  kept := []
  keptReq := []
  sluice := List.replicate 8 Sluice.empty
  clock := 0
  spilled := 0
  restored := 0
  early := 0
  poolSat := 0
  cancels := []

def GradState.cold : GradState := ⟨[], [], false, [], 0, 0, 0, 0, 0, 0⟩

/-- Size 4, share 0, threshold 65,536, every sector invalid (R249). -/
def BermState.cold : BermState where
  size := 4
  share := 0
  threshold := 65536
  sets := []
  hits := 0
  misses := 0
  specFills := 0
  specUnused := 0
  evictions := 0
  promotions := 0
  demotions := 0
  pinRefused := 0
  bypasses := 0
  specSkipped := 0
  sat := 0
  retired := 0
  withdrawn := []
  nextMacro := 0
  test := none

def StreamState.cold : StreamState := ⟨[], [], [], [], [], 0⟩

def XlateState.cold : XlateState where
  tlb := []
  ptGen := 0
  ringStore := []
  spillStore := []
  ring0Store := []
  fcStore := []
  walks := []
  nextWalk := 0
  advice := []
  open_ := none
  waiting := []
  nextSeq := 1
  lastSeq := 0
  written := []
  resolving := []
  prod := 0
  cons := 0
  lost := 0
  poolEmpty := false
  ctMirror := false
  overflow := false
  slotFail := false
  xlateResult := 0
  convert := none

/-- Nothing listed, no site online (Tables Mem-3 and Mem-4). -/
def MemState.cold : MemState where
  dev := []
  host := []
  scratch := []
  undef := []
  poison := []
  hbmOnline := 0
  hbmLost := 0
  hbmTrained := false
  lpOnline := 0
  lpLost := false
  hbmRate := 0
  lpRate := 0
  poisonCount := 0
  offlineIdx := []
  ceRows := []
  pprBusy := false
  pprResult := 0
  pprSpares := 0

/-- Tables Mem-9 and Mem-10. -/
def GovState.cold : GovState where
  integ := 0
  allowed := 0x100
  region := 0
  t0 := 0xFF
  t1 := 0xFF
  fails0 := 0
  fails1 := 0
  power := 0
  freeboard := 0
  hardEff := 0x5F
  throttled := 0
  lpHot := false
  sensor := false
  atMin := false
  hard := false
  overridden := false

def HostState.cold : HostState where
  landings := []
  links := List.replicate 4 ⟨false, false, 0, 0⟩
  dir := []
  backInv := []
  waiting := []
  fenceReads := []
  near := []
  nearReqs := []
  nextReq := 0
  predictor := []
  regions := []
  unclaimed := 0
  fence := 0
  poisonRd := 0
  droppedWr := 0
  hwinLog := none
  bisnp := 0
  dirEvict := 0
  toFar := 0
  readData := none

/-- The lowest other die slot of a module whose engines are all live. -/
def lowestOther (eid : Eid) : Nat := if bitsNat eid 0 4 = 0 then 1 else 0

def FabState.cold (eid : Eid) : FabState where
  kept := []
  nextMsg := 0
  txSeq := []
  rxSeq := []
  early := []
  stalled := []
  seen := []
  acksDue := []
  unwritten := []
  discards := []
  migEnded := []
  lost := []
  peerVer := []
  ports := []
  routes := []
  grants := []
  credits := []
  foreign := 0
  retries := 0
  liveSlots := (List.range 16).filter (fun k => k != bitsNat eid 0 4)
  otherAgent := some (lowestOther eid)
  otherCollector := if bitsNat eid 0 4 = 0 then none else some 0
  selfQ := []
  sent := []

/-- Settling on the RCO ÷1 (Tables Clk-2 and Clk-5). -/
def ClkState.cold : ClkState where
  st := 1
  src := .rco
  ramp := .none
  divA := 1
  divF := 1
  divC := 1
  pllLock := false
  locking := none
  lastPass := false
  coast := false
  xtalFail := false
  returned := false
  coasts := 0
  lastCount := 0
  passes := 0
  testBusy := false
  testFail := false
  tol := 500
  testTol := 500

/-- FTIME and trim zero, free-running (R433, Table Clk-12). -/
def TimeState.cold : TimeState where
  ftime := 0
  elapsed := 0
  trim := 0
  announces := []
  parent := none
  gmEid := 0
  gmPrio := 0xFF
  steps := 0
  lock := false
  stepped := false
  holdover := false
  holdSince := none
  offset := 0
  good := 0
  bad := 0
  integ := 0
  acquire := none
  delays := []
  lastSync := none
  lastPair := none
  syncCount := 0
  delayReq := none
  nextReq := 0
  egress := []
  syncAt := 0
  ppsOut := false
  ppsSec := 0

/-- The island just powered up in its first epoch, its power-loss entry logged (R450). -/
def GaugeState.firstEpoch : GaugeState where
  epoch := 1
  island := 0
  eTotal := 0
  eCore := 0
  eHbm := 0
  eMdie := 0
  rows := 0
  bytes := 0
  records := 0
  satFlag := false
  epochsSpent := false
  calFail := false
  supervision := false
  mdieAbsent := false
  coastMs := 0
  unsupMs := 0
  gapMs := 0
  coastUs := 0
  unsupUs := 0
  gapUs := 0
  logCount := 1
  log := [BitVec.ofNat 128 (0x01 * 2 ^ 64 + 1 * 2 ^ 72)]
  seq := 0
  pTotal := 0
  pCore := 0
  pHbm := 0
  pMdie := 0
  report := none
  queue := []
  pulses := 0
  portOut := []
  inCoast := false
  portInj := none

/-- No repair in service beyond the fuses, nothing logged. -/
def RepairState.cold : RepairState where
  prod := 0
  cons := 0
  lost := 0
  sev0 := 0
  sev1 := 0
  sev2 := 0
  buffer := []
  fired := 0
  quiet := []
  inj := none
  polderMap := List.range 8
  laneOut := List.replicate 9 none
  llsSpare := 0
  csramSpare := 0
  withdrawn := 0
  failed := false
  busy := none
  soft := []
  nextLane := List.replicate 8 0
  laneTest := List.replicate 8 none
  nextCsram := List.replicate 8 0
  csramTest := List.replicate 8 none
  strikes := []

/-- The engine right after reset: time 0 of Table Boot-3. -/
def State.reset : State where
  fuses := Fuses.part
  boot := BootState.cold
  regs := Regs.cold Fuses.part.eid
  cmd := CmdState.cold
  tab := TableState.cold
  hold := HolderState.cold
  grad := GradState.cold
  berm := BermState.cold
  strm := StreamState.cold
  xl := XlateState.cold
  mem := MemState.cold
  gov := GovState.cold
  host := HostState.cold
  fab := FabState.cold Fuses.part.eid
  clk := ClkState.cold
  time := TimeState.cold
  gauge := GaugeState.firstEpoch
  rep := RepairState.cold
  draws := 0
  pending := []

end Sys2Proof.Machine
end

