-- ==== Sys2Proof/Machine/Memory.lean ====
section
/-! DEFINITION. Byte memory in one canonical form: addresses strictly rising, no listed zero. An unlisted address reads
as zero (log entry 1). -/

namespace Sys2Proof.Machine

abbrev Memory := List Host.Cell

/-- What an unlisted address reads as. -/
def Memory.blank : Byte := 0

/-- The canonical form. -/
abbrev Memory.wf (m : Memory) : Prop :=
  (m.map Prod.fst).Pairwise (· < ·) ∧ ∀ c ∈ m, c.2 ≠ Memory.blank

/-- The byte at an address. -/
def Memory.get (m : Memory) (a : Nat) : Byte :=
  match m.find? (fun c => c.1 == a) with
  | some c => c.2
  | none => Memory.blank

/-- Store one byte. -/
def Memory.set : Memory → Nat → Byte → Memory
  | [], a, b => if b = Memory.blank then [] else [(a, b)]
  | c :: t, a, b =>
    if a < c.1 then (if b = Memory.blank then c :: t else (a, b) :: c :: t)
    else if a = c.1 then (if b = Memory.blank then t else (a, b) :: t)
    else c :: Memory.set t a b

/-- `n` bytes from an address on. -/
def Memory.read (m : Memory) (a : Nat) : Nat → Bytes
  | 0 => []
  | n + 1 => m.get a :: Memory.read m (a + 1) n

/-- Store a byte string from an address on. -/
def Memory.write (m : Memory) (a : Nat) : Bytes → Memory
  | [] => m
  | b :: t => Memory.write (m.set a b) (a + 1) t

/-- The key of a host byte: each link leads to its own address space (R371). -/
def hostKey (link hpa : Nat) : Nat := link * 2 ^ 52 + hpa

end Sys2Proof.Machine
end

