-- ==== Sys2Proof/Machine/Base.lean ====
section
/-! DEFINITION. What every command draws on: time, the error log, interrupts, injections, the ends of tasks, and the
monad in which an access either yields a value or stops its unit of work. -/

namespace Sys2Proof.Machine

/-! ### Time -/

/-- FTIME: seconds in [63:32], a binary fraction below (R433). -/
def now (s : State) : Word := bits s.time.ftime 32 64

/-- Elapsed time, which no step of FTIME moves (R434). -/
def tick (s : State) : Word := bits s.time.elapsed 32 64

/-- Whole microseconds of elapsed time since `t`. -/
def usSince (s : State) (t : Word) : Nat := (tick s - t).toNat * 1000000 / 2 ^ 32

/-- Whether FTIME has reached `t`. -/
def reached (s : State) (t : Word) : Bool := decide (t ≤ now s)

/-! ### Free values -/

/-- The next draw number, and the state with it used. -/
def draw (s : State) : Nat × State := (s.draws, { s with draws := s.draws + 1 })

/-! ### Identity -/

def ownEid (s : State) : Eid := s.fuses.eid
def ownModule (s : State) : Nat := bitsNat s.fuses.eid 4 12
def ownSlot (s : State) : Nat := bitsNat s.fuses.eid 0 4
def eidModule (e : Nat) : Nat := e / 16 % 4096
def eidOf (m slot : Nat) : Nat := m * 16 + slot

/-! ### MSI-X and engine events (R510, R511, R513) -/

/-- The lowest-numbered host link that is up. -/
def lowestLink (s : State) : Option Nat := (List.range 4).find? (fun l => ((s.host.links[l]?).map (·.up)).getD false)

/-- The MSI-X table entry of a vector; unwritten entries are masked, as PCIe resets them. -/
def msixEntry (s : State) (v : Nat) : BitVec 128 := (smapGet s.regs.msixTab v).getD (1#128 <<< 96)

/-- Whether the MSI-X table masks a vector. The table lies with the engine in die slot 0 (R513). -/
def msixMasked (s : State) (v : Nat) : Bool := ownSlot s == 0 && (msixEntry s v).getLsbD 96

/-- Send a vector on a link, or leave it pending behind the table's mask. -/
def msixOn (link : Option Nat) (v : Nat) (s : State) : State :=
  if msixMasked s v then
    { s with regs := { s.regs with msixPend := if s.regs.msixPend.contains v then s.regs.msixPend else s.regs.msixPend ++ [v] } }
  else match link with
    | none => s
    | some l => { s with cmd := { s.cmd with msix := s.cmd.msix ++ [(l, BitVec.ofNat 16 v)] } }

/-- The engine events of R510: 0 fault, 1 error, 2 governor, 3 fabric. -/
def raiseEvent (e : Nat) (s : State) : State :=
  let was := s.regs.irqPend.getLsbD e
  let s1 := { s with regs := { s.regs with irqPend := s.regs.irqPend ||| (1#64 <<< e) } }
  if was || s.regs.irqMask.getLsbD e then s1
  else msixOn (lowestLink s) (bitsNat s.regs.irqEvt (16 * e) 16) s1

/-! ### Sites (R313, R349, R351) -/

def fpaModule (a : Nat) : Nat := a / 2 ^ 44 % 4096
def fpaSite (a : Nat) : Nat := a / 2 ^ 37 % 128
def fpaOffset (a : Nat) : Nat := a % 2 ^ 37
def fpaAt (m site off : Nat) : Nat := m * 2 ^ 44 + site * 2 ^ 37 + off

/-- The HBM4 sites of a module (log entry 5). -/
def siteIsHbm (site : Nat) : Bool := decide (site < 32)

/-- The LPDDR5X sites of a module (log entry 5). -/
def siteIsLp (site : Nat) : Bool := decide (32 ≤ site ∧ site < 68)

/-- Packages each die slot owns (Table Glance-4). -/
def slotPackages (build slot : Nat) : Nat :=
  if build = 1 then (if slot < 4 then 3 else 2) else if build = 2 then (if slot < 12 then 2 else 1) else 2

/-- The die slot that owns the k-th package of a module, from `slot` on. -/
def packageOwner (build k : Nat) : Nat → Nat → Option Nat
  | 0, _ => none
  | fuel + 1, slot => if k < slotPackages build slot then some slot else packageOwner build (k - slotPackages build slot) fuel (slot + 1)

/-- The die slot of the engine that owns a site. -/
def siteOwner (s : State) (site : Nat) : Option Nat :=
  if siteIsHbm site then some (site / 2)
  else if siteIsLp site then packageOwner s.fuses.build.toNat (site - 32) 16 0
  else none

/-- The engine's own unit a site is: 0, 1 its stacks, 2 to 4 its packages. -/
def ownUnit (s : State) (fpa : Nat) : Option Nat :=
  if fpaModule fpa != ownModule s then none
  else
    let site := fpaSite fpa
    let f := s.fuses
    let units := [f.hbm0Site, f.hbm1Site] ++ (([f.lp0Site, f.lp1Site, f.lp2Site]).take f.lpCount)
    units.findIdx? (· == site)

/-- Whether one of the engine's own units is online. -/
def unitOnline (s : State) (u : Nat) : Bool :=
  if u < 2 then s.mem.hbmOnline.getLsbD u else s.mem.lpOnline.getLsbD (u - 2)

/-- The exclusive-or of bits lo, lo + step, lo + 2·step … up to hi of an offset. -/
def xorBits (o lo step hi : Nat) : Nat :=
  ((List.range ((hi - lo) / step + 1)).foldl (fun acc k => acc + o / 2 ^ (lo + step * k)  % 2) 0) % 2

/-- Pseudo-channel index of an HBM4 offset (R352, Table Mem-2). -/
def hbmPc (o : Nat) : Nat :=
  xorBits o 8 6 32 + 2 * xorBits o 9 6 33 + 4 * xorBits o 10 6 34 + 8 * xorBits o 11 6 35 +
  16 * xorBits o 12 6 30 + 32 * xorBits o 13 6 31

/-- x16 channel of an LPDDR5X offset (R353). -/
def lpCh (o : Nat) : Nat := xorBits o 8 2 36 + 2 * xorBits o 9 2 35

/-- The local address within a pseudo-channel or x16 channel. -/
def hbmLocal (o : Nat) : Nat := o / 2 ^ 14 * 256 + o % 256
def lpLocal (o : Nat) : Nat := o / 2 ^ 10 * 256 + o % 256

/-- Which of its owner's packages an LPDDR5X site is. -/
def packageIndex (s : State) (site : Nat) : Nat :=
  match siteOwner s site with
  | none => 0
  | some slot => (site - 32) - ((List.range slot).map (slotPackages s.fuses.build.toNat)).sum

/-- The CUC number of a device address, in its owner's numbering (R354). -/
def cucOf (s : State) (fpa : Nat) : Nat :=
  let site := fpaSite fpa
  if siteIsHbm site then 64 * (site % 2) + hbmPc (fpaOffset fpa)
  else 128 + 4 * packageIndex s site + lpCh (fpaOffset fpa)

/-- The EID of the engine whose memory a device address lies in. -/
def homeEid (s : State) (fpa : Nat) : Nat :=
  eidOf (fpaModule fpa) ((siteOwner s (fpaSite fpa)).getD 0)

/-- The tier of a place (R344). -/
def placeTier : Place → Nat
  | .host _ _ => 0
  | .dev a => if siteIsHbm (fpaSite a) then 2 else 1
  | .scratch _ => 3

/-! ### The error log (R465, R471 to R473) -/

/-- An error record before it is numbered (Table Repair-3). -/
structure ErrRec where
  det : Nat
  sev : Nat
  level : Nat := 0
  phys : Nat := 0
  logical : Nat := 0xFFFF
  address : Nat := 0
  ring : Nat := 0xFFFF
  action : Nat := 0
  tag : Nat := 0
  eid : Nat := 0
  detail : Bytes := []
  injected : Bool := false
  conts : List Bytes := []
  deriving DecidableEq, Repr, Inhabited

/-- The 60 bytes of a record, without its CRC. -/
def ErrRec.body (e : ErrRec) (n suppressed : Nat) (t : Word) : Bytes :=
  leBytes 4 n ++ leBytes 1 e.det ++ leBytes 1 (e.sev + (if e.injected then 4 else 0)) ++ leBytes 1 e.conts.length ++
  leBytes 1 e.level ++ leBytes 2 e.phys ++ leBytes 2 e.logical ++ leBytes 4 suppressed ++ leBytes 8 t.toNat ++
  leBytes 8 e.address ++ leBytes 2 e.ring ++ leBytes 1 e.action ++ [0] ++ leBytes 4 e.tag ++ leBytes 2 e.eid ++
  [0, 0] ++ padTo 16 e.detail

def errElog2 (s : State) : Nat := bitsNat s.regs.errBase 0 5
def errRingBase (s : State) : Nat := bitsNat s.regs.errBase 16 40 * 2 ^ 16

/-- Whether the site of a device address answers. -/
def siteUp (s : State) (fpa : Nat) : Bool :=
  match ownUnit s fpa with
  | none => true
  | some u => unitOnline s u

/-- Store bytes at a device address without any coherence or error response. -/
def rawWriteDev (a : Nat) (b : Bytes) (s : State) : State := { s with mem := { s.mem with dev := Memory.write s.mem.dev a b } }

/-- A write of all 64 B of a line clears its poison (R357). -/
def clearPoison (a : Nat) (n : Nat) (s : State) : State :=
  if a % 64 = 0 ∧ n = 64 then { s with mem := { s.mem with poison := s.mem.poison.filter (· != a / 64) } } else s

/-- Write a line back from the near-add cache and drop it (R392, R393). -/
def evictNear (line : Nat) (link : Option Nat) (s : State) : State :=
  match s.host.near.find? (fun l => l.line == line && l.link == link) with
  | none => s
  | some l =>
    let s := { s with host := { s.host with near := s.host.near.filter (fun x => !(x.line == line && x.link == link)) } }
    if !l.dirty then s
    else match link with
      | none => clearPoison (line * 64) 64 (rawWriteDev (line * 64) (padTo 64 l.data) s)
      | some k => { s with mem := { s.mem with host := Memory.write s.mem.host (hostKey k (line * 64)) l.data } }

/-- Send BISnpInv for a line (R391) and hold back a write until BIRspI. -/
def backInvalidate (d : DirLine) (w : List (Nat × Bytes)) (s : State) : State :=
  match s.host.backInv.find? (fun b => b.line == d.line) with
  | some _ =>
    let add : BackInv → BackInv := fun b => if b.line = d.line then { b with write := b.write ++ w } else b
    { s with host := { s.host with backInv := s.host.backInv.map add } }
  | none =>
    { s with host := { s.host with backInv := s.host.backInv ++ [⟨d.line, d.link, w⟩], bisnp := satAdd s.host.bisnp 1 } }

/-- Ask the host for every line of some that it holds (R391), before a write that must be whole: whether it holds none of them. -/
def claimLines (ls : List Nat) (s : State) : Bool × State :=
  let held := s.host.dir.filter (fun d => ls.contains d.line)
  (held.isEmpty, held.foldl (fun s d => backInvalidate d [] s) s)

/-- Write within one 64 B line of device memory, with invalidation (R391, R392). -/
def writeDevLine (a : Nat) (b : Bytes) (s : State) : State :=
  let s := evictNear (a / 64) none s
  match s.host.dir.find? (fun d => d.line == a / 64) with
  | some d => backInvalidate d [(a, b)] s
  | none => clearPoison a b.length (rawWriteDev a b s)

def addLost (k : Nat) (s : State) : State := { s with rep := { s.rep with lost := satAdd s.rep.lost k } }

/-- Write a numbered record to the ring, or to the internal buffer (R471). -/
def placeRecord (n : BitVec 32) (rec : Bytes) (s : State) : State :=
  let k := errElog2 s
  if k = 0 || !siteUp s (errRingBase s) then
    if s.rep.buffer.length < 256 then { s with rep := { s.rep with buffer := s.rep.buffer ++ [(n, rec)] } }
    else addLost 1 { s with rep := { s.rep with buffer := s.rep.buffer.drop 1 ++ [(n, rec)] } }
  else if 2 ^ k ≤ (n - s.rep.cons).toNat then addLost 1 s
  else writeDevLine (errRingBase s + n.toNat % 2 ^ k * 64) rec s

/-- Number a record and place it. -/
def numberRecord (body : BitVec 32 → Bytes) (s : State) : State :=
  let n := s.rep.prod
  placeRecord n (withCrc (body n)) { s with rep := { s.rep with prod := n + 1 } }

def countSev (sev : Nat) (s : State) : State :=
  { s with rep :=
    if sev = 0 then { s.rep with sev0 := satAdd s.rep.sev0 1 }
    else if sev = 1 then { s.rep with sev1 := satAdd s.rep.sev1 1 }
    else { s.rep with sev2 := satAdd s.rep.sev2 1 } }

/-- Write an error record, unless R472 suppresses it. -/
def logErr (e : ErrRec) (s : State) : State :=
  let s := { s with rep := { s.rep with fired := s.rep.fired ||| (1#256 <<< e.det) } }
  let q := smapGet s.rep.quiet e.det
  let held := (q.map (·.2)).getD 0
  match q with
  | some (t, k) =>
    if e.sev = 0 ∧ usSince s t < 1000 then
      { s with rep := { s.rep with quiet := smapSet s.rep.quiet e.det (t, satAdd k 1) } }
    else emit held s
  | none => emit held s
where
  emit (held : BitVec 32) (s : State) : State :=
    let t := if e.sev = 0 then some (tick s) else (smapGet s.rep.quiet e.det).map (·.1)
    let s := match t with
      | some t => { s with rep := { s.rep with quiet := smapSet s.rep.quiet e.det (t, 0) } }
      | none => s
    let s := numberRecord (fun n => e.body n.toNat held.toNat (now s)) s
    let s := e.conts.foldl (fun s c => numberRecord (fun _ => padTo 60 c) s) s
    let s := countSev e.sev s
    if e.sev = 0 then s else raiseEvent 1 s

/-- The error-log index the next record will have (R471). -/
def nextErrIdx (s : State) : BitVec 16 := s.rep.prod.setWidth 16

/-! ### Register writes (R499, R502) -/

/-- Registers take writes in phases 0x5 and 0x6 (R502). -/
def writesLive (s : State) : Bool := s.boot.phase == 5 || s.boot.phase == 6

/-- The fast path runs: firmware does, or the control processor was reset and firmware did not come back (R466, R491). -/
def fastServed (s : State) : Bool := writesLive s || (s.boot.phase == 3 && !s.boot.image.isEmpty)

/-- A write discarded and logged by detector 0x1A. -/
def misuse (offset : Nat) (s : State) : State := logErr { det := 0x1A, sev := 0, address := offset } s

/-- Act on a register write where the phase lets it be acted on (R502). -/
def guardWrite (offset : Nat) (f : State → State) (s : State) : State :=
  if s.boot.inReset then s else if writesLive s then f s else misuse offset s

/-! ### Injections (R481, R482) -/

/-- Whether the armed injection fires at this event of a detector at a unit, and the state after the event. -/
def injectAt (det unit : Nat) (s : State) : Bool × State :=
  match s.rep.inj with
  | none => (false, s)
  | some i =>
    if !i.armed || i.detector.toNat != det || i.unit.toNat != unit then (false, s)
    else if !i.every then (true, { s with rep := { s.rep with inj := none } })
    else if i.count.toNat ≤ i.seen + 1 then (true, { s with rep := { s.rep with inj := some { i with seen := 0 } } })
    else (false, { s with rep := { s.rep with inj := some { i with seen := i.seen + 1 } } })

/-! ### Results and the ends of tasks (R59, Table Cmd-20) -/

def stOk : Byte := 0x00
def stDropped : Byte := 0x01
def stRetirePending : Byte := 0x02
def stFault : Byte := 0x10
def stCancelled : Byte := 0x11
def stDeadlock : Byte := 0x12
def stBadOpcode : Byte := 0x20
def stBadVersion : Byte := 0x21
def stCrc : Byte := 0x22
def stBadParam : Byte := 0x23
def stBadConfig : Byte := 0x24
def stNoBuffer : Byte := 0x25
def stBusy : Byte := 0x26
def stRetired : Byte := 0x30
def stVerLimit : Byte := 0x31
def stHw : Byte := 0x40
def stDegraded : Byte := 0x41
def stPeerLost : Byte := 0x42

/-- A result of a status and detail, with nothing dropped and no work. -/
def resultOf (status : Byte) (detail : Nat) : Result := ⟨status, BitVec.ofNat 24 detail, 0, 0⟩

def rBadParam (reason off : Nat) : Result := resultOf stBadParam (off * 65536 + reason * 256)
def rCrc (object : Nat) : Result := resultOf stCrc (object * 65536)
def rBusy (res : Nat) : Result := resultOf stBusy (res * 65536)
def rHw (det : Nat) (idx : BitVec 16) : Result := resultOf stHw (det * 65536 + idx.toNat)
def rPeerLost (eid : Nat) : Result := resultOf stPeerLost eid
def rBadConfig (reason idx : Nat) : Result := resultOf stBadConfig (reason * 65536 + idx)

/-- Whether a status belongs to the Done class. -/
def statusDone (st : Byte) : Bool := st == stOk || st == stDropped || st == stRetirePending || st == stDegraded

def taskOf (s : State) (id : Nat) : Option Task := s.cmd.tasks.find? (fun t => t.id == id)

/-- The staged configuration in force (R46). -/
def liveCfg (s : State) : TaskCfg := ⟨s.regs.cohCtl, s.regs.ptRoot, s.regs.migPools⟩

/-- The staged configuration that an access is made under: its task's, or, for none, the one in force (R46, R63). -/
def cfgOf (s : State) (task : Option Nat) : TaskCfg := ((task.bind (taskOf s)).map (·.cfg)).getD (liveCfg s)

/-- Change the task of a number. -/
def mapTask (id : Nat) (f : Task → Task) (s : State) : State :=
  { s with cmd := { s.cmd with tasks := s.cmd.tasks.map (fun t => if t.id = id then f t else t) } }

def Task.isDone (t : Task) : Bool := match t.phase with | .done _ => true | _ => false

/-- A task that has ended no longer changes its result. -/
def setResult (r : Result) (t : Task) : Task := if t.isDone then t else { t with phase := .done r }

/-- End a task with a result; its completion record follows (R28). -/
def finishTask (id : Nat) (r : Result) (s : State) : State := mapTask id (setResult r) s

/-- The OK result of a task: version bound, SPILL, SAT, the dropped count, DEGRADED (Table Cmd-20, R90, R467). -/
def okResult (t : Task) (work : Nat) (bit2 bit3 : Bool) : Result :=
  let w := BitVec.ofNat 32 (min work (2 ^ 32 - 1))
  let d := BitVec.ofNat 32 (min t.dropped (2 ^ 32 - 1))
  match t.degraded with
  | some (det, idx) => ⟨stDegraded, BitVec.ofNat 24 (det.toNat * 65536 + idx.toNat), d, w⟩
  | none =>
    let ver := match t.bind with | some (_, v) => v.toNat | none => 0
    let flags := (if t.sat then 1 else 0) + (if t.spill then 2 else 0) + (if bit2 then 4 else 0) + (if bit3 then 8 else 0)
    ⟨if t.dropped = 0 then stOk else stDropped, BitVec.ofNat 24 (ver * 256 + flags), d, w⟩

/-- End a task in the Done class with a work count. -/
def finishOk (id work : Nat) (s : State) : State := mapTask id (fun t => setResult (okResult t work false false) t) s

def setWork (id : Nat) (w : Work) (s : State) : State :=
  mapTask id (fun t => if t.isDone then t else { t with phase := .running w }) s

/-! ### Accesses -/

/-- Why an access does not happen. -/
inductive Stop where
  /-- a translation failed: page, cause, level, whether it was a write, and the entry read (R334) -/
  | fault (va cause level : Nat) (write : Bool) (entry : Word)
  /-- the page is being moved by MEM_MIGRATE (R318) -/
  | mig (va : Nat) (write : Bool)
  /-- a poisoned line was met; the record's index (R357) -/
  | poison (idx : BitVec 16)
  /-- the unit of work ends with this result -/
  | fail (r : Result)
  deriving DecidableEq, Repr, Inhabited

/-- Whom an access serves: the task of this engine that makes it, and the task that an error record of it names: one of this
engine by its number, one of another by its tag. -/
structure Serves where
  task : Option Nat
  named : Option Nat
  tag : Nat
  deriving DecidableEq, Repr, Inhabited

/-- An access on behalf of a task, or of none: it changes the state and yields a value, or stops. -/
abbrev Act (α : Type) := ReaderT Serves (ExceptT Stop (StateM State)) α

/-- Run an access for a task. -/
def Act.go {α : Type} (a : Act α) (task : Option Nat) (s : State) : Except Stop α × State := (a.run ⟨task, task, 0⟩).run s

/-- Stop the access. -/
def stop {α : Type} (x : Stop) : Act α := throw x

/-- Run an event of a detector inside an access. -/
def injectedAct (det unit : Nat) : Act Bool := do
  let (b, s) := injectAt det unit (← get)
  set s
  return b

/-- The ring and tag of a task of this engine. -/
def ringTag (task : Option Nat) (s : State) : Nat × Nat :=
  match task.bind (taskOf s) with
  | some t => (t.ring, t.pkt.tag.toNat)
  | none => (0xFFFF, 0)

/-- The ring and tag that an error record of an access names; the ring of another engine's task is not known here. -/
def servesRingTag (w : Serves) (s : State) : Nat × Nat :=
  if (w.named.bind (taskOf s)).isSome then ringTag w.named s else (0xFFFF, w.tag)

/-- Write an error record that names the access's task, and yield its index. -/
def logAct (e : ErrRec) : Act (BitVec 16) := do
  let s ← get
  let (r, g) := servesRingTag (← read) s
  let idx := nextErrIdx s
  set (logErr { e with ring := r, tag := g } s)
  return idx

/-! ### What a command leaves (R6, R460, R493, R497) -/

/-- The registers with the bits that their field maps reserve clear: those bits read 0, and no write sets them. -/
def Regs.tidy (r : Regs) : Regs :=
  { r with
    rctBase := r.rctBase &&& 0x00FFFFFFFFF00000
    ring0Sq := r.ring0Sq &&& 0x000FFFFFFFFFF01F
    ring0Cq := r.ring0Cq &&& 0x000FFFFFFFFFF000
    ring0Ctl := r.ring0Ctl &&& 0xFFFFFFFF00000001
    spillBase := r.spillBase &&& 0x000FFFFFFFFF0000
    spillCtl := r.spillCtl &&& 0x0000FFFF00FF0000
    wdogCtl := r.wdogCtl &&& 0x000000000001FFFF
    memCtl := r.memCtl &&& 0x0000000000000F00
    fabCtl := r.fabCtl &&& 0x0000FFFF00FF0003
    fabRoute := r.fabRoute &&& 0x00FFFFFFFFFF0001
    fabNbr := r.fabNbr &&& 0x00FFFFFFFFFFF001
    fwSrc := r.fwSrc &&& 0xF0FFFFFFFFFFF000
    stageSel := r.stageSel &&& 0x00000000000001FF
    irqPend := r.irqPend &&& 0x000000000000000F
    irqMask := r.irqMask &&& 0x000000000000000F
    clkCtl := r.clkCtl &&& 0x000000001FC00FFF
    clkout := r.clkout &&& 0x0000000000017FFF
    ftimeCtl := r.ftimeCtl &&& 0x0000FFFF000100FF
    govCtl := r.govCtl &&& 0x00000000FFFFFFFF
    govGain := r.govGain &&& 0x0000FFFFFFFFFFFF
    hwinCtl := r.hwinCtl &&& 0x000FFFFFFE000003
    cohCtl := r.cohCtl &&& 0x0000000000000003
    ptRoot := r.ptRoot &&& 0x00FFFFFFFFFFF001
    ctRootA := r.ctRootA &&& 0x00FFFFFFFFFFF000
    ctRootB := r.ctRootB &&& 0x00FFFFFFFFFFF000
    fcQueue := r.fcQueue &&& 0x000FFFFFFFFE010F
    migPools := r.migPools &&& 0x00FFFFFFFFFE0001
    migTail := r.migTail &&& 0x0000FFFFFFFFFFFF
    migHead := r.migHead &&& 0x0000FFFFFFFFFFFF
    errBase := r.errBase &&& 0x00FFFFFFFFFF001F
    injCtl := r.injCtl &&& 0xFFFFFFFFFFFFFF02
    hbmPpr := r.hbmPpr &&& 0x0FFFFFFFFC000000 }

/-- The front end with the next task number above every task's: no task number is given twice (log entry 22). -/
def CmdState.numbered (c : CmdState) : CmdState :=
  { c with nextTask := c.tasks.foldl (fun n t => max n (t.id + 1)) c.nextTask }

/-- The outcome of a command on `s` whose effect is `t`. No command touches the queue of waiting commands. Reserved register bits
stay clear. A part's fuses stay as they are, save the field repair bank, which repairs burn (R460). -/
def leaves (s t : State) : Host.Outcome State Fault Refusal :=
  .next { t with pending := s.pending, regs := t.regs.tidy, cmd := t.cmd.numbered, fuses := { s.fuses with field := t.fuses.field } }

/-- The outcome of a command that burns fuses: the SVN floor and the Gauge's epoch, which only rise, its seal, which stays blown, and
its calibration words, which the seal closes (R450, R451, R492). -/
def burnt (s t : State) : Host.Outcome State Fault Refusal :=
  .next { t with
    pending := s.pending
    regs := t.regs.tidy
    cmd := t.cmd.numbered
    fuses := { s.fuses with
      field := t.fuses.field
      svnFloor := max s.fuses.svnFloor t.fuses.svnFloor
      epochBits := max s.fuses.epochBits t.fuses.epochBits
      cal := if s.fuses.sealed then s.fuses.cal else t.fuses.cal
      sealed := s.fuses.sealed || t.fuses.sealed } }

end Sys2Proof.Machine
end

