-- ==== Sys2Proof/Machine/Access.lean ====
section
/-! DEFINITION. Reads and writes of places: sites and links that answer or not (R349, R351, R370), poisoned lines (R357),
the near-add cache (R393) and lines the host holds (R391, R392). -/

namespace Sys2Proof.Machine

/-- A place `k` bytes further on. -/
def Place.add : Place → Nat → Place
  | .dev a, k => .dev (a + k)
  | .host l a, k => .host l (a + k)
  | .scratch o, k => .scratch (o + k)

/-- Bytes that the spec leaves open. -/
def freeBytes : Nat → State → Bytes × State
  | 0, s => ([], s)
  | n + 1, s =>
    let (d, s) := draw s
    let (b, s) := freeBytes n s
    (Config.freeByte d :: b, s)

/-! ### Whether a place answers -/

/-- The end of a unit of work that needs an offline unit (R349). -/
def offlineResult (s : State) (u : Nat) : Result × State :=
  if u < 2 then
    match smapGet s.mem.offlineIdx u with
    | some idx => (rHw 0x0A idx, s)
    | none => let (d, s) := draw s; (rHw 0x0A ((Config.freeWord d).setWidth 16), s)
  else (rPeerLost (ownEid s).toNat, s)

/-- A device address's site must be online. -/
def needSite (fpa : Nat) : Act Unit := do
  match ownUnit (← get) fpa with
  | none => pure ()
  | some u =>
    if (← injectedAct 0x0A u) then
      let idx ← logAct { det := 0x0A, sev := 2, phys := u, address := fpa / 2 ^ 37 * 2 ^ 37, action := 0x0A, injected := true }
      let s ← get
      stop (.fail (if u < 2 then rHw 0x0A idx else rPeerLost (ownEid s).toNat))
    else if unitOnline (← get) u then pure ()
    else
      let (r, s) := offlineResult (← get) u
      set s
      stop (.fail r)

def linkUp (s : State) (l : Nat) : Bool := match s.host.links[l]? with | some k => k.up | none => false

/-- A host link must be up (R370, R371). -/
def needLink (l : Nat) : Act Unit := do
  if (← injectedAct 0x13 l) then
    let _ ← logAct { det := 0x13, sev := 2, phys := l, address := l, action := 0x0A, injected := true }
    stop (.fail (rPeerLost (ownEid (← get)).toNat))
  else if linkUp (← get) l then pure ()
  else stop (.fail (rPeerLost (ownEid (← get)).toNat))

/-! ### Lines -/

/-- Lines of 64 B that `n` bytes from `a` touch. -/
def linesOf (a n : Nat) : List Nat := (List.range ((a + n - 1) / 64 + 1 - a / 64)).map (· + a / 64)

/-- Cut a byte string at 64 B lines: (address, bytes). -/
def splitLines : Nat → Nat → Bytes → List (Nat × Bytes)
  | 0, _, _ => []
  | fuel + 1, a, b =>
    if b.isEmpty then [] else
      let k := 64 - a % 64
      (a, b.take k) :: splitLines fuel (a + k) (b.drop k)

/-- Record a meeting with a poisoned line (R357). -/
def meetPoison (line : Nat) (inj : Bool) : Act (BitVec 16) := do
  modify fun s => { s with mem := { s.mem with poisonCount := satAdd s.mem.poisonCount 1 } }
  let s ← get
  let owner := homeEid s (line * 64)
  logAct { det := 0x08, sev := 2, phys := cucOf s (line * 64), address := line * 64, action := 0x07,
           eid := if owner = (ownEid s).toNat then 0 else owner, injected := inj }

/-- Meet every poisoned line of a range; the first stops the access. -/
def checkPoison : List Nat → Act Unit
  | [] => pure ()
  | l :: t => do
    let s ← get
    let inj ← (if (ownUnit s (l * 64)).isSome then injectedAct 0x08 (cucOf s (l * 64)) else pure false)
    if inj || s.mem.poison.contains l then
      let idx ← meetPoison l inj
      stop (.poison idx)
    else checkPoison t

/-- Whether a device address lies at or beyond 2^36 of an HBM4 site (R351). -/
def beyondHbm (fpa : Nat) : Bool := siteIsHbm (fpaSite fpa) && decide (2 ^ 36 ≤ fpaOffset fpa)

/-- The record of such an access. -/
def rangeRecord (fpa : Nat) (inj : Bool) : Act Unit := do
  let _ ← logAct { det := 0x0B, sev := 0, address := fpa, injected := inj }

/-- The bytes a near-add cache line shows over memory. -/
def overlayNear (near : List NearLine) (link : Option Nat) (a : Nat) (b : Bytes) : Bytes :=
  near.foldl (fun b l =>
    if l.link = link then
      b.zipIdx.map fun (x, i) => if (a + i) / 64 = l.line then (l.data[(a + i) % 64]?).getD x else x
    else b) b

/-! ### Reads -/

/-- `n` bytes of device memory, coherently. -/
def readDev (a n : Nat) : Act Bytes := do
  needSite a
  let far ← (if siteIsHbm (fpaSite a) then injectedAct 0x0B 0 else pure false)
  if beyondHbm a || far then
    rangeRecord a far
    return zeroBytes n
  else
    checkPoison (linesOf a n)
    let s ← get
    return overlayNear s.host.near none a (Memory.read s.mem.dev a n)

/-- Whether an offset of the scratchpad is undefined, and its draw. -/
def undefAt (s : State) (o : Nat) : Option Nat :=
  (s.mem.undef.find? (fun u => decide (u.1 ≤ o) && decide (o < u.2.1))).map (fun u => u.2.2 + (o - u.1))

/-- `n` bytes of the scratchpad; undefined ones are free (R249, R254). -/
def readScratch (s : State) (o n : Nat) : Bytes :=
  (Memory.read s.mem.scratch o n).zipIdx.map fun (b, i) =>
    match undefAt s (o + i) with
    | some d => Config.freeByte d
    | none => b

/-- What is left of an undefined range once [lo, hi) is taken from it. -/
def cutRange (lo hi : Nat) (u : Nat × Nat × Nat) : List (Nat × Nat × Nat) :=
  ([(u.1, min u.2.1 lo, u.2.2), (max u.1 hi, u.2.1, u.2.2 + (max u.1 hi - u.1))]).filter (fun x => decide (x.1 < x.2.1))

/-- Write bytes of the scratchpad. -/
def writeScratch (o : Nat) (b : Bytes) (s : State) : State :=
  { s with mem := { s.mem with
    scratch := Memory.write s.mem.scratch o b
    undef := s.mem.undef.flatMap (cutRange o (o + b.length)) } }

/-- [lo, hi) of the scratchpad is no longer what it was: undefined, or, where it is released, nothing. -/
def dropScratch (lo hi : Nat) (undefined : Bool) (s : State) : State :=
  let left := s.mem.undef.flatMap (cutRange lo hi)
  { s with
    mem := { s.mem with
      scratch := s.mem.scratch.filter (fun c => decide (c.1 < lo) || decide (hi ≤ c.1))
      undef := if undefined && decide (lo < hi) then left ++ [(lo, hi, s.draws)] else left }
    draws := if undefined then s.draws + (hi - lo) else s.draws }

/-- `n` bytes at a place that lie together there. -/
def readPlace (p : Place) (n : Nat) : Act Bytes := do
  if n = 0 then return []
  else match p with
    | .dev a => readDev a n
    | .host l a =>
      needLink l
      let s ← get
      return overlayNear s.host.near (some l) a (Memory.read s.mem.host (hostKey l a) n)
    | .scratch o => return readScratch (← get) o n

/-! ### Writes -/

/-- Write bytes that lie together in device memory. -/
def writeDevLines (a : Nat) (b : Bytes) (s : State) : State :=
  (splitLines b.length a b).foldl (fun s (x : Nat × Bytes) => writeDevLine x.1 x.2 s) s

def writeDev (a : Nat) (b : Bytes) : Act Unit := do
  needSite a
  let far ← (if siteIsHbm (fpaSite a) then injectedAct 0x0B 0 else pure false)
  if beyondHbm a || far then rangeRecord a far
  else modify (writeDevLines a b)

/-- Write bytes of host memory (Table Host-3). -/
def writeHost (l a : Nat) (b : Bytes) (s : State) : State :=
  let s := (linesOf a b.length).foldl (fun s k => evictNear k (some l) s) s
  { s with mem := { s.mem with host := Memory.write s.mem.host (hostKey l a) b } }

/-- Write bytes at a place that lie together there. -/
def writePlace (p : Place) (b : Bytes) : Act Unit := do
  if b.isEmpty then return ()
  else match p with
    | .dev a => writeDev a b
    | .host l a => do needLink l; modify (writeHost l a b)
    | .scratch o => modify (writeScratch o b)

/-- The lines of device memory that pieces touch. -/
def pieceLines (ps : List (Place × Nat)) : List Nat :=
  ps.flatMap fun x => match x.1 with
    | .dev a => linesOf a x.2
    | _ => []

/-! ### Undefined bytes -/

/-- Device bytes become undefined: free values in every line that is not poisoned. -/
def freeDev (a n : Nat) (s : State) : State :=
  (splitLines n a (zeroBytes n)).foldl (fun s (x, part) =>
    if s.mem.poison.contains (x / 64) then s
    else
      let (b, s) := freeBytes part.length (evictNear (x / 64) none s)
      rawWriteDev x b s) s

/-- `n` bytes at a place become undefined (log entry 84). -/
def freePlace (p : Place) (n : Nat) (s : State) : State :=
  match p with
  | .dev a => if beyondHbm a then s else freeDev a n s
  | .host l a =>
    let (b, s) := freeBytes n s
    writeHost l a b s
  | .scratch o => dropScratch o (o + n) true s

end Sys2Proof.Machine
end

