-- ==== Sys2Proof/Machine/FabSend.lean ====
section
/-! DEFINITION. Sending fabric messages: headers (R403), routes (R401, R402), credit and unacknowledged windows (R410,
R411), and the messages a sender keeps (R413). -/

namespace Sys2Proof.Machine

/-! ### Headers -/

/-- Byte field [lo, lo + n) of a header. -/
def hf (h : Header) (lo n : Nat) : Nat := bitsNat h (8 * lo) (8 * n)

def hTyp (h : Header) : Nat := hf h 0 1
def hVer (h : Header) : Nat := hf h 1 1
def hCls (h : Header) : Nat := bitsNat h 16 2
def hCtrl (h : Header) : Bool := h.getLsbD 18
def hDst (h : Header) : Nat := hf h 4 2
def hSrc (h : Header) : Nat := hf h 6 2
def hPartition (h : Header) : Nat := hf h 8 2
def hFseq (h : Header) : Nat := hf h 10 2
def hLen (h : Header) : Nat := hf h 12 4
def hMsgId (h : Header) : Nat := hf h 16 4
def hSent (h : Header) : Nat := hf h 20 4
def hTask (h : Header) : Nat := hf h 24 4
def hTag (h : Header) : Nat := hf h 28 4

/-- Overwrite bytes of a string from an offset on. -/
def patch (b : Bytes) (off : Nat) (v : Bytes) : Bytes := b.take off ++ v ++ b.drop (off + v.length)

/-- A byte string of `n` bytes with the given little-endian fields (offset, bytes, value). -/
def fields (n : Nat) (fs : List (Nat × Nat × Nat)) : Bytes :=
  fs.foldl (fun b f => patch b f.1 (leBytes f.2.1 f.2.2)) (zeroBytes n)

/-- A header from its first 60 bytes, with its CRC (Table Fab-3). -/
def sealHeader (b60 : Bytes) : Header := BitVec.ofNat 512 (leNat (withCrc b60))

def headerBytes (h : Header) : Bytes := leBytes 64 h.toNat

def headerCrcOk (h : Header) : Bool := crcHolds (headerBytes h)

/-- Class and CTRL of a message type (Table Fab-4); none for a reserved type. -/
def typeClass : Nat → Option (Nat × Bool)
  | 0x01 | 0x02 | 0x03 | 0x04 | 0x05 | 0x06 | 0x07 => some (0, false)
  | 0x10 => some (1, true)
  | 0x11 => some (2, false)
  | 0x12 => some (2, false)
  | 0x13 => some (1, false)
  | 0x20 => some (3, false)
  | 0x21 => some (1, false)
  | 0x22 => some (1, false)
  | 0x23 => some (2, false)
  | 0x30 => some (3, false)
  | 0x31 => some (3, false)
  | 0x32 => some (1, false)
  | 0x33 => some (1, true)
  | 0x34 => some (1, true)
  | 0x35 => some (3, false)
  | 0x40 | 0x41 | 0x42 | 0x43 => some (0, false)
  | 0x50 => some (1, true)
  | 0x51 => some (1, false)
  | 0x52 => some (1, false)
  | _ => none

/-- Types delivered on arrival, outside fseq order (R409). -/
def outsideOrder (ty : Nat) : Bool := decide (ty ≤ 0x06) || (decide (0x40 ≤ ty) && decide (ty ≤ 0x43))

/-- Whether the sender keeps a message until it is acknowledged (R413). -/
def keptType (ty : Nat) : Bool := ty == 0x07 || ((typeClass ty).map (fun c => decide (1 ≤ c.1))).getD false

/-- Whether a type draws on the relay pool (R411). -/
def relayType (ty : Nat) : Bool := ty == 0x31

/-! ### The endpoint -/

def partitionOf (s : State) : Nat := bitsNat s.regs.fabCtl 32 16
def fabEnabled (s : State) : Bool := s.regs.fabCtl.getLsbD 0 && partitionOf s != 0
def isLost (s : State) (eid : Nat) : Bool := s.fab.lost.contains eid
def lifetimeUs (s : State) : Nat := bitsNat s.regs.fabCtl 16 8 * 1000

/-- The engine is its module's discovery agent: the lowest die slot with probe set (R399). -/
def isAgent (s : State) : Bool :=
  s.regs.fabCtl.getLsbD 1 && (match s.fab.otherAgent with | none => true | some k => decide (ownSlot s < k))

/-! ### Routes -/

/-- Bytes of a control structure named by physical address; none if its site or a line of it fails. -/
def peekDev (s : State) (a n : Nat) : Option Bytes :=
  if siteUp s a && (linesOf a n).all (fun l => !s.mem.poison.contains l) then
    some (overlayNear s.host.near none a (Memory.read s.mem.dev a n))
  else none

/-- The same, where a poisoned line that is met is recorded (R357, Table Mem-6). -/
def lookDev (a n : Nat) (s : State) : Option Bytes × State :=
  match (readDev a n).go none s with
  | (.ok b, s) => (some b, s)
  | (.error _, s) => (none, s)

/-- Whether the neighbour table shows a port up: the agent's own view, or the table in memory. -/
def portUp (s : State) (p : Nat) : Bool :=
  if isAgent s then ((smapGet s.fab.ports p).map (·.up)).getD false
  else
    s.regs.fabNbr.getLsbD 0 &&
    match peekDev s (bitsNat s.regs.fabNbr 12 44 * 4096 + 16 * p) 16 with
    | some b => crcHolds b && leField b 0 1 == 1
    | none => false

/-- A routing entry as read from the table, if its CRC holds. -/
def readRoute (m : Nat) (s : State) : Option Bytes × State :=
  let (inj, s) := injectAt 0x11 0 s
  match lookDev (bitsNat s.regs.fabRoute 16 40 * 2 ^ 16 + 16 * m) 16 s with
  | (some b, s) => (if crcHolds b && !inj then some b else none, s)
  | (none, s) => (none, s)

/-- The routing entry of a module (R401): read at its first use and again when its CRC fails. -/
def routeEntry (m : Nat) (s : State) : BitVec 128 × State :=
  if !s.regs.fabRoute.getLsbD 0 then (0, s)
  else match smapGet s.fab.routes m with
    | some e => (e, s)
    | none =>
      let keep := fun (b : Bytes) (s : State) =>
        let e := BitVec.ofNat 128 (leNat b)
        (e, { s with fab := { s.fab with routes := smapSet s.fab.routes m e } })
      match readRoute m s with
      | (some b, s) => keep b s
      | (none, s) => match readRoute m s with
        | (some b, s) => keep b s
        | (none, s) => (0, logErr { det := 0x11, sev := 0, address := bitsNat s.regs.fabRoute 16 40 * 2 ^ 16 + 16 * m, action := 1 } s)

/-- The port a message leaves on: 0xFFFF over the die-to-die ports, a usable fabric port (R402), or none. -/
def choosePort (dst cls task : Nat) (s : State) : Option Nat × State :=
  if eidModule dst = ownModule s then (some 0xFFFF, s)
  else
    let (e, s) := routeEntry (eidModule dst) s
    let usable := ((List.range 4).filter (fun k => e.getLsbD (32 + k) && portUp s (bitsNat e (8 * k) 8))).map (fun k => bitsNat e (8 * k) 8)
    if usable.isEmpty then (none, s)
    else if cls = 0 then (usable[0]?, s)
    else (usable[(task ^^^ (dst * 4) ^^^ cls) % usable.length]?, s)

/-! ### Sending -/

/-- Put a message on a port if one is usable. -/
def transmit (h : Header) (payload : Bytes) (s : State) : State :=
  if fabEnabled s || (hTyp h) == 0x01 || (hTyp h) == 0x02 then
    match choosePort (hDst h) (hCls h) (hTask h) s with
    | (some p, s) => { s with fab := { s.fab with sent := s.fab.sent ++ [(p, h, payload)] } }
    | (none, s) => s
  else s

/-- Look up and advance a counter in an association list. -/
def bumpSeq (l : List ((Nat × Nat) × BitVec 16)) (k : Nat × Nat) : BitVec 16 × List ((Nat × Nat) × BitVec 16) :=
  match l.find? (fun e => e.1 == k) with
  | some e => (e.2, l.map (fun x => if x.1 = k then (k, x.2 + 1) else x))
  | none => (0, l ++ [(k, 1)])

/-- 64 KiB units that a message consumes (R411). -/
def creditUnits (len : Nat) : Nat := ceilDiv (64 + len) 65536

def creditFree (s : State) (peer : Nat) (relay : Bool) : Nat :=
  match s.fab.credits.find? (fun c => c.peer == peer && c.relay == relay) with
  | some c => c.granted - c.used
  | none => 0

def useCredit (peer : Nat) (relay : Bool) (k : Nat) (s : State) : State :=
  let f : Credit → Credit := fun c => if c.peer = peer ∧ c.relay = relay then { c with used := c.used + k } else c
  { s with fab := { s.fab with credits := s.fab.credits.map f } }

/-- The QFM version used toward a peer (R416). -/
def peerVersion (s : State) (dst : Nat) : Nat :=
  match s.fab.peerVer.find? (fun p => p.1 == dst) with | some p => p.2.toNat | none => 0x20

/-- A new message's header. -/
def newHeader (dst ty task tag fseq : Nat) (ext : List (Nat × Nat × Nat)) (len : Nat) (s : State) : Header :=
  let c := (typeClass ty).getD (0, false)
  sealHeader (fields 60 ([(0, 1, ty), (1, 1, peerVersion s dst), (2, 1, c.1 + (if c.2 then 4 else 0)), (4, 2, dst),
    (6, 2, (ownEid s).toNat), (8, 2, partitionOf s), (10, 2, fseq), (12, 4, len), (16, 4, s.fab.nextMsg.toNat),
    (20, 4, (now s).toNat / 2 ^ 16 % 2 ^ 32), (24, 4, task), (28, 4, tag)] ++ ext))

/-- Messages of classes 1 and 2 that a peer has not acknowledged (R410). -/
def unacked (s : State) (dst : Nat) : Nat :=
  (s.fab.kept.filter (fun m => m.dst == dst && ((hCls m.header) == 1 || (hCls m.header) == 2) && decide (0 < m.tries))).length

/-- Whether a kept message may leave now (R410, R411). -/
def mayLeave (m : SentMsg) (s : State) : Bool :=
  if (hCls m.header) = 3 then decide (creditUnits m.payload.length ≤ creditFree s m.dst (relayType (hTyp m.header)))
  else if (hCls m.header) = 0 then true
  else decide (unacked s m.dst < 64)

def setKept (id : BitVec 32) (f : SentMsg → SentMsg) (s : State) : State :=
  { s with fab := { s.fab with kept := s.fab.kept.map (fun m => if m.msgId = id then f m else m) } }

/-- Send a kept message for the first time. -/
def firstSend (m : SentMsg) (s : State) : State :=
  let s := if (hCls m.header) = 3 then useCredit m.dst (relayType (hTyp m.header)) (creditUnits m.payload.length) s else s
  let s := setKept m.msgId (fun m => { m with tries := 1, sentAt := tick s }) s
  transmit m.header m.payload s

/-- Send a message of class 0 that is not kept. -/
def sendLoose (dst ty : Nat) (ext : List (Nat × Nat × Nat)) (s : State) : State :=
  if s.rep.failed then s
  else
    let h := newHeader dst ty 0 0 0 ext 0 s
    let s := { s with fab := { s.fab with nextMsg := s.fab.nextMsg + 1 } }
    if dst = (ownEid s).toNat then s else transmit h [] s

/-- Ask a receiver for class-3 credit (R411). -/
def askCredit (dst : Nat) (relay : Bool) (units : Nat) (s : State) : State :=
  sendLoose dst 0x05 [(32, 1, if relay then 1 else 0), (34, 2, units)] s

/-- Send a message that is kept until acknowledged. A message to this engine itself waits in its own queue; one to a
lost peer is not sent (R418). `payload` is without its CTRL trailer. -/
def sendMsg (dst ty task tag : Nat) (ext : List (Nat × Nat × Nat)) (payload : Bytes) (s : State) : State :=
  if s.rep.failed || isLost s dst then s
  else
    let payload := if ((typeClass ty).getD (0, false)).2 then withCrc payload else payload
    if dst = (ownEid s).toNat then
      let h := newHeader dst ty task tag 0 ext payload.length s
      { s with fab := { s.fab with selfQ := s.fab.selfQ ++ [(h, payload)], nextMsg := s.fab.nextMsg + 1 } }
    else
      let (q, tx) := bumpSeq s.fab.txSeq (dst, task)
      let h := newHeader dst ty task tag q.toNat ext payload.length s
      let m : SentMsg := ⟨s.fab.nextMsg, dst, h, payload, 0, tick s, false⟩
      let s := { s with fab := { s.fab with txSeq := tx, nextMsg := s.fab.nextMsg + 1, kept := s.fab.kept ++ [m] } }
      if mayLeave m s then firstSend m s
      else if (hCls h) = 3 then askCredit dst (relayType ty) (creditUnits payload.length) s
      else s

/-- Send the kept messages toward a peer that may now leave, oldest first. -/
def drainKept (dst : Nat) (s : State) : State :=
  (s.fab.kept.filter (fun m => m.dst == dst && m.tries == 0)).foldl (fun s m => if mayLeave m s then firstSend m s else s) s

/-- Send a message for a task; toward a lost peer the task ends with PEER_LOST at once (R418). -/
def sendFor (id dst ty : Nat) (ext : List (Nat × Nat × Nat)) (payload : Bytes) (s : State) : State :=
  if isLost s dst then finishTask id (rPeerLost dst) s
  else
    let tag := match taskOf s id with | some t => t.pkt.tag.toNat | none => 0
    sendMsg dst ty id tag ext payload s

/-! ### Granting credit (R411, R412) -/

/-- Units of a pool: 8,192 KiB for bulk, 2,048 KiB for relay chunks (R306, R411). -/
def poolUnits (relay : Bool) : Nat := if relay then 32 else 128

/-- Units of a grant that the grantor has not counted as returned. -/
def Credit.out (c : Credit) : Nat := c.granted - c.returned

/-- Units of a pool that are granted now. -/
def poolOut (s : State) (relay : Bool) : Nat := ((s.fab.grants.filter (fun c => c.relay == relay)).map Credit.out).sum

def setGrant (peer : Nat) (relay : Bool) (f : Credit → Credit) (s : State) : State :=
  { s with fab := { s.fab with grants := s.fab.grants.map (fun c => if c.peer = peer ∧ c.relay = relay then f c else c) } }

/-- Grant a sender what it asked for, as far as the pool and its own 512 KiB allow; no bulk credit while buckets are not taken. -/
def grantOne (s : State) (c : Credit) : State :=
  let k := min c.wanted (min (8 - c.out) (poolUnits c.relay - poolOut s c.relay))
  if k = 0 || (s.grad.stalled && !c.relay) then s
  else
    sendLoose c.peer 0x06 [(32, 1, if c.relay then 1 else 0), (34, 2, k), (36, 4, c.returned % 2 ^ 32)]
      (setGrant c.peer c.relay (fun c => { c with granted := c.granted + k, wanted := c.wanted - k }) s)

def grantAll (s : State) : State := s.fab.grants.foldl grantOne s

/-- A message that used credit has been consumed: its units go back to the pool. -/
def creditBack (peer : Nat) (relay : Bool) (k : Nat) (s : State) : State :=
  grantAll (setGrant peer relay (fun c => { c with returned := min c.granted (c.returned + k) }) s)

/-- Units that the segments of a gradient bucket used. -/
def bucketUnits (len : Nat) : Nat := len / 65536 * creditUnits 65536 + (if len % 65536 = 0 then 0 else creditUnits (len % 65536))

/-- The other engines of the module that are live. -/
def moduleOthers (s : State) : List Nat := s.fab.liveSlots.map (eidOf (ownModule s))

end Sys2Proof.Machine
end

