-- ==== Sys2Proof/Machine/Xlate.lean ====
section
/-! DEFINITION. Address translation (R315 to R322) and the fault collector (R334 to R341). -/

namespace Sys2Proof.Machine

/-! ### Entries -/

/-- The exclusive-or of the fifteen nibbles of bits [59:0] with 0x5 (R317). -/
def pteCheck (e : Word) : Nat := (List.range 15).foldl (fun acc k => acc ^^^ bitsNat e (4 * k) 4) 5

/-- An entry with its check nibble set. -/
def sealPte (e : Word) : Word := setBits e 60 4 (pteCheck e)

/-- Page size exponent of a leaf at a level (Table Xlate-2). -/
def levelLg (lvl : Nat) : Nat := 16 + 9 * lvl

def pteV (e : Word) : Bool := e.getLsbD 0
def pteLeaf (e : Word) : Bool := e.getLsbD 1
def pteW (e : Word) : Bool := e.getLsbD 2
def pteHost (e : Word) : Bool := e.getLsbD 3
def pteLink (e : Word) : Nat := bitsNat e 4 2
def pteMig (e : Word) : Bool := e.getLsbD 6
def pteRun (e : Word) : Nat := bitsNat e 8 4
/-- The frame as a byte address. -/
def pteFrame (e : Word) : Nat := bitsNat e 12 44 * 4096

/-- Whether a valid entry at a level and index is malformed (R318, R319). -/
def pteMalformed (lvl idx : Nat) (e : Word) : Bool :=
  bitsNat e 56 4 != 0 || e.getLsbD 7 ||
  (if pteLeaf e then
    lvl == 3 || decide (9 < pteRun e) ||
    (!pteHost e && decide (100 ≤ fpaSite (pteFrame e))) ||
    pteFrame e % 2 ^ levelLg lvl != 0 ||
    pteFrame e / 2 ^ levelLg lvl % 2 ^ pteRun e != idx % 2 ^ pteRun e
  else
    lvl == 0 || pteRun e != 0 || pteMig e || pteLink e != 0 || pteHost e || pteW e ||
    decide (100 ≤ fpaSite (pteFrame e)))

/-- The place a leaf's frame names (R371: bits [55:52] of a HOST frame are ignored). -/
def pteBase (e : Word) : Place :=
  if pteHost e then .host (pteLink e) (pteFrame e % 2 ^ 52) else .dev (pteFrame e)

def Place.sub : Place → Nat → Place
  | .dev a, k => .dev (a - k)
  | .host l a, k => .host l (a - k)
  | .scratch o, k => .scratch (o - k)

/-- The translation a leaf gives: its page, or the whole run it declares (R319). -/
def leafXlat (lvl va : Nat) (e : Word) : Xlat :=
  let size := 2 ^ levelLg lvl
  let page := va / size
  let within := page % 2 ^ pteRun e
  { va := (page - within) * size
    lg := levelLg lvl
    len := 2 ^ pteRun e * size
    place := (pteBase e).sub (within * size)
    w := pteW e
    locked := false
    pte := e }

/-- How a walk ends. -/
inductive WalkRes where
  | leaf (x : Xlat) (mig : Bool)
  /-- cause, level, entry read, whether R334 wants an error record, and whether an injection caused it -/
  | bad (cause level : Nat) (entry : Word) (record injected : Bool)
  deriving DecidableEq, Repr, Inhabited

/-- Read a page-table entry; none where its line is poisoned (Table Mem-6). -/
def readPte (a : Nat) : Act (Option Word) :=
  tryCatch (do let b ← readDev a 8; return some (BitVec.ofNat 64 (leNat b)))
    fun x => match x with
      | .poison _ => return none
      | x => throw x

/-- Walk from a table of a level (R318). -/
def walkFrom (va : Nat) : Nat → Nat → Act WalkRes
  | lvl, base => do
    let idx := va / 2 ^ levelLg lvl % 512
    match (← readPte (base + 8 * idx)) with
    | none => return .bad 3 lvl 0 false false
    | some e =>
      let inj ← injectedAct 0x0E 0
      if !pteV e then return .bad 1 lvl e false false
      else if (bitsNat e 60 4 != pteCheck e) != inj then return .bad 3 lvl e true inj
      else if pteMalformed lvl idx e then return .bad 4 lvl e true false
      else if pteLeaf e then return .leaf (leafXlat lvl va e) (pteMig e)
      else match lvl with
        | 0 => return .bad 4 lvl e true false
        | n + 1 => walkFrom va n (pteFrame e)

/-- Walk the module's page tables (R315, Table Xlate-9), from the root that the access's task bound (R46, R63). -/
def walkPt (va : Nat) : Act WalkRes := do
  let r := (cfgOf (← get) (← read).task).ptRoot
  if !r.getLsbD 0 then return .bad 1 3 0 false false
  else walkFrom va 3 (bitsNat r 12 44 * 4096)

/-! ### The translation cache (R320) -/

def Xlat.covers (x : Xlat) (va : Nat) : Bool := decide (x.va ≤ va) && decide (va < x.va + x.len)
def Xlat.overlaps (x : Xlat) (start len : Nat) : Bool := decide (x.va < start + len) && decide (start < x.va + x.len)

/-- The place of an address under a translation. -/
def Xlat.at (x : Xlat) (va : Nat) : Place := x.place.add (va - x.va)

def tlbFind (s : State) (va : Nat) : Option Xlat := s.xl.tlb.find? (·.covers va)

/-- Advice of a code that covers an address (R345). -/
def adviceAt (s : State) (code va : Nat) : Option Advice :=
  s.xl.advice.find? (fun a => a.code == code && decide (a.start ≤ va) && decide (va < a.start + a.len))

/-- The set an entry occupies: its page or run number modulo 1,024, which is the engine's own choice (log entry 10). -/
def Xlat.set (x : Xlat) : Nat := x.va / x.len % 1024

/-- Drop the least recently used unlocked entry of a set. -/
def dropLru (k : Nat) : List Xlat → List Xlat
  | [] => []
  | x :: t =>
    if x.set = k && !x.locked && !t.any (fun y => y.set == k && !y.locked) then t else x :: dropLru k t

/-- Hold a translation as the most recently used of its set of 16 (R320, KEEP of Table Xlate-17). -/
def tlbInsert (x : Xlat) (s : State) : State :=
  let k := x.set
  let locks := s.xl.tlb.filter (·.locked)
  let lock := match adviceAt s 1 x.va with
    | some a => a.tier == placeTier x.place && decide (locks.length < 4096) && decide ((locks.filter (·.set == k)).length < 8)
    | none => false
  let l := { x with locked := lock } :: s.xl.tlb.filter (fun y => y.va != x.va || y.lg != x.lg)
  { s with xl := { s.xl with tlb := if 16 < (l.filter (·.set == k)).length then dropLru k l else l } }

def tlbTouch (x : Xlat) (s : State) : State :=
  { s with xl := { s.xl with tlb := x :: s.xl.tlb.filter (fun y => y.va != x.va || y.lg != x.lg) } }

/-- Start a speculative walk, if a walker may take it (R321). -/
def specWalk (va : Nat) (task stream : Option Nat) (s : State) : State :=
  let page := va / 65536 * 65536
  if 2 ^ 52 ≤ va || (tlbFind s va).isSome || s.xl.walks.any (fun w => w.va == page) then s
  else if 32 < s.xl.walks.length then s
  else if 8 ≤ (s.xl.walks.filter (fun w => w.task == task && w.stream == stream)).length then s
  else { s with xl := { s.xl with
    walks := s.xl.walks ++ [⟨s.xl.nextWalk, page, false, true, task, stream, none⟩], nextWalk := s.xl.nextWalk + 1 } }

/-- SEQUENTIAL advice: walk the page behind the one translated (Table Xlate-17). -/
def sequentialAhead (va : Nat) (x : Xlat) (task : Option Nat) (s : State) : State :=
  let page := va / 2 ^ x.lg * 2 ^ x.lg
  match adviceAt s 2 va with
  | some a => if a.tier = placeTier x.place then specWalk (page + 2 ^ x.lg) task none s else s
  | none => s

/-- Load a translation without raising or recording a fault (R119, R289, R322). -/
def specLoad (va : Nat) (task : Option Nat) (s : State) : State :=
  if 2 ^ 52 ≤ va || (tlbFind s va).isSome || 32 < s.xl.walks.length then s
  else match (walkPt va).go task s with
    | (.ok (.leaf x false), s) => tlbInsert x s
    | (_, s) => s

/-- Whether a walk has met MIG at a page for 1 ms (R318). -/
def migExpired (s : State) (page : Nat) : Bool :=
  s.xl.walks.any (fun w => w.va == page && (match w.mig with | some t => decide (1000 ≤ usSince s t) | none => false))

/-- Translate an address on demand (R318, R334). -/
def demand (va : Nat) (write : Bool) : Act Xlat := do
  let page := va / 65536 * 65536
  if 2 ^ 52 ≤ va then stop (.fault page 1 3 write 0)
  else
    match tlbFind (← get) va with
    | some x =>
      if write && !x.w then stop (.fault page 2 ((x.lg - 16) / 9) write x.pte)
      else
        let t := (← read).task
        modify fun s => sequentialAhead va x t (tlbTouch x s)
        return x
    | none =>
      match (← walkPt va) with
      | .bad cause lvl e rec inj =>
        if rec then let _ ← logAct { det := 0x0E, sev := 0, address := va, injected := inj }
        stop (.fault page cause lvl write e)
      | .leaf x mig =>
        if mig then
          if migExpired (← get) page then stop (.fault page 5 ((x.lg - 16) / 9) write x.pte) else stop (.mig page write)
        else
          let t := (← read).task
          modify fun s => sequentialAhead va x t (tlbInsert x s)
          if write && !x.w then stop (.fault page 2 ((x.lg - 16) / 9) write x.pte)
          else return x

/-- Translate every page of a range before anything is accessed: pieces (place, length). -/
def xlateRange : Nat → Nat → Nat → Bool → Act (List (Place × Nat))
  | 0, _, _, _ => return []
  | fuel + 1, va, n, write => do
    if n = 0 then return []
    else
      let x ← demand va write
      let k := min n (min (x.va + x.len - va) (2 ^ 26))
      let rest ← xlateRange fuel (va + k) (n - k) write
      return (x.at va, k) :: rest

/-- Pieces that a range of `n` bytes can fall into at most. -/
def rangeFuel (n : Nat) : Nat := n / 65536 + 3

/-- Read pieces one after the other. -/
def readPieces : List (Place × Nat) → Act Bytes
  | [] => return []
  | (p, n) :: t => do
    let b ← readPlace p n
    let r ← readPieces t
    return b ++ r

/-- Write pieces one after the other. -/
def writePieces : List (Place × Nat) → Bytes → Act Unit
  | [], _ => return ()
  | (p, n) :: t, b => do
    writePlace p (b.take n)
    writePieces t (b.drop n)

/-- Every unit of a piece list must answer before one byte moves (R335). -/
def needPieces : List (Place × Nat) → Act Unit
  | [] => return ()
  | (.dev a, _) :: t => do needSite a; needPieces t
  | (.host l _, _) :: t => do needLink l; needPieces t
  | (.scratch _, _) :: t => needPieces t

/-- `n` bytes at a device virtual address. -/
def readVa (va n : Nat) : Act Bytes := do
  let ps ← xlateRange (rangeFuel n) va n false
  readPieces ps

/-- Write bytes at a device virtual address. -/
def writeVa (va : Nat) (b : Bytes) : Act Unit := do
  let ps ← xlateRange (rangeFuel b.length) va b.length true
  needPieces ps
  writePieces ps b

/-- Bytes at a device virtual address become undefined, page by page, where they translate. -/
def freePages : Nat → Nat → Nat → State → State
  | 0, _, _, s => s
  | fuel + 1, va, n, s =>
    if n = 0 then s
    else
      let k := min n (65536 - va % 65536)
      let s := match (demand va true).go none s with
        | (.ok x, s) => freePlace (x.at va) k s
        | (.error _, _) => s
      freePages fuel (va + k) (n - k) s

def freeVa (va n : Nat) (s : State) : State := freePages (rangeFuel n) va n s

/-- A control object: a poisoned line counts as a failure of its CRC (Table Mem-6). -/
def orCrc {α : Type} (object : Nat) (a : Act α) : Act α :=
  tryCatch a fun x => match x with
    | .poison _ => throw (.fail (rCrc object))
    | x => throw x

/-! ### Held translations -/

/-- Pieces of a range under a held store; none where the store does not cover it. -/
def storePieces (store : List Xlat) : Nat → Nat → Nat → Option (List (Place × Nat))
  | 0, _, n => if n = 0 then some [] else none
  | fuel + 1, va, n =>
    if n = 0 then some []
    else match store.find? (·.covers va) with
      | none => none
      | some x =>
        let k := min n (x.va + x.len - va)
        (storePieces store fuel (va + k) (n - k)).map ((x.at va, k) :: ·)

/-- Whether every piece's site or link answers. -/
def pieceUp (s : State) : Place × Nat → Bool
  | (.dev a, _) => siteUp s a
  | (.host l _, _) => linkUp s l
  | (.scratch _, _) => true

/-! ### Faults -/

/-- The die slot of the module's collector (R338). -/
def collectorSlot (s : State) : Option Nat :=
  let own := s.regs.fcQueue.getLsbD 8
  match s.fab.otherCollector with
  | none => if own then some (ownSlot s) else none
  | some k => if own && decide (ownSlot s < k) then some (ownSlot s) else some k

def fcQlog2 (s : State) : Nat := bitsNat s.regs.fcQueue 0 4

/-- The next sequence number, skipping 0x00_0000 and 0xFF_FFFF (R339). -/
def seqAfter (n : Nat) : Nat := if (n + 1) % 2 ^ 24 = 0xFFFFFF ∨ (n + 1) % 2 ^ 24 = 0 then 1 else (n + 1) % 2 ^ 24

def batchTasks (b : Batch) : Nat := (b.recs.map (fun r => r.tasks.length)).sum

/-- Close the open batch (R339, R340). -/
def closeBatch (reason : Nat) (s : State) : State :=
  match s.xl.open_ with
  | none => s
  | some b =>
    { s with xl := { s.xl with
        open_ := none
        waiting := s.xl.waiting ++ [{ b with closed := now s, close := reason }]
        overflow := s.xl.overflow || decide (4 ≤ s.xl.waiting.length) } }

/-- Close the open batch where it is full. -/
def closeIfFull (s : State) : State :=
  match s.xl.open_ with
  | none => s
  | some b =>
    if 512 ≤ b.recs.length then closeBatch 1 s
    else if 4096 ≤ batchTasks b then closeBatch 2 s
    else s

/-- A task entry's owner: die slot, ring and tag. -/
def entryKey (e : BitVec 128) : Nat := bitsNat e 0 8 + bitsNat e 16 48 * 256

/-- Merge a fault into a batch's records (R339). Bit 2 of the access says that only scans found the page, so it stays only where both
say so (log entry 107). -/
def mergeRec : List FRec → FRec → List FRec
  | [], r => [r]
  | x :: t, r =>
    if x.va = r.va ∧ x.cause = r.cause then
      { x with
        engines := x.engines ||| r.engines
        access := ((x.access ||| r.access) &&& 3) ||| (x.access &&& r.access &&& 4)
        tasks := x.tasks ++ r.tasks.filter (fun e => !x.tasks.any (fun y => entryKey y == entryKey e)) } :: t
    else x :: mergeRec t r

def addFaultLost (s : State) : State := { s with xl := { s.xl with lost := satAdd s.xl.lost 1 } }

/-- Add a record at this engine's collector: the batch's sequence number, or 0xFF_FFFF (R338 to R340). -/
def collect (r : FRec) (s : State) : Nat × State :=
  if fcQlog2 s = 0 || s.xl.overflow then (0xFFFFFF, addFaultLost s)
  else
    match s.xl.open_ with
    | some b => (b.seq, closeIfFull { s with xl := { s.xl with open_ := some { b with recs := mergeRec b.recs r } } })
    | none =>
      let q := s.xl.nextSeq
      (q, closeIfFull { s with xl := { s.xl with
        open_ := some ⟨q, [r], tick s, now s, 0, 0⟩, nextSeq := seqAfter q } })

/-- A record as Table Xlate-6 lays it out, with its first task entry's index. -/
def recBytes (r : FRec) (first : Nat) : Bytes :=
  withCrc (fields 60 [(0, 8, r.va), (8, 1, r.cause), (9, 1, r.level), (10, 1, r.access), (12, 2, r.engines.toNat),
    (14, 2, r.tasks.length), (16, 4, first), (24, 8, r.entry.toNat), (32, 8, r.ftime.toNat), (48, 2, r.remoteEid),
    (52, 3, r.remoteBatch)])

/-- A task entry of Table Xlate-7. -/
def taskEntry (slot obj ring tag off tflags : Nat) : BitVec 128 :=
  BitVec.ofNat 128 (leNat (fields 16 [(0, 1, slot), (1, 1, obj), (2, 2, ring), (4, 4, tag), (8, 6, off), (14, 1, tflags)]))

/-- Send a record to the module's collector, this engine or another: the batch's number, which another collector does
not report back (log entry 9). -/
def reportFault (r : FRec) (s : State) : Nat × State :=
  match collectorSlot s with
  | none => (0xFFFFFF, addFaultLost s)
  | some k =>
    if k = ownSlot s then collect r s
    else
      let e := (r.tasks.head?).getD 0
      let s := sendMsg (eidOf (ownModule s) k) 0x50 0 0 [(32, 1, ownSlot s)] (recBytes r 0 ++ leBytes 16 e.toNat) s
      let (d, s) := draw s
      ((Config.freeWord d).toNat % 2 ^ 24, s)

/-- One page a task needs: its address, whether it is written, and the object and offset it serves (Table Xlate-7). -/
structure Need where
  va : Nat
  write : Bool
  obj : Nat
  off : Nat
  deriving DecidableEq, Repr, Inhabited

/-- The needs of the pages of a range of an object. -/
def rangeNeeds (va n : Nat) (write : Bool) (obj off : Nat) : List Need :=
  if n = 0 then []
  else (List.range ((va + n - 1) / 65536 + 1 - va / 65536)).map fun k =>
    let page := (va / 65536 + k) * 65536
    if k = 0 then ⟨va, write, obj, off⟩ else ⟨page, write, obj, off + (page - va)⟩

/-- The record of a fault of a task. -/
def faultRec (s : State) (ring tag : Nat) (n : Need) (cause lvl : Nat) (e : Word) (scan first trunc : Bool) : FRec :=
  { va := n.va / 65536 * 65536
    cause := cause
    level := lvl
    access := (if n.write then 2 else 1) + (if scan then 4 else 0)
    engines := 1#16 <<< ownSlot s
    entry := e
    ftime := now s
    remoteEid := 0
    remoteBatch := 0
    tasks := [taskEntry (ownSlot s) n.obj ring tag n.off
      ((if first then 1 else 0) + (if trunc then 2 else 0) + (if n.write then 4 else 0))] }

/-- Mark the task's last entry of a batch TRUNC (R336). -/
def markTrunc (seq ring tag : Nat) (s : State) : State :=
  let key := ownSlot s + (ring + tag * 65536) * 256
  let f : FRec → FRec := fun r => { r with tasks := r.tasks.map (fun e => if entryKey e = key then e ||| (2#128 <<< 112) else e) }
  { s with xl := { s.xl with waiting := s.xl.waiting.map (fun b => if b.seq = seq then { b with recs := b.recs.map f } else b) } }

/-- The fault scan (R336): translate the pages left, adding a record for each that faults, until the batch closes. -/
def scanNeeds (seq ring tag : Nat) (task : Option Nat) : List Need → State → State
  | [], s => s
  | n :: t, s =>
    if (s.xl.open_.map (·.seq)) != some seq && collectorSlot s == some (ownSlot s) then markTrunc seq ring tag s
    else
      match (demand n.va n.write).go task s with
      | (.error (.fault _ cause lvl _ e), s) =>
        let (_, s) := reportFault (faultRec s ring tag n cause lvl e true false false) s
        scanNeeds seq ring tag task t s
      | (_, s) => scanNeeds seq ring tag task t s

/-- Raise a task's first fault and run its scan: the FAULT_ABORT result (R335, R336, R338). -/
def raiseFault (task : Option Nat) (ring tag : Nat) (n : Need) (cause lvl : Nat) (e : Word) (rest : List Need) (s : State) :
    Result × State :=
  let (seq, s) := reportFault (faultRec s ring tag n cause lvl e false true false) s
  if seq = 0xFFFFFF then (resultOf stFault seq, s)
  else (resultOf stFault seq, scanNeeds seq ring tag task rest s)

/-- Translate every need in order; the first fault ends the task after the scan of those behind it. -/
def translateNeeds (ring tag : Nat) : List Need → Act Unit
  | [] => return ()
  | n :: t => do
    let task := (← read).task
    match (demand n.va n.write).go task (← get) with
    | (.ok _, s) => set s; translateNeeds ring tag t
    | (.error (.fault _ cause lvl _ e), s) =>
      let (r, s) := raiseFault task ring tag n cause lvl e t s
      set s
      stop (.fail r)
    | (.error x, s) => set s; stop x

/-- An access whose faults name an object and offset, with the pages still to come for the scan. -/
def orFault {α : Type} (ring tag : Nat) (n : Need) (rest : List Need) (a : Act α) : Act α :=
  tryCatch a fun x => do
    match x with
    | .fault va cause lvl write e =>
      let (r, s) := raiseFault (← read).task ring tag ⟨va, write, n.obj, n.off + (va - n.va)⟩ cause lvl e rest (← get)
      set s
      stop (.fail r)
    | x => stop x

/-- Drop every cached translation that overlaps a range (R330): how many, and the state. -/
def tlbDrop (start len : Nat) (s : State) : Nat × State :=
  let hit : Xlat → Bool := fun x => len == 0 || x.overlaps start len
  ((s.xl.tlb.filter hit).length, { s with xl := { s.xl with tlb := s.xl.tlb.filter (fun x => !hit x) } })

/-- One more page-table generation. -/
def bumpGen (s : State) : State := { s with xl := { s.xl with ptGen := s.xl.ptGen + 1 } }

/-- Back-invalidate every line the host holds in a range of device memory (R379, R380). -/
def backInvalidateWhere (p : DirLine → Bool) (s : State) : State :=
  (s.host.dir.filter p).foldl (fun s d => backInvalidate d [] s) s

end Sys2Proof.Machine
end

