-- ==== Sys2Proof/Machine/Operands.lean ====
section
/-! DEFINITION. The operand forms of commands: packet fields and their layouts (R54, Tables Cmd-9 to Cmd-17), the step-4
checks every opcode shares (R5, R519), and control lists (R42, Table Cmd-6). -/

namespace Sys2Proof.Machine

/-! ### Packets -/

/-- Byte field [lo, lo + n) of a packet's parameters, lo counted from the packet's first byte. -/
def pf (p : Packet) (lo n : Nat) : Nat := bitsNat p.params (8 * (lo - 8)) (8 * n)

/-- Flag bit k. -/
def pflag (p : Packet) (k : Nat) : Bool := p.flags.getLsbD k

def pOrdered (p : Packet) : Bool := pflag p 0
def pIrq (p : Packet) : Bool := pflag p 1
def pQuiet (p : Packet) : Bool := pflag p 2
def pPeerFlush (p : Packet) : Bool := pflag p 3

/-- The TID of bytes 8 to 10. -/
def pTid (p : Packet) : Nat := pf p 8 3

/-- Bytes 0 to 59 of a packet (Table Cmd-4). -/
def packetBody (op : Byte) (p : Packet) : Bytes :=
  [op, p.version] ++ leBytes 2 p.flags.toNat ++ leBytes 4 p.tag.toNat ++ leBytes 52 p.params.toNat

/-- The 64 bytes of a packet. -/
def packetBytes (op : Byte) (p : Packet) : Bytes := packetBody op p ++ leBytes 4 p.crc.toNat

def packetCrcOk (op : Byte) (p : Packet) : Bool := crc32c (packetBody op p) == p.crc

/-- The packet that 64 bytes hold. -/
def packetOf (b : Bytes) : Packet :=
  { version := BitVec.ofNat 8 (leField b 1 1)
    flags := BitVec.ofNat 16 (leField b 2 2)
    tag := BitVec.ofNat 32 (leField b 4 4)
    params := BitVec.ofNat 416 (leField b 8 52)
    crc := BitVec.ofNat 32 (leField b 60 4) }

/-! ### Opcodes by version and ring (Tables Cmd-7 and Cmd-8) -/

def implementedVersion (v : Byte) : Bool := v == 0x10 || v == 0x11 || v == 0x20

/-- The opcodes of Table Cmd-8. -/
def listedOp (op : Byte) : Bool :=
  ([0x00, 0x01, 0x02, 0x03, 0x08, 0x10, 0x11, 0x12, 0x13, 0x14, 0x15, 0x20, 0x21, 0x22, 0x23, 0x24, 0x30, 0x31, 0x32, 0x33, 0x34,
    0x40, 0x41, 0x42, 0x43, 0x44, 0x45, 0x46, 0x47, 0x50, 0x51, 0x52, 0x53, 0x54, 0x55, 0x60, 0x61, 0x62, 0x70, 0x71, 0x72, 0x78,
    0x79, 0x7C, 0x7D, 0x7E] : List Byte).contains op

def opInVersion (op v : Byte) : Bool :=
  if v = 0x20 then true
  else if v = 0x11 then !([0x14, 0x15, 0x78, 0x79, 0x7C] : List Byte).contains op
  else !([0x14, 0x15, 0x22, 0x46, 0x47, 0x78, 0x79, 0x7C] : List Byte).contains op

/-- Opcodes marked Ctl. -/
def ctlOp (op : Byte) : Bool :=
  ([0x08, 0x10, 0x33, 0x53, 0x54, 0x55, 0x60, 0x70, 0x71, 0x78, 0x79, 0x7C, 0x7D, 0x7E] : List Byte).contains op

/-- Opcodes marked Fast. -/
def fastOp (op : Byte) : Bool :=
  ([0x20, 0x21, 0x22, 0x23, 0x24, 0x30, 0x34, 0x41, 0x42, 0x44, 0x45, 0x46] : List Byte).contains op

/-- The versioned opcodes of R54. -/
def versionedOp (op : Byte) : Bool :=
  ([0x11, 0x12, 0x13, 0x14, 0x15, 0x20, 0x21, 0x22, 0x23, 0x30, 0x31, 0x32, 0x61] : List Byte).contains op

/-- Versioned opcodes that must name a version in every protocol version (R52, R54). -/
def mustName (op : Byte) : Bool := ([0x11, 0x12, 0x13, 0x15] : List Byte).contains op

/-! ### Reserved bits and bytes (R5, R54) -/

/-- The parameter bytes an opcode uses: (first, count). With VERSION_EXPLICIT clear the version bytes must be zero. -/
def usedBytes (op : Byte) (p : Packet) (proto : Byte) : List (Nat × Nat) :=
  let ver := if proto = 0x20 ∧ pflag p 8 then [(12, 2)] else []
  match op.toNat with
  | 0x01 => [(8, 9), (24, 16)]
  | 0x02 => [(8, 2), (12, 16)]
  | 0x03 => [(8, 2)]
  | 0x08 => [(8, 31), (40, 8)]
  | 0x10 => [(8, 4), (12, 12)]
  | 0x11 => [(8, 3), (12, 2), (16, 8)]
  | 0x12 => [(8, 3), (12, 2), (16, 8)]
  | 0x13 => [(8, 3), (12, 2), (16, 16)]
  | 0x14 => [(8, 3), (14, 2), (16, 16)] ++ ver
  | 0x15 => [(8, 3), (12, 3), (16, 20)]
  | 0x20 => [(8, 3), (14, 39)] ++ ver
  | 0x21 => [(8, 3), (14, 1), (16, 20)] ++ ver
  | 0x22 => [(8, 3), (14, 1), (16, 22)] ++ ver
  | 0x23 => [(8, 3), (14, 1), (16, 12)] ++ ver
  | 0x24 => [(8, 6)]
  | 0x30 => [(8, 3), (14, 1), (16, 44)] ++ ver
  | 0x31 => [(8, 3), (14, 1)] ++ ver
  | 0x32 => [(8, 3), (14, 1), (16, 22)] ++ ver
  | 0x33 => if pf p 10 1 = 1 then [(8, 3)] else [(8, 3), (12, 10), (24, 4)]
  | 0x34 => if pflag p 8 then [(8, 21), (32, 20)] else [(8, 21)]
  | 0x40 => [(8, 2), (12, 16)]
  | 0x41 => [(8, 2), (12, 20)]
  | 0x42 => [(8, 3)]
  | 0x43 => [(8, 2), (12, 4)]
  | 0x44 => [(8, 8)]
  | 0x45 => [(8, 3), (12, 8)]
  | 0x46 => if pflag p 8 then [(8, 12), (24, 32)] else [(8, 12), (24, 8)]
  | 0x47 => [(8, 4), (12, 12)]
  | 0x50 => [(8, 18)]
  | 0x51 => [(8, 18)]
  | 0x52 => [(8, 17)]
  | 0x53 => [(8, 3)]
  | 0x54 => [(8, 17)]
  | 0x55 => if pf p 10 1 = 1 then [(8, 3)] else [(8, 3), (12, 24)]
  | 0x60 => [(8, 2), (12, 4)]
  | 0x61 => [(8, 3), (14, 1), (16, 8)] ++ ver
  | 0x62 => [(8, 3), (12, 1)]
  | 0x70 => [(8, 2), (12, 2)]
  | 0x71 => [(8, 1), (16, 8)]
  | 0x72 => [(8, 1), (16, 24)]
  | 0x78 => [(8, 1), (12, 48)]
  | 0x79 => [(8, 3)]
  | 0x7C => [(8, 16)]
  | 0x7D => [(8, 8)]
  | 0x7E => [(8, 1), (12, 8)]
  | _ => []

/-- Opcode-specific flag bits [15:8] an opcode uses. -/
def usedFlags (op proto : Byte) : Nat :=
  let v := if versionedOp op && (proto == 0x20 || mustName op) then 1 else 0
  match op.toNat with
  | 0x20 => v + 2 + 4
  | 0x21 => v + 4
  | 0x30 => v + 2
  | 0x34 => 1
  | 0x40 => 1
  | 0x46 => 1
  | _ => v

/-- Bits of a used byte that are reserved: (byte, mask). -/
def reservedBits (op : Byte) : List (Nat × Nat) :=
  match op.toNat with
  | 0x03 => [(9, 0xFC)]
  | 0x08 => [(46, 0xFE), (47, 0xFF)]
  | 0x14 => [(15, 0xFC)]
  | 0x23 => [(14, 0xFC)]
  | 0x47 => [(11, 0xFE)]
  | _ => []

/-- The offset of the first field with a reserved bit or byte that is not zero: 2 for the flags, else the byte's own. -/
def reservedAt (op proto : Byte) (p : Packet) : Option Nat :=
  if bitsNat p.flags 4 4 != 0 || bitsNat p.flags 8 8 &&& (255 - usedFlags op proto) != 0 then some 2
  else
    let used := usedBytes op p proto
    ((List.range 52).map (· + 8)).find? fun k =>
      if used.any (fun u => decide (u.1 ≤ k) && decide (k < u.1 + u.2)) then
        (reservedBits op).any (fun r => r.1 == k && (pf p k 1 &&& r.2) != 0)
      else pf p k 1 != 0

/-! ### Checks -/

/-- A list of checks: what fails, and the result then. -/
abbrev Checks := List (Bool × Result)

def firstFail (cs : Checks) : Option Result := (cs.find? (·.1)).map (·.2)

/-- The field offset that a BAD_PARAM result names. -/
def failOffset (r : Result) : Nat := bitsNat r.detail 16 8

/-- The failing check that names the first field in byte order. -/
def lowestFail (cs : Checks) : Option Result :=
  ((cs.filter (·.1)).map (·.2)).foldl (fun best r => match best with
    | none => some r
    | some b => if failOffset r < failOffset b then some r else some b) none

/-- Opcodes whose checks no table and no list puts in an order. -/
def byteOrderOp (op : Byte) : Bool :=
  ([0x00, 0x01, 0x03, 0x08, 0x24, 0x31, 0x42, 0x43, 0x44, 0x45, 0x53, 0x78, 0x79] : List Byte).contains op

/-- The first failing check of step 4 (R520): in byte order where the opcode has no check table; else the reserved bits and bytes,
which stand in no table, and then the table. -/
def step4Fail (op proto : Byte) (p : Packet) (cs : Checks) : Option Result :=
  let reserved := (reservedAt op proto p).map (rBadParam 1)
  if byteOrderOp op then lowestFail ((reserved.map (fun r => (true, r))).toList ++ cs)
  else reserved.orElse fun _ => firstFail cs

/-- A BAD_PARAM check. -/
def bad (cond : Bool) (reason off : Nat) : Bool × Result := (cond, rBadParam reason off)

/-- An address field whose bits [63:52] are not zero (R519). -/
def highAddr (p : Packet) (off : Nat) : Bool × Result := bad (2 ^ 52 ≤ pf p off 8) 3 off

/-- A misaligned field. -/
def misaligned (p : Packet) (off k : Nat) : Bool × Result := bad (pf p off 8 % k != 0) 4 off

/-- Make checks inside an access. -/
def need (cs : Checks) : Act Unit :=
  match firstFail cs with
  | some r => stop (.fail r)
  | none => return ()

/-! ### Control objects -/

/-- Judge a control object's CRC (R42): a failure is logged by detector 0x01 and completes with CRC_ERROR. -/
def judgeCrc (ok : Bool) (object : Nat) : Act Unit := do
  let inj ← injectedAct 0x01 0
  if ok && !inj then return ()
  else
    let _ ← logAct { det := 0x01, sev := 0, injected := inj }
    stop (.fail (rCrc object))

/-- Bytes of one list element (Table Cmd-6). -/
def elemBytes (e : Nat) : Nat := if e = 2 then 8 else if e = 4 then 2 else if e = 6 then 16 else 4

/-- A control list's header. -/
structure ListHead where
  addr : Nat
  count : Nat
  elem : Nat
  crc : Nat
  deriving DecidableEq, Repr, Inhabited

/-- Read and check a list header at step 5. `obj` names the CRC object, and faults name a control list. -/
def readListHead (ring tag addr object : Nat) : Act ListHead := do
  let b ← orFault ring tag ⟨addr, false, 2, 0⟩ [] (orCrc object (readVa addr 16))
  judgeCrc (leField b 12 4 == (crc32c (b.take 12)).toNat) object
  return ⟨addr, leField b 0 4, leField b 4 1, leField b 8 4⟩

/-- Header checks that every list shares: reserved bytes, reserved element code, extent (R519). -/
def listHeadChecks (h : ListHead) (off : Nat) : Checks :=
  [bad (h.elem = 0 ∨ 6 < h.elem) 2 off, bad (2 ^ 52 < h.addr + 16 + h.count * elemBytes h.elem) 3 off]

/-- The needs of a list's pages. -/
def listNeeds (h : ListHead) : List Need := rangeNeeds h.addr (16 + h.count * elemBytes h.elem) false 2 0

/-- Read a list's payload; its CRC is judged over the whole. -/
def readListPayload (ring tag : Nat) (h : ListHead) (object : Nat) (rest : List Need) : Act Bytes := do
  let n := h.count * elemBytes h.elem
  if n = 0 then
    judgeCrc (h.crc == (crc32c []).toNat) object
    return []
  else
    let b ← orFault ring tag ⟨h.addr + 16, false, 2, 16⟩ ((listNeeds h).drop 1 ++ rest) (orCrc object (readVa (h.addr + 16) n))
    judgeCrc (h.crc == (crc32c b).toNat) object
    return b

/-- The elements of a payload, as numbers. -/
def listElems (elem count : Nat) (b : Bytes) : List Nat := unpackElems (elemBytes elem) count b
where
  unpackElems (k : Nat) : Nat → Bytes → List Nat
    | 0, _ => []
    | n + 1, b => leNat (b.take k) :: unpackElems k n (b.drop k)

end Sys2Proof.Machine
end

