-- ==== Sys2Proof/Machine/Ops.lean ====
section
/-! DEFINITION. The operations every packet shares: rings and their RCT entries (R26 to R36), acceptance (R45 to R51), and
completion records (R28, R33, R58). -/

namespace Sys2Proof.Machine

/-! ### Rings -/

/-- A ring that has never been created. -/
def Ring.blank : Ring where
  sqBase := 0
  cqBase := 0
  cqWb := 0
  depthLog2 := 0
  cls := 0
  prio := 0
  proto := 0
  msix := 0
  irqCoalesce := 0
  rateFloor := 0
  ringFlags := 0
  st := .disabled
  sqHead := 0
  sqTail := 0
  cqTail := 0
  cqHead := 0
  completions := 0
  errCause := 0
  sinceIrq := 0
  drainTask := none
  drainReset := false
  discard := false
  driver := 0
  behind := []
  behindLines := []

/-- Ring 0 before it is first enabled: class 0x03, bound to QCP 2.0 (R34, R66). -/
def Ring.zero : Ring := { Ring.blank with depthLog2 := 6, cls := 3, proto := 0x20, irqCoalesce := 1 }

def ringGet (s : State) (n : Nat) : Ring := (smapGet s.cmd.rings n).getD (if n = 0 then Ring.zero else Ring.blank)

def ringStateCode : RingState → Nat
  | .disabled => 0
  | .enabled => 1
  | .error => 2
  | .draining => 3

/-- The RCT entry of a ring (Table Cmd-2). -/
def rctBytes (r : Ring) : Bytes :=
  fields 64 [(0, 8, r.sqBase.toNat), (8, 8, r.cqBase.toNat), (16, 8, r.cqWb.toNat), (24, 1, r.depthLog2.toNat),
    (25, 1, r.cls.toNat), (26, 1, r.prio.toNat), (27, 1, r.proto.toNat), (28, 2, r.msix.toNat), (30, 2, r.irqCoalesce.toNat),
    (32, 2, r.rateFloor.toNat), (34, 2, r.ringFlags.toNat), (36, 1, ringStateCode r.st), (56, 4, r.sqHead.toNat),
    (60, 4, r.cqTail.toNat)]

/-- The entry with its CRC over bytes 0 to 47. -/
def rctEntry (r : Ring) : Bytes :=
  let b := rctBytes r
  patch b 48 (leBytes 4 (crc32c (b.take 48)).toNat)

def rctBase (s : State) : Nat := bitsNat s.regs.rctBase 20 36 * 2 ^ 20
def rctAddr (s : State) (n : Nat) : Nat := rctBase s + 64 * n

/-- Hold a ring and write its RCT entry. -/
def ringSet (n : Nat) (r : Ring) (s : State) : State :=
  let s := { s with cmd := { s.cmd with rings := smapSet s.cmd.rings n r } }
  if rctBase s != 0 && siteUp s (rctAddr s n) then writeDevLines (rctAddr s n) (rctEntry r) s else s

def ringDepth (r : Ring) : Nat := 2 ^ r.depthLog2.toNat
def cqFull (r : Ring) : Bool := (r.cqTail - r.cqHead).toNat == ringDepth r
def sqWaiting (r : Ring) : Bool := r.sqHead != r.sqTail

/-- Slot addresses (R27). -/
def sqSlot (r : Ring) (c : BitVec 32) : Nat := r.sqBase.toNat + c.toNat % ringDepth r * 64
def cqSlot (r : Ring) (c : BitVec 32) : Nat := r.cqBase.toNat + c.toNat % ringDepth r * 32

/-- The translations a ring's queues are reached through (R332, R333). -/
def ringXlats (s : State) (n : Nat) : List Xlat :=
  if n = 0 then s.xl.ring0Store else (smapGet s.xl.ringStore n).getD []

/-- The link a ring's interrupt is sent on (R511). -/
def ringLink (s : State) (n : Nat) : Option Nat :=
  match (ringXlats s n).find? (·.covers (ringGet s n).cqBase.toNat) with
  | some x => match x.place with | .host l _ => if linkUp s l then some l else none | _ => lowestLink s
  | none => lowestLink s

/-- Raise a ring's interrupt. -/
def ringIrq (n : Nat) (s : State) : State := msixOn (ringLink s n) (ringGet s n).msix.toNat s

/-- Put a ring into the error state. -/
def ringError (n : Nat) (cause : Byte) (s : State) : State :=
  ringSet n { ringGet s n with st := .error, errCause := cause } s

/-! ### Tasks on rings -/

def ringTasks (s : State) (n : Nat) : List Task := s.cmd.tasks.filter (fun t => t.ring == n && t.origin.isNone)

/-- Whether an earlier task of a task's ring has not completed. -/
def earlierTask (s : State) (t : Task) : Bool :=
  s.cmd.tasks.any (fun u => u.ring == t.ring && u.origin.isNone && decide (u.id < t.id))

/-! ### Which ring is next (R36) -/

/-- Acceptance is held: a commit pending (R63), a resize, a level 3 or 4 repair or a self-test from its acceptance on (R254, R478, R495),
a failed engine (R469), or a phase in which no packet is accepted. -/
def acceptHeld (s : State) : Bool :=
  s.cmd.pendCommit.isSome || s.rep.failed || s.boot.inReset || !fastServed s ||
  s.cmd.tasks.any fun t => match t.phase with
    | .running .bermConfig => true
    | .held =>
      (t.op == 0x60 && (pf t.pkt 8 1 != s.berm.size || pf t.pkt 9 1 != s.berm.share)) ||
      (t.op == 0x7D && decide (3 ≤ pf t.pkt 8 1) && decide (pf t.pkt 9 1 < 2)) || t.op == 0x7E
    | .migWait _ _ _ => t.op == 0x7E
    | .running .repair => true
    | .running .selftest => true
    | _ => false

def acceptable (s : State) (n : Nat) : Bool :=
  let r := ringGet s n
  r.st == .enabled && sqWaiting r && !cqFull r && !s.host.waiting.any (fun q => r.behind.contains q.id) &&
  !s.host.backInv.any (fun b => r.behindLines.contains b.line && !b.write.isEmpty)

/-- Round-robin: the first candidate above the one served last, or the first of all. -/
def roundRobin (last : Option Nat) (l : List Nat) : Option Nat :=
  match last with
  | none => l.head?
  | some k => match l.find? (fun n => decide (k < n)) with
    | some n => some n
    | none => l.head?

/-- The rings of a class, other than ring 0, that a condition holds of. -/
def ringsOf (s : State) (ok : Nat → Bool) (c : Byte) : List Nat :=
  (s.cmd.rings.map Prod.fst).filter (fun n => n != 0 && (ringGet s n).cls == c && ok n)

/-- The highest level that has such a priority ring. -/
def topLevel (s : State) (ok : Nat → Bool) : Option Nat :=
  ((List.range 8).reverse).find? (fun k => (ringsOf s ok 2).any (fun n => (ringGet s n).prio.toNat == k))

/-- The ring the engine accepts from next, among those that hold a packet it can accept (`ok`). -/
def nextRingOf (s : State) (ok : Nat → Bool) : Option Nat :=
  if ok 0 then some 0
  else
    let normal := roundRobin (smapGet s.cmd.lastRing 0) (ringsOf s ok 0)
    let fill := roundRobin (smapGet s.cmd.lastRing 1) (ringsOf s ok 1)
    let prio := (topLevel s ok).bind fun k =>
      roundRobin (smapGet s.cmd.lastRing (2 + k)) ((ringsOf s ok 2).filter (fun n => (ringGet s n).prio.toNat == k))
    let owed := decide ((s.cmd.recent.filter id).length < 2)
    match normal, prio with
    | some n, some p => if owed then some n else some p
    | some n, none => some n
    | none, some p => some p
    | none, none => fill

/-- The same while firmware runs: any packet can be accepted. -/
def nextRing (s : State) : Option Nat := nextRingOf s (acceptable s)

/-- Bytes at a place, where it answers. -/
def peekPlace (s : State) (n : Nat) : Place → Option Bytes
  | .dev a => peekDev s a n
  | .host l a => if linkUp s l then some (overlayNear s.host.near (some l) a (Memory.read s.mem.host (hostKey l a) n)) else none
  | .scratch _ => none

/-- The 64 bytes in the submission slot that a ring is read from next. -/
def headSlot (s : State) (n : Nat) : Option Bytes :=
  match storePieces (ringXlats s n) 1 (sqSlot (ringGet s n) (ringGet s n).sqHead) 64 with
  | some [(p, _)] => peekPlace s 64 p
  | _ => none

/-- The opcode of the packet there. -/
def slotOp (s : State) (n : Nat) : Option Byte := (headSlot s n).bind (·.head?)

/-- The key of a ring's round-robin turn. -/
def turnKey (r : Ring) : Nat := if r.cls = 2 then 2 + r.prio.toNat else if r.cls = 1 then 1 else 0

/-- Note an acceptance for the share of R36. -/
def noteTurn (n : Nat) (s : State) : State :=
  if n = 0 then s
  else
    let r := ringGet s n
    { s with cmd := { s.cmd with
        recent := ((r.cls == 0) :: s.cmd.recent).take 15
        lastRing := smapSet s.cmd.lastRing (turnKey r) n } }

/-- Whether a ring holds a packet that the fast path can accept, where ring `n` holds one of opcode `op`. -/
def fastReady (s : State) (op : Byte) (n k : Nat) : Bool :=
  acceptable s k && (if k = n then fastOp op else (slotOp s k).any fastOp)

/-- Whether a packet of an opcode may be accepted from a ring now. While firmware does not run only the fast path accepts
(R466, R491), from the ring that is next among those whose packet is a fast one. -/
def mayAccept (s : State) (op : Byte) (n : Nat) : Bool :=
  !acceptHeld s && (if s.boot.phase = 5 then nextRing s else nextRingOf s (fastReady s op n)) == some n &&
  (s.boot.phase == 5 || fastOp op)

/-! ### Acceptance -/

/-- Check the RCT entry's CRC (R32). -/
def rctOk (n : Nat) (s : State) : Bool × Bool × State :=
  let (inj, s) := injectAt 0x02 n s
  match lookDev (rctAddr s n) 52 s with
  | (some b, s) => (crcHolds b && !inj, inj, s)
  | (none, s) => (false, inj, s)

def countAccept (op : Byte) (s : State) : State :=
  if fastOp op then
    { s with cmd := { s.cmd with fastAccepted := satAdd s.cmd.fastAccepted 1,
                                 sat64 := if satHits s.cmd.fastAccepted 1 then s.cmd.sat64 ||| 1 else s.cmd.sat64 } }
  else
    { s with cmd := { s.cmd with fwAccepted := satAdd s.cmd.fwAccepted 1,
                                 sat64 := if satHits s.cmd.fwAccepted 1 then s.cmd.sat64 ||| 2 else s.cmd.sat64 } }

/-- Steps 1 to 3 of R45 on a packet of a ring bound to `proto`. -/
def headChecks (op : Byte) (n : Nat) (proto : Byte) (slot : Nat) (crcOk : Bool) (p : Packet) : Option Result :=
  if !crcOk then some (resultOf stCrc (1 * 65536 + slot))
  else
    let verOk := if op = 0x00 ∨ op = 0x01 then implementedVersion p.version else p.version == proto
    if !verOk then some (resultOf stBadVersion (p.version.toNat * 65536 + proto.toNat * 256 + 0x20))
    else if !listedOp op then some (resultOf stBadOpcode (1 * 65536 + op.toNat))
    else if !opInVersion op p.version then some (resultOf stBadOpcode (3 * 65536 + op.toNat))
    else if ctlOp op && n != 0 then some (resultOf stBadOpcode (2 * 65536 + op.toNat))
    else none

/-- A packet whose own CRC failed is answered under the tag 0xFFFF_FFFF, and none of its flags is taken (R39). -/
def taskPacket (crcOk : Bool) (r : Ring) (p : Packet) : Packet :=
  if !crcOk then { p with tag := 0xFFFFFFFF, flags := 0 }
  else if r.ringFlags.getLsbD 0 then { p with flags := p.flags ||| 4 }
  else p

/-- The new task of an accepted packet. -/
def newTask (id n : Nat) (op : Byte) (p : Packet) (proto : Byte) (cfg : TaskCfg) : Task :=
  { id := id, ring := n, op := op, pkt := p, proto := proto, bind := none, cfg := cfg, captured := [], block := [], phase := .queued, early := none, sent := [],
    dropped := 0, sat := false, spill := false, degraded := none, origin := none }

/-- Wait for a page that is being moved: the walk is made again 1 µs later (R318). -/
def waitMig (task : Option Nat) (va : Nat) (write : Bool) (s : State) : State :=
  if s.xl.walks.any (fun w => w.task == task && w.va == va && w.mig.isSome) && task.isSome then s
  else
    { s with xl := { s.xl with
        walks := s.xl.walks ++ [⟨s.xl.nextWalk, va, write, false, task, none, some (tick s)⟩], nextWalk := s.xl.nextWalk + 1 } }

/-- What an access stopped by anything but a page being moved does to its task. -/
def stopTask (id : Nat) (x : Stop) (s : State) : State :=
  match x with
  | .fail r => finishTask id r s
  | .poison idx => finishTask id (rHw 0x08 idx) s
  | .mig _ _ => s
  | .fault va cause lvl w e =>
    let (ring, tag) := ringTag (some id) s
    let (r, s) := raiseFault (some id) ring tag ⟨va, w, 8, 0⟩ cause lvl e [] s
    finishTask id r s

/-- The state after an access of a task stopped: `before` it or `after` it. Nothing of an access that meets a page being moved
is kept but the version that its task has bound (R46): a task that had not started starts again when the walk ends, a running one
makes the access again. -/
def stopFrom (id : Nat) (x : Stop) (before after : State) : State :=
  match x with
  | .mig va w =>
    let bind := (taskOf after id).bind (·.bind)
    let wait : Task → Task := fun t => match t.phase with
      | .running _ => t
      | .done _ => t
      | _ => { t with phase := .migWait va w (tick before), bind := t.bind.orElse fun _ => bind }
    mapTask id wait (waitMig (some id) va w before)
  | x => stopTask id x after

/-- Run an access of a task; where it stops, so does the task. -/
def runTask (id : Nat) (a : Act Unit) (s : State) : State :=
  match a.go (some id) s with
  | (.ok _, s') => s'
  | (.error x, s') => stopFrom id x s s'

/-- Opcodes that a full fault collector does not turn away (R340). -/
def overflowExempt (op : Byte) : Bool := ([0x00, 0x03, 0x53, 0x54, 0x78, 0x79] : List Byte).contains op

/-- Step 6 for a full fault collector, then ORDERED (Table Cmd-5), then the start. -/
def admitTask (id : Nat) (start : Task → State → State) (s : State) : State :=
  match taskOf s id with
  | none => s
  | some t =>
    if s.xl.overflow && !overflowExempt t.op then finishTask id (rBusy 9) s
    else if pOrdered t.pkt && earlierTask s t then mapTask id (fun t => { t with phase := .held }) s
    else start t s

/-- Steps 5 and 6 of a task's acceptance (`check`), and its start unless ORDERED holds it. -/
def beginTask (check : Task → Act Unit) (start : Task → State → State) (id : Nat) (s : State) : State :=
  match taskOf s id with
  | none => s
  | some t =>
    match (check t).go (some id) s with
    | (.error x, s') => stopFrom id x s s'
    | (.ok _, s) => admitTask id start s

/-- The same for a task whose checks and effect are one access `whole`: nothing of it is kept where the task is turned away
or held, except the version it bound. -/
def beginWhole (whole : Task → Act Unit) (id : Nat) (s : State) : State :=
  match taskOf s id with
  | none => s
  | some t =>
    match (whole t).go (some id) s with
    | (.error x, s') => stopFrom id x s s'
    | (.ok _, s') =>
      let bind := (taskOf s' id).bind (·.bind)
      admitTask id (fun _ _ => s') (mapTask id (fun t => { t with bind := bind }) s)

/-- The same for an opcode that takes effect at its acceptance (R35, R254, R364, R442, R481): where ORDERED holds the task, its
completion waits (log entry 34). -/
def beginNow (whole : Task → Act Unit) (id : Nat) (s : State) : State :=
  match taskOf s id with
  | none => s
  | some t =>
    match (whole t).go (some id) s with
    | (.error x, s') => stopFrom id x s s'
    | (.ok _, s') =>
      if s.xl.overflow && !overflowExempt t.op then finishTask id (rBusy 9) s
      else if pOrdered t.pkt && earlierTask s t then
        mapTask id (fun t => match t.phase with | .done r => { t with phase := .held, early := some r } | _ => t) s'
      else s'

/-- Such a task's turn to complete has come. -/
def startNow (t : Task) (s : State) : State :=
  match t.early with
  | some r => finishTask t.id r s
  | none => s

/-- Start such a task that was held. -/
def startWhole (whole : Task → Act Unit) (t : Task) (s : State) : State := runTask t.id (whole t) s

/-- An opcode without checks of its own. -/
def noStep4 (_ : Byte) (_ : Packet) : Checks := []
def noCheck (_ : Task) : Act Unit := return ()

/-- Whether a line of the slot that a packet is read from is poisoned: it counts as a failure of the packet's CRC (Table Mem-6). -/
def slotPoison (n : Nat) (s : State) : Bool × State :=
  match storePieces (ringXlats s n) 1 (sqSlot (ringGet s n) (ringGet s n).sqHead) 64 with
  | none => (false, s)
  | some ps => match (checkPoison (pieceLines ps)).go none s with
    | (.ok _, s) => (false, s)
    | (.error _, s) => (true, s)

/-- Accept a packet of an opcode from a ring (R45, R46): `step4` are its step-4 checks behind those every opcode shares, and
`begin_` its steps 5 and 6 with its start. Nothing happens where the engine would not accept from that ring now. -/
def acceptPacket (op : Byte) (step4 : Byte → Packet → Checks) (begin_ : Nat → State → State)
    (n : Nat) (p : Packet) (s : State) : State :=
  if !mayAccept s op n then s
  else
    match rctOk n s with
    | (false, inj, s) => ringError n 2 (logErr { det := 0x02, sev := 2, phys := n, address := rctAddr s n, ring := n, injected := inj } s)
    | (true, _, s) =>
      let r := ringGet s n
      let (poisoned, s) := slotPoison n s
      let (inj, s) := injectAt 0x01 0 s
      let crcOk := packetCrcOk op p && !inj && !poisoned
      let slot := r.sqHead.toNat % ringDepth r
      let id := s.cmd.nextTask
      let t := newTask id n op (taskPacket crcOk r p) r.proto (liveCfg s)
      let s := noteTurn n (countAccept op (ringSet n { r with sqHead := r.sqHead + 1 } s))
      let s := { s with cmd := { s.cmd with nextTask := id + 1, tasks := s.cmd.tasks ++ [t] } }
      let s := if crcOk then s else logErr { det := 0x01, sev := 0, ring := n, tag := 0, injected := inj } s
      match headChecks op n r.proto slot crcOk p with
      | some f => finishTask id f s
      | none =>
        match step4Fail op r.proto p (step4 r.proto p) with
        | some f => finishTask id f s
        | none => begin_ id s

/-- A packet whose opcode Table Cmd-8 does not list is accepted too, as a task that has failed (R45, R53). The table of commands has
no row for one: such a packet is read from its slot when its ring is next (log entry 78). -/
def takeUnlisted (s : State) : State :=
  match nextRing s with
  | none => s
  | some n => match headSlot s n with
    | none => s
    | some b =>
      let op : Byte := BitVec.ofNat 8 (leField b 0 1)
      if listedOp op then s else acceptPacket op noStep4 (fun _ s => s) n (packetOf b) s

/-! ### Accesses for other engines' tasks (R337) -/

/-- Record a fault met on behalf of another engine's task at this module's collector, and send it a notice. -/
def remoteFault (src task tag va cause lvl : Nat) (w : Bool) (e : Word) (s : State) : Result × State :=
  let r := faultRec s 0xFFFF tag ⟨va, w, 6, 0⟩ cause lvl e false true false
  let r := { r with tasks := [taskEntry (src % 16) 6 0xFFFF tag 0 ((if w then 4 else 0) + 1)] }
  let (seq, s) := reportFault r s
  (resultOf stFault seq, sendMsg src 0x51 task tag [(32, 3, seq), (36, 2, (ownEid s).toNat)] [] s)

/-- Make an access whose error records name a task of an engine. -/
def serving {α : Type} (src task tag : Nat) (a : Act α) : Act α := do
  let own := decide (src = (ownEid (← get)).toNat)
  withReader (fun w => { w with named := if own then some task else none, tag := tag }) a

/-- Make an access for a task of an engine; where it fails, go on with its result. -/
def onBehalf {α : Type} (src task tag : Nat) (a : Act α) (failed : Result → Act α) : Act α :=
  tryCatch (serving src task tag a) fun x => do
    match x with
    | .mig va w => throw (.mig va w)
    | .poison idx => failed (rHw 0x08 idx)
    | .fail r => failed r
    | .fault va cause lvl w e =>
      let s ← get
      let (r, s) :=
        if src = (ownEid s).toNat then
          let (ring, tag) := ringTag (some task) s
          raiseFault (some task) ring tag ⟨va, w, 6, 0⟩ cause lvl e [] s
        else remoteFault src task tag va cause lvl w e s
      set s
      failed r

/-- Send a TASK_ACK (Table Fab-4). -/
def sendTaskAck (dst task tag kind : Nat) (r : Result) (s : State) : State :=
  sendMsg dst 0x12 task tag [(32, 1, r.status.toNat), (33, 3, r.detail.toNat), (36, 4, r.work.toNat), (40, 4, r.dropped.toNat),
    (44, 1, kind)] [] s

/-! ### Completion records (R28, R33, R50, R58, Table Cmd-19) -/

/-- The 32 bytes of a completion record. -/
def completionBytes (tag : BitVec 32) (r : Result) (t : Word) : Bytes :=
  withCrc (leBytes 4 tag.toNat ++ [r.status] ++ leBytes 3 r.detail.toNat ++ leBytes 4 r.dropped.toNat ++
    leBytes 4 r.work.toNat ++ leBytes 8 t.toNat ++ [0, 0, 0, 0])

/-- Write through a ring's held translations; false where its memory no longer answers. -/
def ringWrite (n va : Nat) (b : Bytes) (s : State) : Bool × State :=
  match storePieces (ringXlats s n) 4 va b.length with
  | none => (false, s)
  | some ps =>
    if !ps.all (pieceUp s) then (false, s)
    else match (writePieces ps b).go none s with
      | (.ok _, s) => (true, s)
      | (.error _, s) => (false, s)

/-- Raise a ring's interrupt for a completion where the packet or the coalescing asks for it (Table Cmd-2, Table Cmd-5). -/
def completionIrq (n : Nat) (irq : Bool) (idle : Bool) (s : State) : State :=
  let r := ringGet s n
  let k := r.sinceIrq + 1
  if irq || r.irqCoalesce.toNat ≤ 1 || r.irqCoalesce.toNat ≤ k || idle then
    ringIrq n { s with cmd := { s.cmd with rings := smapSet s.cmd.rings n { r with sinceIrq := 0 } } }
  else { s with cmd := { s.cmd with rings := smapSet s.cmd.rings n { r with sinceIrq := k } } }

/-- Write one completion record on a ring, its cq_wb copy, and its interrupt. -/
def writeRecord (n : Nat) (tag : BitVec 32) (irq idle : Bool) (res : Result) (s : State) : State :=
  let r := ringGet s n
  if r.discard then s
  else match ringWrite n (cqSlot r r.cqTail) (completionBytes tag res (now s)) s with
    | (false, s) => s
    | (true, s) =>
      let r := { r with cqTail := r.cqTail + 1, completions := satAdd r.completions 1 }
      let s := ringSet n r s
      let s := if r.cqWb = 0 || n = 0 then s
               else (ringWrite n r.cqWb.toNat (leBytes 4 r.sqHead.toNat ++ leBytes 4 r.cqTail.toNat) s).2
      completionIrq n irq idle s

/-- Whether a record is written at all (R58). -/
def wantsRecord (t : Task) (r : Result) : Bool := !(pQuiet t.pkt && r.status == stOk)

/-- Remove a task that has completed. -/
def dropTask (id : Nat) (s : State) : State := { s with cmd := { s.cmd with tasks := s.cmd.tasks.filter (fun t => t.id != id) } }

/-- A write that waits for a back-invalidate response. -/
def writesHeld (s : State) : Bool := s.host.backInv.any (fun b => !b.write.isEmpty)

/-- The lines of device memory that a ring's next completion record lies in. -/
def recordLines (n : Nat) (s : State) : List Nat :=
  pieceLines ((storePieces (ringXlats s n) 4 (cqSlot (ringGet s n) (ringGet s n).cqTail) 32).getD [])

/-- The words of a program image. -/
def imageWords (n : Nat) (b : Bytes) : List (BitVec 32) := (unpackCodes 32 n b).map (BitVec.ofNat 32)

/-- What takes effect at the completion itself: a program slot counts as loaded from there on (R223). -/
def atCompletion (t : Task) (r : Result) (s : State) : State :=
  if t.op = 0x33 ∧ statusDone r.status ∧ pf t.pkt 10 1 = 0 then
    { s with tab := { s.tab with
        progs := smapSet s.tab.progs (pf t.pkt 8 2) (imageWords (pf t.pkt 20 2) t.block) } }
  else s

/-- Complete a task that has ended: its record, if one is due and a slot is free. Where the host holds the record's line, the line is
asked for, and the record, its cq_wb copy and its interrupt wait until it is back (R33, R374, R391, log entry 93). -/
def completeTask (id : Nat) (s : State) : State :=
  match taskOf s id with
  | none => s
  | some t =>
    match t.phase with
    | .done r =>
      if t.origin.isSome || writesHeld s then s
      else if !wantsRecord t r || (ringGet s t.ring).discard then dropTask id (atCompletion t r s)
      else if cqFull (ringGet s t.ring) then s
      else match claimLines (recordLines t.ring s) s with
        | (false, s) => s
        | (true, s) =>
          let idle := !sqWaiting (ringGet s t.ring) && (ringTasks s t.ring).length == 1
          dropTask id (writeRecord t.ring t.pkt.tag (pIrq t.pkt) idle r (atCompletion t r s))
    | _ => s

end Sys2Proof.Machine
end

