-- ==== Sys2Proof/Machine/Gauge.lean ====
section
/-! DEFINITION. The Sollith Gauge: energy, work, its log, its readouts and its test port (R445 to R458). -/

namespace Sys2Proof.Machine

def onGauge (f : GaugeState → GaugeState) (s : State) : State := { s with gauge := f s.gauge }

/-! ### The event log (R456) -/

/-- A log entry (Table Gauge-3). -/
def logEntry (t : Word) (code detail n : Nat) : BitVec 128 :=
  BitVec.ofNat 128 (t.toNat + code % 256 * 2 ^ 64 + detail % 2 ^ 24 * 2 ^ 72 + n % 2 ^ 32 * 2 ^ 96)

/-- Island time in FTIME format. -/
def islandTime (g : GaugeState) : Word := bits g.island 32 64

def gaugeLog (code detail : Nat) (s : State) : State :=
  onGauge (fun g =>
    let l := g.log ++ [logEntry (islandTime g) code detail g.logCount.toNat]
    { g with log := l.drop (l.length - 128), logCount := g.logCount + 1 }) s

/-- A 64-bit counter takes an addition; the first saturation is logged with its field (R445, R447, Table Gauge-3). -/
def gaugeAdd (field : Nat) (get : GaugeState → Word) (put : GaugeState → Word → GaugeState) (k : Nat) (s : State) : State :=
  let old := get s.gauge
  let s1 := onGauge (fun g => put g (satAdd old k)) s
  if satHits old k then
    let s2 := onGauge (fun g => { g with satFlag := true }) s1
    if old = BitVec.allOnes 64 then s2 else gaugeLog 0x0D field s2
  else s1

/-- Rows gathered, bytes moved and records updated (R447). -/
def gaugeRows (k : Nat) (s : State) : State := gaugeAdd 4 (·.rows) (fun g x => { g with rows := x }) k s
def gaugeBytes (k : Nat) (s : State) : State := gaugeAdd 5 (·.bytes) (fun g x => { g with bytes := x }) k s
def gaugeRecords (k : Nat) (s : State) : State := gaugeAdd 6 (·.records) (fun g x => { g with records := x }) k s

/-! ### Energy (R445, R453) -/

/-- The HBM channel's share: the fraction of granted beats; where none was granted the spec gives no fraction. -/
def hbmShare (eHbmRail engineBeats allBeats : Nat) (s : State) : Nat × State :=
  if allBeats = 0 then
    let (d, s) := draw s
    ((Config.freeWord d).toNat % (eHbmRail + 1), s)
  else (eHbmRail * engineBeats / allBeats, s)

/-- Power in units of 1/64 W of an energy in µJ over 10 µs. -/
def intervalPower (e : Nat) : BitVec 16 := BitVec.ofNat 16 (min (e * 64 / 10) 65535)

/-- Ten microseconds more in a millisecond counter, with what stands below a millisecond. -/
def tenMicros (ms : BitVec 32) (us : Nat) : BitVec 32 × Nat :=
  if 1000 ≤ us + 10 then (ms + 1, us + 10 - 1000) else (ms, us + 10)

/-- An event of a Gauge detector: whether an injection of the engine or of the test port forces it. -/
def gaugeInjected (det : Nat) (s : State) : Bool × State :=
  let (b, s) := injectAt det 0 s
  if s.gauge.portInj = some (BitVec.ofNat 8 det) then (true, onGauge (fun g => { g with portInj := none }) s) else (b, s)

/-- The M-die path's report of the interval that ends: its energy, and the gap it leaves otherwise. -/
def mdieStep (s : State) : Nat × State :=
  let (inj, s) := gaugeInjected 0x1E s
  match (if inj then none else s.gauge.report) with
  | some e =>
    let s := if s.gauge.mdieAbsent then gaugeLog 0x07 0 s else s
    (e, onGauge (fun g => { g with report := none, mdieAbsent := false }) s)
  | none =>
    let s := if s.gauge.mdieAbsent then s
             else gaugeLog 0x06 0 (logErr { det := 0x1E, sev := 0, injected := inj } s)
    (0, onGauge (fun g =>
      let (ms, us) := tenMicros g.gapMs g.gapUs
      { g with report := none, mdieAbsent := true, gapMs := ms, gapUs := us }) s)

/-- GAUGE_INTERVAL: 10 µs of island time end. -/
def gaugeInterval (eCore eHbmRail engineBeats allBeats : Nat) (s : State) : State :=
  let (eHbm, s) := hbmShare eHbmRail engineBeats allBeats s
  let (eMdie, s) := mdieStep s
  let before := s.gauge.eTotal.toNat / 10000
  let s := gaugeAdd 1 (·.eCore) (fun g x => { g with eCore := x }) eCore s
  let s := gaugeAdd 2 (·.eHbm) (fun g x => { g with eHbm := x }) eHbm s
  let s := gaugeAdd 3 (·.eMdie) (fun g x => { g with eMdie := x }) eMdie s
  let s := gaugeAdd 0 (·.eTotal) (fun g x => { g with eTotal := x }) (eCore + eHbm + eMdie) s
  onGauge (fun g =>
    let (cm, cu) := if g.inCoast then tenMicros g.coastMs g.coastUs else (g.coastMs, g.coastUs)
    let (um, uu) := if g.supervision then tenMicros g.unsupMs g.unsupUs else (g.unsupMs, g.unsupUs)
    { g with
      pCore := intervalPower eCore
      pHbm := intervalPower eHbm
      pMdie := intervalPower eMdie
      pTotal := intervalPower (eCore + eHbm + eMdie)
      pulses := g.pulses + (g.eTotal.toNat / 10000 - before)
      coastMs := cm
      coastUs := cu
      unsupMs := um
      unsupUs := uu }) s

def execGaugeInterval (eCore eHbmRail engineBeats allBeats : Nat) (s : State) : Host.Outcome State Fault Refusal :=
  leaves s (gaugeInterval eCore eHbmRail engineBeats allBeats s)

/-- GAUGE_MDIE_REPORT: the M-die's sense point reports the engine's share for the present interval. -/
def execGaugeMdieReport (energy : Nat) (s : State) : Host.Outcome State Fault Refusal :=
  leaves s (onGauge (fun g => { g with report := some energy }) s)

/-! ### Supervision (R449) -/

/-- CLK_TIME edges expected in a comparison window, times four. -/
def expectedEdges4 (s : State) : Nat := if s.clk.src = .pllCrystal then 17 * s.fuses.rcoCal.toNat else 4 * 2 ^ 20

/-- GAUGE_SUPERVISION_WINDOW: the island judges the CLK_TIME edges of a window against the RCO. -/
def gaugeSupervision (edges : Nat) (s : State) : State :=
  let (inj, s) := gaugeInjected 0x1C s
  let expect := expectedEdges4 s
  let dev : Int := (4 * edges : Int) - expect
  if decide (2000 * expect < dev.natAbs * 1000000) || inj then
    if s.gauge.supervision then s
    else
      let ppm := dev * 1000000 / expect
      gaugeLog 0x02 (ppm % 2 ^ 24).toNat
        (logErr { det := 0x1C, sev := 0, injected := inj } (onGauge (fun g => { g with supervision := true }) s))
  else if s.gauge.supervision then gaugeLog 0x03 0 (onGauge (fun g => { g with supervision := false }) s)
  else s

def execGaugeSupervisionWindow (edges : Nat) (s : State) : Host.Outcome State Fault Refusal := leaves s (gaugeSupervision edges s)

/-- The engine enters coast or RCO direct, or returns to the crystal (R449). -/
def gaugeCoast (on : Bool) (s : State) : State :=
  if on = s.gauge.inCoast then s
  else
    let s := onGauge (fun g => { g with inCoast := on }) s
    if on then gaugeLog 0x04 s.clk.st.toNat s else gaugeLog 0x05 0 s

/-! ### Epochs (R450) -/

/-- GAUGE_POWER_UP: the sub-island powers up and a new epoch starts; `calFail` is the fuse word whose self-check fails. -/
def gaugePowerUp (calFail : Option Nat) (s : State) : State :=
  let (inj, s) := gaugeInjected 0x1D s
  let spent := decide (4096 ≤ s.fuses.epochBits)
  let e := min (s.fuses.epochBits + 1) 4096
  let bad := calFail.isSome || inj
  let g := { GaugeState.firstEpoch with epoch := e, log := [], logCount := 0, epochsSpent := spent, calFail := bad,
                                        inCoast := s.clk.coast, queue := s.gauge.queue }
  let s := gaugeLog 0x01 e { s with gauge := g, fuses := { s.fuses with epochBits := e } }
  if bad then gaugeLog 0x08 (calFail.getD 0) (logErr { det := 0x1D, sev := 0, injected := inj } s) else s

def execGaugePowerUp (calFail : Option Nat) (s : State) : Host.Outcome State Fault Refusal := burnt s (gaugePowerUp calFail s)

/-! ### Readouts (R452 to R455) -/

/-- Bytes 0 to 63 of every readout. -/
def readoutHead (r : Readout) (s : State) : Bytes :=
  fields 64 [(0, 4, 0x474C4F53), (4, 1, r.kind.toNat), (5, 1, if s.fuses.sealed then 1 else 0), (6, 2, 1),
    (8, 8, s.fuses.gaugeSerial.toNat), (16, 2, (ownEid s).toNat), (18, 2, s.gauge.epoch), (20, 4, s.fuses.gaugeFw.toNat),
    (24, 4, s.fuses.calId.toNat), (28, 4, s.gauge.seq.toNat), (32, 8, (now s).toNat), (40, 8, (islandTime s.gauge).toNat),
    (48, 16, r.nonce.toNat)]

def readoutFlags (g : GaugeState) : Nat :=
  (if g.satFlag then 1 else 0) + (if g.epochsSpent then 2 else 0) + (if g.calFail then 4 else 0) +
  (if g.supervision then 8 else 0) + (if g.mdieAbsent then 16 else 0)

/-- Bytes 64 to 191 of a readout of type 0x00 (Table Gauge-2). -/
def readoutBody (g : GaugeState) : Bytes :=
  fields 128 [(0, 8, g.eTotal.toNat), (8, 8, g.eCore.toNat), (16, 8, g.eHbm.toNat), (24, 8, g.eMdie.toNat), (32, 8, g.rows.toNat),
    (40, 8, g.bytes.toNat), (48, 8, g.records.toNat), (56, 4, g.coastMs.toNat), (60, 4, g.unsupMs.toNat), (64, 4, g.gapMs.toNat),
    (68, 4, g.logCount.toNat), (72, 4, readoutFlags g)]

/-- Sign a block with a fresh secret number (R455). -/
def signBlock (b : Bytes) (s : State) : Bytes × State :=
  let (d, s) := draw s
  let (r, t) := ecdsaSign s.fuses.gaugeKey (Config.signNonce d % (p256N - 1) + 1) (sha256 b)
  (b ++ beBytes 32 r ++ beBytes 32 t, s)

/-- The block of a readout. -/
def readoutBlock (r : Readout) (s : State) : Bytes × State :=
  let h := readoutHead r s
  if r.kind = 0 then signBlock (h ++ readoutBody s.gauge) s
  else if r.kind = 1 then
    let l := (s.gauge.log.map (fun e => leBytes 16 e.toNat)).flatten
    signBlock (h ++ padTo 2048 l) s
  else (h ++ beBytes 32 s.fuses.gaugePubX ++ beBytes 32 s.fuses.gaugePubY, s)

/-- Bytes a readout writes. -/
def readoutLen (kind : Nat) : Nat := if kind = 0 then 256 else if kind = 1 then 2176 else 128

/-- GAUGE_SIGN: the next queued readout is captured, signed and written. -/
def gaugeSign (s : State) : State :=
  match s.gauge.queue with
  | [] => s
  | r :: rest =>
    let (b, s1) := readoutBlock r (onGauge (fun g => { g with queue := rest, seq := g.seq + 1 }) s)
    match r.task.bind (taskOf s) with
    | some t =>
      match (do writeVa (pf t.pkt 16 8) b; modify (finishOk t.id b.length) : Act Unit).go (some t.id) s1 with
      | (.ok _, s2) => s2
      | (.error (.mig va w), _) => waitMig (some t.id) va w s
      | (.error x, s2) => stopTask t.id x s2
    | none => if r.task.isSome then s1 else onGauge (fun g => { g with portOut := b }) s1

def execGaugeSign (s : State) : Host.Outcome State Fault Refusal := leaves s (gaugeSign s)

/-! ### GAUGE_READ -/

def gaugeReadStep4 (_ : Byte) (p : Packet) : Checks :=
  [bad (3 ≤ pf p 8 1) 2 8, highAddr p 16, misaligned p 16 64]

/-- Every destination page, then a place in the queue. -/
def gaugeReadCheck (t : Task) : Act Unit := do
  translateNeeds t.ring t.pkt.tag.toNat (rangeNeeds (pf t.pkt 16 8) (readoutLen (pf t.pkt 8 1)) true 8 0)
  if 16 ≤ (← get).gauge.queue.length then stop (.fail (rBusy 1))

/-- Queue the request. -/
def startGaugeRead (t : Task) (s : State) : State :=
  setWork t.id .gauge (onGauge (fun g => { g with
    queue := g.queue ++ [⟨BitVec.ofNat 8 (pf t.pkt 8 1), BitVec.ofNat 128 (pf t.pkt 24 16), some t.id⟩] }) s)

def execGaugeRead (ring : Nat) (p : Packet) (s : State) : Host.Outcome State Fault Refusal :=
  leaves s (acceptPacket 0x72 gaugeReadStep4 (beginTask gaugeReadCheck startGaugeRead) ring p s)

/-! ### The metrology test port (R451, R457) -/

/-- METROLOGY_READ: a tester asks for a readout, which joins the island's queue. -/
def execMetrologyRead (kind : Byte) (nonce : BitVec 128) (s : State) : Host.Outcome State Fault Refusal :=
  leaves s (if 3 ≤ kind.toNat || 16 ≤ s.gauge.queue.length then s
         else onGauge (fun g => { g with queue := g.queue ++ [⟨kind, nonce, none⟩] }) s)

/-- METROLOGY_INJECT: a Gauge detector is injected at its next event, and logged. -/
def execMetrologyInject (detector : Byte) (s : State) : Host.Outcome State Fault Refusal :=
  leaves s (if detector = 0x1C ∨ detector = 0x1D ∨ detector = 0x1E then
           gaugeLog 0x0C detector.toNat (onGauge (fun g => { g with portInj := some detector }) s)
         else s)

/-- METROLOGY_CAL_WRITE: a calibration write, refused and logged once the seal is blown. -/
def execMetrologyCalWrite (word : Nat) (value : BitVec 32) (s : State) : Host.Outcome State Fault Refusal :=
  burnt s (if s.fuses.sealed then gaugeLog 0x0B word s
         else { s with fuses := { s.fuses with cal := smapSet s.fuses.cal word value } })

/-- METROLOGY_SESSION_OPEN: MEN goes high; detail bit 0 says that a calibration write was attempted. -/
def execMetrologySessionOpen (calWrite : Bool) (s : State) : Host.Outcome State Fault Refusal :=
  leaves s (gaugeLog 0x0A (if calWrite then 1 else 0) s)

/-- SEAL_BLOW: the seal fuse is blown at final test. -/
def execSealBlow (s : State) : Host.Outcome State Fault Refusal :=
  burnt s (if s.fuses.sealed then s else gaugeLog 0x09 0 { s with fuses := { s.fuses with sealed := true } })

end Sys2Proof.Machine
end

