-- ==== Sys2Proof/Machine/Clock.lean ====
section
/-! DEFINITION. Clock sources, the ramp, coast (R420 to R431), the edges of CLK_TIME (R433, R449) and the
election of a grandmaster (R437), which entering and leaving coast run again. -/

namespace Sys2Proof.Machine

def onClk (f : ClkState → ClkState) (s : State) : State := { s with clk := f s.clk }

/-! ### CLK_TIME edges -/

/-- The nominal frequency of CLK_TIME (R433). -/
def timeHz (s : State) : Nat := if s.clk.src = .pllCrystal then 212500000 else 50000000

/-- The rate trim as a signed number. -/
def trimInt (x : BitVec 24) : Int := x.toInt

/-- What one edge adds to FTIME, in units of 2^−64 s. -/
def edgeStep (s : State) : Nat := (2 ^ 64 * ((2 ^ 29 : Int) + trimInt s.time.trim).toNat) / (timeHz s * 2 ^ 29)

/-- What one edge adds to island time: the nominal period; under a supervision fault the RCO decides, which one edge does
not tell. -/
def islandStep (s : State) : Nat × State :=
  if s.gauge.supervision then
    let (d, s) := draw s
    ((Config.freeWord d).toNat, s)
  else (2 ^ 64 / timeHz s, s)

/-- One edge of CLK_TIME: FTIME and island time advance. -/
def clockEdge (s : State) : State :=
  let k := edgeStep s
  let (g, s) := islandStep s
  { s with
    time := { s.time with ftime := s.time.ftime + BitVec.ofNat 96 k, elapsed := s.time.elapsed + BitVec.ofNat 96 k }
    gauge := { s.gauge with island := s.gauge.island + BitVec.ofNat 96 g } }

/-! ### Time lock -/

/-- Time lock clears; a pulse in progress ends (R444). -/
def loseLock (s : State) : State := { s with time := { s.time with lock := false, good := 0, bad := 0, ppsOut := false } }

/-- The servo acquires again (R439). -/
def acquire (s : State) : State := { s with time := { s.time with acquire := some [], lastSync := none, lastPair := none } }

/-- A change of clock source: lock clears, and the servo acquires again (R429, R439, R440). -/
def sourceChanged (s : State) : State := acquire (loseLock s)

def onTime (f : TimeState → TimeState) (s : State) : State := { s with time := f s.time }

def gmPrioOf (s : State) : Nat := bitsNat s.regs.ftimeCtl 0 8

/-! ### Election (R437) -/

/-- Whether the engine knows itself as a grandmaster. -/
def ownCandidate (s : State) : Bool := decide (gmPrioOf s < 255) && !s.clk.coast

/-- The better of two grandmasters, by priority and then EID. -/
def betterGm (a b : Nat × Nat) : Bool := decide (a.1 < b.1) || (a.1 == b.1 && decide (a.2 < b.2))

/-- The best (priority, EID) of a list. -/
def bestGm : List (Nat × Nat) → Option (Nat × Nat)
  | [] => none
  | x :: t => match bestGm t with
    | none => some x
    | some y => if betterGm y x then some y else some x

/-- Take the announcement of fewest steps, and then of the lowest EID. -/
def bestParent : List Announce → Option Announce
  | [] => none
  | x :: t => match bestParent t with
    | none => some x
    | some y => if decide (y.steps < x.steps) || (y.steps == x.steps && decide (y.src < x.src)) then some y else some x

/-- Enter holdover: trim is frozen, and the engine has no parent until it chooses one (R441). -/
def enterHoldover (s : State) : State :=
  onTime (fun t => { t with parent := none, holdover := true, holdSince := some (tick s), acquire := none, lastSync := none }) s

/-- Choose the best grandmaster known and the parent. -/
def elect (s : State) : State :=
  let anns := s.time.announces.filter (fun a => decide (a.prio < 255))
  let own : List (Nat × Nat) := if ownCandidate s then [(gmPrioOf s, (ownEid s).toNat)] else []
  match bestGm (own ++ anns.map (fun a => (a.prio, a.gm))) with
  | none =>
    let s := if s.time.parent.isSome then enterHoldover s else s
    onTime (fun t => { t with parent := none, gmEid := 0, gmPrio := 0xFF, steps := 0 }) s
  | some (prio, gm) =>
    if gm = (ownEid s).toNat && ownCandidate s then
      onTime (fun t => { t with parent := none, gmEid := gm, gmPrio := gmPrioOf s, steps := 0, holdover := false, holdSince := none,
                                acquire := none, lastSync := none }) s
    else match bestParent (anns.filter (fun a => a.gm == gm && a.prio == prio)) with
      | none => s
      | some a =>
        let s1 := onTime (fun t => { t with gmEid := gm, gmPrio := prio, steps := a.steps + 1 }) s
        if s.time.parent = some a.src then s1
        else
          let s2 := acquire s1
          onTime (fun t => { t with parent := some a.src, holdover := false, holdSince := none, delays := [], delayReq := none,
                                    syncCount := 0, syncAt := tick s }) s2

/-! ### Coast -/

/-- The crystal fails (R423, R428): coast entry, from the point reached; an engine in coast is no candidate (R437). -/
def crystalFail (det : Nat) (inj : Bool) (s : State) : State :=
  let c := s.clk
  if s.boot.inReset then s
  else if c.coast && c.st != 6 && c.locking != some true then onClk (fun c => { c with passes := 0, lastPass := false }) s
  else
    let s := logErr { det := det, sev := 1, injected := inj } s
    let s := onClk (fun c => { c with coast := true, xtalFail := true, coasts := satAdd c.coasts 1, passes := 0,
                                      lastPass := false, st := 3, pllLock := false }) s
    let s := if c.src = .rco then onClk (fun c => { c with ramp := .none, locking := some false }) s
             else onClk (fun c => { c with ramp := .up, locking := none }) s
    elect (gaugeCoast true (loseLock s))

/-- XTAL_SETTLE_END: the first comparison window starts. -/
def execXtalSettleEnd (s : State) : Host.Outcome State Fault Refusal :=
  leaves s (if s.clk.st = 1 && !s.boot.inReset then onClk (fun c => { c with st := 2, tol := bitsNat s.regs.clkCtl 0 12 }) s else s)

/-- Whether a window's count lies within the tolerance (R422). -/
def windowPasses (count tol : Nat) (s : State) : Bool :=
  let cal := s.fuses.rcoCal.toNat
  decide (((count : Int) - cal).natAbs * 1000000 ≤ tol * cal)

/-- A continuous window ends: pass. -/
def windowPass (s : State) : State :=
  let s := onClk (fun c => { c with lastPass := true, passes := c.passes + 1 }) s
  if s.clk.st = 2 && s.clk.locking.isNone then onClk (fun c => { c with locking := some true, passes := 0 }) s
  else if s.clk.st = 5 && s.regs.clkCtl.getLsbD 28 && decide (8 ≤ s.clk.passes) then
    onClk (fun c => { c with st := 6, ramp := .up, passes := 0 }) s
  else s

/-- CLOCK_WINDOW_END: a comparison window ends and its count is judged. -/
def clockWindowEnd (count : Nat) (test : Bool) (s : State) : State :=
  if test then
    if !s.clk.testBusy then s
    else
      let (inj, s) := injectAt 0x15 0 s
      onClk (fun c => { c with testBusy := false, testFail := !(windowPasses count c.testTol s) || inj, lastCount := BitVec.ofNat 32 count }) s
  else if s.clk.st = 1 then s
  else
    let (inj, s) := injectAt 0x15 0 s
    let ok := windowPasses count s.clk.tol s && !inj
    let s := onClk (fun c => { c with lastCount := BitVec.ofNat 32 count, tol := bitsNat s.regs.clkCtl 0 12 }) s
    if ok then windowPass s else crystalFail 0x15 inj s

def execClockWindowEnd (count : Nat) (test : Bool) (s : State) : Host.Outcome State Fault Refusal :=
  leaves s (clockWindowEnd count test s)

/-- XTAL_EDGE_LOSS: 64 RCO cycles passed with no crystal edge. -/
def execXtalEdgeLoss (s : State) : Host.Outcome State Fault Refusal := leaves s (crystalFail 0x15 false s)

/-! ### The PLL (R427, R428, R430, R431) -/

/-- The clocks run on the crystal, or coast: start-up goes on to the boot self-test (Table Boot-3). -/
def clocksRun (s : State) : State := if s.boot.phase = 1 then { s with boot := { s.boot with phase := 2 } } else s

/-- A lock attempt fails: the crystal fails, or the engine stays in RCO direct. -/
def lockFails (inj : Bool) (s : State) : State :=
  match s.clk.locking with
  | none => s
  | some true => crystalFail (if inj then 0x16 else 0x15) inj s
  | some false => logErr { det := 0x16, sev := 1, injected := inj } (clocksRun (onClk (fun c => { c with locking := none, st := 7 }) s))

/-- PLL_LOCK: at one common edge the domains move to root ÷64, and TIME to root ÷32. -/
def pllLock (s : State) : State :=
  match s.clk.locking with
  | none => s
  | some x =>
    let (inj, s) := injectAt 0x16 0 s
    if inj then lockFails true s
    else
      sourceChanged (onClk (fun c => { c with
        src := if x then .pllCrystal else .pllRco
        pllLock := true
        locking := none
        ramp := .down
        divA := 64
        divF := 64
        divC := 64
        st := if x && c.coast then 6 else 3 }) s)

def execPllLock (s : State) : Host.Outcome State Fault Refusal := leaves s (pllLock s)

/-- PLL_LOCK_LOSS: the PLL loses lock on the crystal. -/
def execPllLockLoss (s : State) : Host.Outcome State Fault Refusal :=
  leaves s (if s.clk.src = .pllCrystal && s.clk.pllLock then crystalFail 0x15 false s else s)

/-- PLL_LOCK_TIMEOUT: 200 µs passed without a lock. -/
def execPllLockTimeout (s : State) : Host.Outcome State Fault Refusal :=
  leaves s (if s.clk.locking.isNone then s
         else let (inj, s) := injectAt 0x16 0 s; lockFails inj s)

/-- RCO_DIRECT_RETRY: a lock to the crystal is tried if the last window passed, or else to the RCO. -/
def execRcoDirectRetry (s : State) : Host.Outcome State Fault Refusal :=
  leaves s (if s.clk.st = 7 && s.clk.locking.isNone then onClk (fun c => { c with locking := some c.lastPass }) s else s)

/-! ### The ramp (R426) -/

/-- A divider one step nearer its target. -/
def stepDown (d target : Nat) : Nat := if target < d then d - 1 else d

/-- All dividers at ÷64: the domains move to the RCO ÷1, and the PLL retargets. -/
def ontoRco (s : State) : State :=
  sourceChanged (onClk (fun c => { c with src := .rco, ramp := .none, divA := 1, divF := 1, divC := 1, pllLock := false,
                                          locking := some (c.st == 6) }) s)

/-- All dividers at their targets: run, coast, or the end of a return. -/
def atTarget (s : State) : State :=
  let s := clocksRun (onClk (fun c => { c with ramp := .none }) s)
  if s.clk.src = .pllCrystal then
    if s.clk.coast then
      elect (gaugeCoast false (loseLock (onClk (fun c => { c with st := 4, coast := false, returned := true }) s)))
    else gaugeCoast false (onClk (fun c => { c with st := 4 }) s)
  else onClk (fun c => { c with st := 5 }) s

/-- CLOCK_RAMP_STEP: a RAMP_INTERVAL ends and each divider takes one step. -/
def clockRampStep (s : State) : State :=
  match s.clk.ramp with
  | .none => s
  | .up =>
    let s := onClk (fun c => { c with divA := min 64 (c.divA + 1), divF := min 64 (c.divF + 1), divC := min 64 (c.divC + 1) }) s
    if s.clk.divA = 64 && s.clk.divF = 64 && s.clk.divC = 64 then ontoRco s else s
  | .down =>
    let s := onClk (fun c => { c with divA := stepDown c.divA 4, divF := stepDown c.divF 5, divC := stepDown c.divC 8 }) s
    if s.clk.divA = 4 && s.clk.divF = 5 && s.clk.divC = 8 then atTarget s else s

def execClockRampStep (s : State) : Host.Outcome State Fault Refusal := leaves s (clockRampStep s)

/-- CLK_TEST: a write of start runs one extra window; one made while a test runs is discarded. -/
def clkTest (value : Word) (s : State) : State :=
  if value.getLsbD 0 && !s.clk.testBusy then onClk (fun c => { c with testBusy := true, testTol := bitsNat s.regs.clkCtl 0 12 }) s
  else s

def execClkTest (value : Word) (s : State) : Host.Outcome State Fault Refusal := leaves s (guardWrite 0x1010 (clkTest value) s)

end Sys2Proof.Machine
end

