-- ==== Sys2Proof/Machine/Prog.lean ====
section
/-! DEFINITION. Update microprograms: encoding and validation (R213 to R217, R226), the machine they run on (R208 to R212,
R218 to R220), and the built-in programs (R230). -/

namespace Sys2Proof.Machine

/-- A program's words. -/
abbrev Program := List (BitVec 32)

def iOp (i : BitVec 32) : Nat := bitsNat i 26 6
def iD (i : BitVec 32) : Nat := bitsNat i 21 5
def iA (i : BitVec 32) : Nat := bitsNat i 16 5
def iB (i : BitVec 32) : Nat := bitsNat i 11 5
def iC (i : BitVec 32) : Nat := bitsNat i 6 5

/-- An instruction word (Table Prog-2). -/
def iWord (op d a b c : Nat) : BitVec 32 := BitVec.ofNat 32 (op * 2 ^ 26 + d * 2 ^ 21 + a * 2 ^ 16 + b * 2 ^ 11 + c * 2 ^ 6)

/-- Operand codes (Table Prog-3). -/
def isV (c : Nat) : Bool := decide (c < 8)
def isS (c : Nat) : Bool := decide (8 ≤ c) && decide (c < 16)
def isK (c : Nat) : Bool := decide (16 ≤ c)

/-! ### Validation (R226, Table Prog-9) -/

/-- The fields (d, a, b, c) that an opcode uses; none for a reserved opcode (Table Prog-4). -/
def opFields (op : Nat) : Option (Bool × Bool × Bool × Bool) :=
  if op = 0x04 ∨ op = 0x05 ∨ op = 0x0A then some (true, true, true, true)
  else if (1 ≤ op ∧ op ≤ 7) ∨ op = 0x0B then some (true, true, true, false)
  else if op = 0x08 ∨ op = 0x09 ∨ op = 0x0C ∨ (0x10 ≤ op ∧ op ≤ 0x14) ∨ op = 0x18 ∨ op = 0x19 ∨ (0x20 ≤ op ∧ op ≤ 0x22) then
    some (true, true, false, false)
  else if op = 0x23 then some (false, true, false, false)
  else if op = 0x30 then some (false, false, false, false)
  else none

def opUnusedZero (i : BitVec 32) : Bool :=
  match opFields (iOp i) with
  | none => true
  | some (d, a, b, c) =>
    bitsNat i 0 6 == 0 && (d || iD i == 0) && (a || iA i == 0) && (b || iB i == 0) && (c || iC i == 0)

/-- Whether an instruction is an arithmetic or move operation on register sources. -/
def opOnRegs (op : Nat) : Bool := decide (1 ≤ op ∧ op ≤ 0x14)

/-- Whether a source of such an operation is a V register. -/
def opVector (i : BitVec 32) : Bool :=
  match opFields (iOp i) with
  | none => false
  | some (_, a, b, c) => (a && isV (iA i)) || (b && isV (iB i)) || (c && isV (iC i))

/-- Whether an instruction is an LD or ST of a slot stream (2 or 3) in a V, or not in a V, register. -/
def slotUse (stream : Nat) (vec : Bool) (i : BitVec 32) : Bool :=
  (iOp i == 0x21 || iOp i == 0x22) && iA i == stream && isV (iD i) == vec

def usesVec (stream : Nat) (p : Program) : Bool := p.any (slotUse stream true)
def usesScalar (stream : Nat) (p : Program) : Bool := p.any (slotUse stream false)

/-- The reason the instruction at an index fails, if it does. -/
def instrReason (p : Program) (k : Nat) (i : BitVec 32) : Option Nat :=
  let op := iOp i
  let beforeSync := match p.findIdx? (fun x => iOp x == 0x30) with | some j => decide (k < j) | none => false
  let before := p.take k
  if (opFields op).isNone then some 2
  else if !opUnusedZero i then some 1
  else if op == 0x20 && decide (8 < iA i) then some 2
  else if (op == 0x21 || op == 0x22) && decide (3 < iA i) then some 2
  else if ((opFields op).map (·.1)).getD false && isK (iD i) then some 3
  else if opOnRegs op && opVector i && !isV (iD i) then some 3
  else if (op == 0x18 || op == 0x19) && !isS (iD i) then some 3
  else if op == 0x21 && decide (iA i < 2) && !isV (iD i) then some 3
  else if op == 0x22 && ((iA i == 1 && !isV (iD i)) || iA i == 0) then some 3
  else if op == 0x23 && isV (iA i) then some 3
  else if (op == 0x21 || op == 0x22) && decide (2 ≤ iA i) && before.any (slotUse (iA i) (!isV (iD i))) then some 3
  else if op == 0x30 && (decide (k = 0) || decide (k + 1 = p.length) || before.any (fun x => iOp x == 0x30)) then some 3
  else if beforeSync && ((op == 0x21 && (iA i == 1 || (decide (2 ≤ iA i) && isV (iD i)))) || op == 0x22 || op == 0x23) then some 3
  else none

/-- The first failing instruction: its index and reason. -/
def progFails (p : Program) : Option (Nat × Nat) :=
  p.zipIdx.findSome? (fun x => (instrReason p x.2 x.1).map (fun r => (x.2, r)))

/-- Whether a program fits a table's slot modes (R222). -/
def progFits (stateA stateB : Nat) (p : Program) : Bool :=
  (!usesVec 2 p || stateA == 2) && (!usesScalar 2 p || stateA == 1) &&
  (!usesVec 3 p || stateB == 2) && (!usesScalar 3 p || stateB == 1)

/-! ### Running a row -/

/-- What a program reads: gradient, master, slots, constants, parameters and width. -/
structure RowIn where
  g : List F32
  m : List F32
  a : List F32
  b : List F32
  k : List F32
  p : List F32
  w : Nat
  deriving Inhabited

/-- Registers, and what the program has stored so far. -/
structure Cell where
  v : List (List F32)
  s : List (F32 × F32)
  m : List F32
  a : List F32
  b : List F32
  user : F32
  deriving Inhabited

def vZero : List (List F32) := List.replicate 8 (List.replicate 32 0)

/-- An S register read as an operand (R220). -/
def sValue (x : F32 × F32) : F32 := if f32IsZero x.2 then x.1 else fadd x.1 x.2

/-- Operand `c` at lane `l`. -/
def operand (r : RowIn) (e : Cell) (c l : Nat) : F32 :=
  if isV c then ((e.v[c]?).getD [])[l]?.getD 0
  else if isS c then sValue ((e.s[c - 8]?).getD (0, 0))
  else (r.k[c - 16]?).getD 0

/-- The value of an arithmetic or move operation on its operands (Table Prog-4). -/
def aluOp (op : Nat) (a b c : F32) : F32 :=
  match op with
  | 0x01 => fadd a b
  | 0x02 => fsub a b
  | 0x03 => fmul a b
  | 0x04 => ffma a b c
  | 0x05 => ffms a b c
  | 0x06 => fmax a b
  | 0x07 => fmin a b
  | 0x08 => f32Abs a
  | 0x09 => f32Neg a
  | 0x0A => if flt 0 c then a else b
  | 0x0B => if flt b a then f32One else 0
  | 0x0C => a
  | 0x10 => frsqrt a
  | 0x11 => freciprocal a
  | 0x12 => fexp2 a
  | 0x13 => flog2 a
  | _ => fsqrt a

/-- Write a register: one value per lane, lane 0 for an S register, whose compensation clears (R220). -/
def setReg (e : Cell) (d : Nat) (f : Nat → F32) : Cell :=
  if isV d then { e with v := e.v.set d ((List.range 32).map f) }
  else { e with s := e.s.set (d - 8) (f 0, 0) }

/-- The values of a stream for strip `j`; masked elements are +0 (R209). -/
def strip (xs : List F32) (j l : Nat) : F32 := (xs[32 * j + l]?).getD 0

/-- Overwrite the valid elements of a strip. -/
def storeStrip (xs : List F32) (j : Nat) (f : Nat → F32) : List F32 :=
  xs.zipIdx.map (fun (x, i) => if i / 32 = j then f (i % 32) else x)

/-- Lanes of strip `j` that are valid. -/
def validLanes (r : RowIn) (j : Nat) : Nat := min 32 (r.w - 32 * j)

/-- One instruction on strip `j`. -/
def runInstr (r : RowIn) (j : Nat) (e : Cell) (i : BitVec 32) : Cell :=
  let op := iOp i
  let d := iD i
  let elems : List F32 := if isV (iA i) then (List.range (validLanes r j)).map (operand r e (iA i)) else [operand r e (iA i) 0]
  match op with
  | 0x18 => { e with s := e.s.set (d - 8) (elems.foldl (fun x y => compStep x.1 x.2 y fadd fsub) ((e.s[d - 8]?).getD (0, 0))) }
  | 0x19 => setReg e d (fun _ => elems.foldl fmax (operand r e d 0))
  | 0x20 => setReg e d (fun _ => (r.p[iA i]?).getD 0)
  | 0x21 =>
    match iA i with
    | 0 => setReg e d (strip r.g j)
    | 1 => setReg e d (strip r.m j)
    | 2 => if isV d then setReg e d (strip r.a j) else setReg e d (fun _ => (r.a.head?).getD 0)
    | _ => if isV d then setReg e d (strip r.b j) else setReg e d (fun _ => (r.b.head?).getD 0)
  | 0x22 =>
    match iA i with
    | 1 => { e with m := storeStrip e.m j (operand r e d) }
    | 2 => { e with a := if isV d then storeStrip e.a j (operand r e d) else [operand r e d 0] }
    | _ => { e with b := if isV d then storeStrip e.b j (operand r e d) else [operand r e d 0] }
  | 0x23 => { e with user := operand r e (iA i) 0 }
  | 0x30 => e
  | _ => setReg e d (fun l => aluOp op (operand r e (iA i) l) (operand r e (iB i) l) (operand r e (iC i) l))

/-- One phase over every strip, in ascending order; V registers start each strip at +0 (R209, R210). -/
def runPhase (r : RowIn) (p : Program) (e : Cell) : Cell :=
  (List.range ((r.w + 31) / 32)).foldl (fun e j => p.foldl (runInstr r j) { e with v := vZero }) e

/-- Run a program over a row (R210). -/
def runProgram (p : Program) (r : RowIn) (user : F32) : Cell :=
  let e : Cell := ⟨vZero, List.replicate 8 (0, 0), r.m, r.a, r.b, user⟩
  match p.findIdx? (fun i => iOp i == 0x30) with
  | none => runPhase r p e
  | some k => runPhase r (p.drop (k + 1)) (runPhase r (p.take k) e)

/-! ### The built-in programs (R230) -/

def kv (n : Nat) : Nat := n
def ks (n : Nat) : Nat := 8 + n
def kk (n : Nat) : Nat := 16 + n

def pLd (d s : Nat) : BitVec 32 := iWord 0x21 d s 0 0
def pSt (s d : Nat) : BitVec 32 := iWord 0x22 d s 0 0
def pGet (d n : Nat) : BitVec 32 := iWord 0x20 d n 0 0

def progSgd : Program :=
  [pLd (kv 0) 0, pLd (kv 1) 1, iWord 4 (kv 0) (kk 0) (kv 1) (kv 0), pGet (ks 0) 1, iWord 5 (kv 1) (ks 0) (kv 0) (kv 1), pSt 1 (kv 1)]

def progMomentum : Program :=
  [pLd (kv 0) 0, pLd (kv 1) 1, pLd (kv 2) 2, iWord 4 (kv 0) (kk 0) (kv 1) (kv 0), iWord 4 (kv 2) (kk 1) (kv 2) (kv 0),
   pGet (ks 0) 1, iWord 5 (kv 1) (ks 0) (kv 2) (kv 1), pSt 2 (kv 2), pSt 1 (kv 1)]

def progAdagrad : Program :=
  [pLd (kv 0) 0, pLd (kv 1) 1, pLd (kv 2) 2, iWord 4 (kv 0) (kk 0) (kv 1) (kv 0), iWord 4 (kv 2) (kv 0) (kv 0) (kv 2),
   iWord 0x14 (kv 3) (kv 2) 0 0, iWord 1 (kv 3) (kv 3) (kk 1) 0, iWord 0x11 (kv 3) (kv 3) 0 0,
   iWord 3 (kv 3) (kv 3) (kv 0) 0, pGet (ks 0) 1, iWord 5 (kv 1) (ks 0) (kv 3) (kv 1), pSt 2 (kv 2), pSt 1 (kv 1)]

def progRowAdagrad : Program :=
  [pLd (kv 0) 0, iWord 3 (kv 1) (kv 0) (kv 0) 0, iWord 0x18 (ks 0) (kv 1) 0 0, iWord 0x30 0 0 0 0,
   pGet (ks 1) 8, iWord 0x11 (ks 1) (ks 1) 0 0, iWord 3 (ks 2) (ks 0) (ks 1) 0, pLd (ks 3) 2, iWord 1 (ks 4) (ks 3) (ks 2) 0,
   pSt 2 (ks 4), iWord 0x14 (ks 5) (ks 4) 0 0, iWord 1 (ks 5) (ks 5) (kk 1) 0, iWord 0x11 (ks 5) (ks 5) 0 0,
   pGet (ks 6) 1, iWord 3 (ks 6) (ks 6) (ks 5) 0, pLd (kv 0) 0, pLd (kv 1) 1, iWord 5 (kv 1) (ks 6) (kv 0) (kv 1), pSt 1 (kv 1)]

/-- From `ld v2, a` up to the step direction u, shared by Adam and AdamW. -/
def adamMiddle : Program :=
  [pLd (kv 2) 2, iWord 3 (kv 2) (kk 1) (kv 2) 0, iWord 4 (kv 2) (kk 4) (kv 0) (kv 2), pLd (kv 3) 3,
   iWord 3 (kv 3) (kk 2) (kv 3) 0, iWord 3 (kv 5) (kv 0) (kv 0) 0, iWord 4 (kv 3) (kk 5) (kv 5) (kv 3),
   pGet (ks 0) 2, pGet (ks 1) 3, iWord 3 (kv 4) (kv 2) (ks 0) 0, iWord 3 (kv 5) (kv 3) (ks 1) 0,
   iWord 0x14 (kv 5) (kv 5) 0 0, iWord 1 (kv 5) (kv 5) (kk 3) 0, iWord 0x11 (kv 5) (kv 5) 0 0, iWord 3 (kv 4) (kv 4) (kv 5) 0]

def adamTail : Program :=
  [pGet (ks 2) 1, iWord 5 (kv 1) (ks 2) (kv 4) (kv 1), pSt 2 (kv 2), pSt 3 (kv 3), pSt 1 (kv 1)]

def progAdam : Program :=
  [pLd (kv 0) 0, pLd (kv 1) 1, iWord 4 (kv 0) (kk 0) (kv 1) (kv 0)] ++ adamMiddle ++ adamTail

def progAdamW : Program :=
  [pLd (kv 0) 0, pLd (kv 1) 1] ++ adamMiddle ++ [iWord 4 (kv 4) (kk 0) (kv 1) (kv 4)] ++ adamTail

/-- The built-in program of a slot (Table Prog-7). -/
def builtin : Nat → Option Program
  | 0x8000 => some progSgd
  | 0x8001 => some progMomentum
  | 0x8002 => some progAdagrad
  | 0x8003 => some progRowAdagrad
  | 0x8004 => some progAdam
  | 0x8005 => some progAdamW
  | _ => none

end Sys2Proof.Machine
end

