-- ==== Sys2Proof/Machine/Tables.lean ====
section
/-! DEFINITION. Tables: descriptors (R68 to R74), shard maps (R92 to R97), versions and what refers to them (R231 to R241). -/

namespace Sys2Proof.Machine

/-! ### Descriptor fields (Table Rows-1) -/

def df (d : BitVec 1280) (lo n : Nat) : Nat := bitsNat d (8 * lo) (8 * n)

def Table.wcOnly (t : Table) : Bool := t.desc.getLsbD 25
def Table.missing32 (t : Table) : Bool := t.desc.getLsbD 24
def Table.rowsN (t : Table) : Nat := df t.desc 8 8
def Table.width (t : Table) : Nat := df t.desc 16 2
def Table.wcFmt (t : Table) : Nat := df t.desc 18 1
def Table.sb (t : Table) : Nat := df t.desc 19 1
def Table.xform (t : Table) : Nat := df t.desc 20 1
def Table.stateA (t : Table) : Nat := df t.desc 21 1
def Table.stateB (t : Table) : Nat := df t.desc 22 1
def Table.xparam0 (t : Table) : Nat := df t.desc 24 8
def Table.xparam1 (t : Table) : Nat := df t.desc 32 8
def Table.prog (t : Table) : Nat := df t.desc 40 2
def Table.localBlocks (t : Table) : Nat := df t.desc 44 4
def Table.recBase (t : Table) : Nat := df t.desc 48 8
def Table.wcBase (t : Table) : Nat := df t.desc 56 8
def Table.mapBase (t : Table) : Nat := df t.desc 64 8
def Table.consts (t : Table) : List F32 := (List.range 16).map (fun k => BitVec.ofNat 32 (df t.desc (80 + 4 * k) 4))
def Table.nBlocks (t : Table) : Nat := ceilDiv t.rowsN (2 ^ t.sb)
def Table.recStrideB (t : Table) : Nat := if t.wcOnly then 0 else recStride t.stateA t.stateB t.width
def Table.wcSizeB (t : Table) : Nat := wcSize t.wcFmt t.width
def Table.wcStrideB (t : Table) : Nat := wcStride t.wcFmt t.width

/-- Rows that a global block holds (R246). -/
def Table.blockRows (t : Table) (b : Nat) : Nat := min (2 ^ t.sb) (t.rowsN - b * 2 ^ t.sb)

/-- Index of a row of a local block in a slot's regions (R97). -/
def Table.rowIndex (t : Table) (v lb off : Nat) : Nat := (v % 4) * t.localBlocks * 2 ^ t.sb + lb * 2 ^ t.sb + off
def Table.recAddr (t : Table) (v lb off : Nat) : Nat := t.recBase + t.rowIndex v lb off * t.recStrideB
def Table.wcAddr (t : Table) (v lb off : Nat) : Nat := t.wcBase + t.rowIndex v lb off * t.wcStrideB
def Table.mapAddr (t : Table) (v b : Nat) : Nat := t.mapBase + (v % 4) * t.nBlocks * 32 + b * 32

/-! ### Tables and versions -/

def tabGet (s : State) (tid : Nat) : Option Table := smapGet s.tab.tables tid
def tabSet (tid : Nat) (t : Table) (s : State) : State := { s with tab := { s.tab with tables := smapSet s.tab.tables tid t } }
def tabMap (tid : Nat) (f : Table → Table) (s : State) : State :=
  match tabGet s tid with
  | some t => tabSet tid (f t) s
  | none => s

def Table.version (t : Table) (v : BitVec 16) : Option Version := t.versions.find? (fun x => x.ver == v)
def Table.current (t : Table) : Option (BitVec 16) := (t.versions.find? (fun x => x.st == .current)).map (·.ver)
def Table.mapVersion (t : Table) (v : BitVec 16) (f : Version → Version) : Table :=
  { t with versions := t.versions.map (fun x => if x.ver = v then f x else x) }

/-- Whether a table holds an open or closed gradient of a version here. -/
def hasGrads (s : State) (tid : Nat) (v : BitVec 16) : Bool := s.grad.grads.any (fun g => g.tid == tid && g.ver == v && g.lost.isNone)

/-- Whether anything of Table Ver-2 refers to a version. -/
def referred (s : State) (tid : Nat) (v : BitVec 16) : Bool :=
  s.cmd.tasks.any (fun t => t.bind == some (tid, v) && t.op != 0x12) ||
  s.hold.lists.any (fun l => l.tid == tid && l.ver == v) ||
  s.hold.kept.any (fun k => k.tid == tid && k.ver == v) ||
  s.hold.keptReq.any (fun k => k.tid == tid && k.ver == v && !k.released) ||
  s.grad.buckets.any (fun b => b.tid == tid && b.ver == v && b.src != (ownEid s).toNat) ||
  hasGrads s tid v ||
  ((tabGet s tid).bind (·.commit)).any (fun c => c.ver == v)

/-- A program that a slot holds (Table Prog-7). -/
def progOf (s : State) (slot : Nat) : Option Program :=
  match builtin slot with
  | some p => some p
  | none => if slot < 256 then smapGet s.tab.progs slot else none

/-! ### Binding (R46, R54, R234, R241) -/

def setBind (id tid : Nat) (v : BitVec 16) (s : State) : State := mapTask id (fun t => { t with bind := some (tid, v) }) s

/-- The table a task names, bound to a version: the one it names, or the current one. -/
def bindVersion (t : Task) : Act (Table × BitVec 16) := do
  let tid := pTid t.pkt
  let s ← get
  match tabGet s tid with
  | none => stop (.fail (rBadParam 5 8))
  | some tab =>
    match t.bind with
    | some (_, v) => return (tab, v)
    | none =>
      if pflag t.pkt 8 then
        let v : BitVec 16 := BitVec.ofNat 16 (pf t.pkt 12 2)
        let retired : Act (Table × BitVec 16) := stop (.fail (resultOf stRetired (v.toNat * 256)))
        match tab.version v with
        | none => retired
        | some x =>
          if x.st = .retiring && !((t.op == 0x31 || t.op == 0x32) && hasGrads s tid v) then retired
          else do
            modify (setBind t.id tid v)
            return (tab, v)
      else match tab.current with
        | none => stop (.fail (rBadParam 6 12))
        | some v => do
          modify (setBind t.id tid v)
          return (tab, v)

/-- The same for a task that needs records: a WC_ONLY table is refused before the version is judged (R74). -/
def bindRecords (t : Task) : Act (Table × BitVec 16) := do
  need [bad (((tabGet (← get) (pTid t.pkt)).map (·.wcOnly)).getD false) 6 8]
  bindVersion t

/-- VERSION_EXPLICIT must be set (R234). -/
def needExplicit (p : Packet) : Bool × Result := bad (!pflag p 8) 3 2

/-! ### Shard maps (R93, Table Rows-9) -/

/-- A shard-map entry: valid bits, and EID and local block of the primary and replicas 1 to 3. -/
structure MapEnt where
  flags : Nat
  holders : List (Nat × Nat)
  deriving DecidableEq, Repr, Inhabited

def MapEnt.valid (e : MapEnt) (r : Nat) : Bool := e.flags / 2 ^ r % 2 == 1

/-- (EID, local block) of a role where its valid bit is set. -/
def MapEnt.role (e : MapEnt) (r : Nat) : Option (Nat × Nat) := if e.valid r then e.holders[r]? else none

/-- Valid holders in the order primary, replica 1, 2, 3. -/
def MapEnt.all (e : MapEnt) : List (Nat × Nat) := (List.range 4).filterMap e.role

def mapEntOf (b : Bytes) : MapEnt :=
  ⟨leField b 24 2, (List.range 4).map (fun k => (leField b (2 * k) 2, leField b (8 + 4 * k) 4))⟩

def emptyMapEntry : Bytes := withCrc (zeroBytes 28)

/-- Read a version's entry of a block; its CRC is judged as object 0x05. -/
def readMapEnt (ring tag : Nat) (t : Table) (v b : Nat) : Act MapEnt := do
  let a := t.mapAddr v b
  let bs ← orFault ring tag ⟨a, false, 6, 0⟩ [] (orCrc 5 (readVa a 32))
  judgeCrc (crcHolds bs) 5
  return mapEntOf bs

/-- An entry with a non-zero reserved byte, or a non-zero field behind a clear valid bit (R94). -/
def mapEntMalformed (b : Bytes) : Bool :=
  let e := mapEntOf b
  decide (16 ≤ e.flags) || leField b 26 2 != 0 ||
  (List.range 4).any (fun r => !e.valid r && (e.holders[r]?).getD (0, 0) != (0, 0))

/-- Cut a byte string into `n` pieces of `k` bytes. -/
def pieces (k : Nat) : Nat → Bytes → List Bytes
  | 0, _ => []
  | n + 1, b => b.take k :: pieces k n (b.drop k)

/-! ### SHARD_MAP_SET (R94, R233 to R235) -/

def oldestLive (t : Table) : Nat := ((t.versions.head?).map (·.ver.toNat)).getD 0

def shardMapStep4 (_ : Byte) (p : Packet) : Checks := [needExplicit p, highAddr p 16]

/-- Everything SHARD_MAP_SET does: it is checked, opens a free version, and writes its entries. -/
def shardMapSet (t : Task) : Act Unit := do
  let p := t.pkt
  let ring := t.ring
  let tag := p.tag.toNat
  let v : BitVec 16 := BitVec.ofNat 16 (pf p 12 2)
  match tabGet (← get) (pTid p) with
  | none => stop (.fail (rBadParam 5 8))
  | some tab =>
    let live := tab.version v
    if (live.map (·.st)) = some .retiring then stop (.fail (resultOf stRetired (v.toNat * 256)))
    else if live.isNone && tab.versions.any (fun x => x.ver.toNat % 4 == v.toNat % 4) then
      stop (.fail (resultOf stVerLimit (oldestLive tab * 256)))
    else
      let count := pf p 24 4
      let first := pf p 28 4
      need [bad (2 ^ 52 ≤ pf p 16 8 + count * 32) 3 16, bad (tab.nBlocks < first + count) 3 24]
      let bs ← orFault ring tag ⟨pf p 16 8, false, 8, 0⟩ [] (orCrc 5 (readVa (pf p 16 8) (count * 32)))
      let ents := pieces 32 count bs
      judgeCrc (ents.all crcHolds) 5
      need [bad (ents.any mapEntMalformed) 1 28]
      if (live.map (·.everCurrent)).getD false then
        for (e, k) in ents.zipIdx do
          let old ← readMapEnt ring tag tab v.toNat (first + k)
          let e := mapEntOf e
          need [bad (e.valid 0 != old.valid 0 || e.holders.head? != old.holders.head?) 6 16]
      let mapStart := tab.mapAddr v.toNat 0
      let start := if live.isNone then mapStart else tab.mapAddr v.toNat first
      let len := if live.isNone then tab.nBlocks * 32 else count * 32
      translateNeeds ring tag (rangeNeeds start len true 6 0)
      if live.isNone then
        modify (tabSet (pTid p) { tab with versions := tab.versions ++ [⟨v, .opened, false, none⟩] })
        writeVa mapStart ((List.replicate tab.nBlocks emptyMapEntry).flatten)
      writeVa (tab.mapAddr v.toNat first) bs
      modify (setBind t.id (pTid p) v)

/-! ### TABLE_DEFINE (R69 to R73, Table Rows-10) -/

def tableDefineStep4 (_ : Byte) (p : Packet) : Checks :=
  [bad (pTid p = 0xFFFFFF) 2 8, bad (1 < pf p 11 1) 2 11] ++
  (if pf p 11 1 = 0 then [highAddr p 12, misaligned p 12 16, bad (pf p 20 4 != 160) 3 20] else [])

/-- The first non-zero byte of a range, if there is one. -/
def firstNonZero (b : Bytes) (lo n : Nat) : Option Nat :=
  ((List.range n).map (· + lo)).find? (fun k => leField b k 1 != 0)

def badByte (b : Bytes) (lo n : Nat) : Bool × Result :=
  match firstNonZero b lo n with
  | some k => bad true 1 (64 + k)
  | none => bad false 1 64

/-- The checks of Table Rows-10 on the descriptor's 160 bytes. -/
def descChecks (s : State) (tid : Nat) (b : Bytes) : Checks :=
  let f := leField b
  let d := fun (c : Bool) (r o : Nat) => bad c r (64 + o)
  let wcOnly := f 3 1 / 2 % 2 == 1
  let w := f 16 2
  let fmt := f 18 1
  let xf := f 20 1
  let pr := f 40 2
  [d (f 0 3 != tid) 3 0, d (decide (4 ≤ f 3 1)) 1 3, badByte b 4 4,
   d (f 8 8 = 0 || decide (2 ^ 40 < f 8 8)) 3 8, d (decide (w < 4) || decide (16384 < w)) 3 16,
   d (decide (12 ≤ fmt)) 2 18, d ((isMx fmt && w % 32 != 0) || (fmt == 11 && w % 2 != 0)) 3 16,
   d (decide (65536 < wcSize fmt w)) 3 16, d (decide (f 19 1 < 10) || decide (24 < f 19 1)) 3 19,
   d (decide (4 ≤ xf)) 2 20, d (decide (3 ≤ f 21 1)) 2 21, d (decide (3 ≤ f 22 1)) 2 22,
   d (f 22 1 != 0 && f 21 1 == 0) 3 22, d (wcOnly && f 21 1 != 0) 3 21, d (wcOnly && f 22 1 != 0) 3 22,
   badByte b 23 1, d (xf == 2 && f 24 8 % 2 == 0) 3 24, d (decide (xf < 2) && f 24 8 != 0) 1 24,
   d (xf != 2 && f 32 8 != 0) 1 32, d (wcOnly && pr != 0xFFFF) 3 40,
   d (pr != 0xFFFF && (progOf s pr).isNone) 5 40,
   d (match progOf s pr with | some q => pr != 0xFFFF && !progFits (f 21 1) (f 22 1) q | none => false) 6 40,
   badByte b 42 2, d (decide (2 ^ 30 < f 44 4)) 3 44, d ((f 48 8 == 0) != wcOnly) 3 48, d (f 48 8 % 65536 != 0) 4 48,
   d (f 56 8 == 0 && f 44 4 != 0) 3 56, d (f 56 8 % 65536 != 0) 4 56, d (f 64 8 == 0) 3 64, d (f 64 8 % 4096 != 0) 4 64,
   badByte b 72 8, badByte b 144 12]

/-- A new table: no live version, counters zero (R91, R232). -/
def newTable (b : Bytes) : Table := ⟨BitVec.ofNat 1280 (leNat b), [], none, 0, 0, 0, 0, 0⟩

/-- Counter k of Table Berm-5, in byte order. -/
def bermCtr (b : BermState) : Nat → BitVec 32
  | 0 => b.hits
  | 1 => b.misses
  | 2 => b.specFills
  | 3 => b.specUnused
  | 4 => b.evictions
  | 5 => b.promotions
  | 6 => b.demotions
  | 7 => b.pinRefused
  | 8 => b.bypasses
  | _ => b.specSkipped

def setBermCtr (b : BermState) (v : BitVec 32) : Nat → BermState
  | 0 => { b with hits := v }
  | 1 => { b with misses := v }
  | 2 => { b with specFills := v }
  | 3 => { b with specUnused := v }
  | 4 => { b with evictions := v }
  | 5 => { b with promotions := v }
  | 6 => { b with demotions := v }
  | 7 => { b with pinRefused := v }
  | 8 => { b with bypasses := v }
  | _ => { b with specSkipped := v }

/-- Change the list or bucket that a `Who` names. -/
def whoMap (f : HList → HList) (g : Bucket → Bucket) (w : Who) (s : State) : State :=
  match w with
  | .list src task window =>
    { s with hold := { s.hold with lists := s.hold.lists.map (fun l => if l.src = src ∧ l.task = task ∧ l.window = window then f l else l) } }
  | .bucket src task num =>
    { s with grad := { s.grad with buckets := s.grad.buckets.map (fun b => if b.src = src ∧ b.task = task ∧ b.num = num then g b else b) } }
  | _ => s

/-- Set SAT for what an event served: a task here at once, another engine's task in the acknowledgement of its list or bucket. -/
def satTask (w : Who) (s : State) : State :=
  match w with
  | .task id => mapTask id (fun t => { t with sat := true }) s
  | w => whoMap (fun l => { l with sat := true }) (fun b => { b with sat := true }) w s

/-- SPILL, likewise. -/
def spillTask (w : Who) (s : State) : State :=
  match w with
  | .task id => mapTask id (fun t => { t with spill := true }) s
  | w => whoMap (fun l => { l with spill := true }) (fun b => { b with spill := true }) w s

/-- Count `n` sector events (R276). -/
def bermCount (k n : Nat) (w : Who) (s : State) : State :=
  let c := bermCtr s.berm k
  let b := setBermCtr s.berm (satAdd c n) k
  if satHits c n then satTask w { s with berm := { b with sat := b.sat ||| (1#11 <<< k) } } else { s with berm := b }

/-- Invalidate berm sectors; speculative ones count as unused. -/
def bermDrop (w : Who) (hit : Sector → Bool) (s : State) : State :=
  let unused := ((s.berm.sets.map (fun e => (e.2.filter (fun x => hit x && x.spec)).length))).sum
  let s := { s with
    berm := { s.berm with sets := (s.berm.sets.map (fun e => (e.1, e.2.filter (fun x => !hit x)))).filter (fun e => !e.2.isEmpty) } }
  if unused = 0 then s else bermCount 3 unused w s

/-- Fills in flight install nothing in the granules that a test picks (R274). -/
def fetchDrop (hit : Fetch → Nat → Bool) (s : State) : State :=
  let f : Fetch → Fetch := fun x => { x with sectors := x.sectors.filter (fun g => !hit x g) }
  { s with hold := { s.hold with fetches := s.hold.fetches.map f } }

/-- Sectors leave the berm for good: those resident, and those that a macro test has drained and would refill (R271, R277). -/
def bermForget (w : Who) (hit : Sector → Bool) (s : State) : State :=
  let s := bermDrop w hit s
  { s with berm := { s.berm with test := s.berm.test.map (fun t => { t with drained := t.drained.filter (fun x => !hit x.2) }) } }

/-! ### TABLE_RETIRE and freeing (R240) -/

/-- Free a version: its berm rows, cached translations, dirty entries and slot. -/
def freeVersion (w : Who) (tid : Nat) (v : BitVec 16) (s : State) : State :=
  match tabGet s tid with
  | none => s
  | some t =>
    let slot := v.toNat % 4
    let s := fetchDrop (fun f _ => f.tid == tid && f.ver == v) (bermForget w (fun x => x.tid == tid && x.slot == slot) s)
    let rows := t.localBlocks * 2 ^ t.sb
    let s := if rows = 0 then s else (tlbDrop (t.wcAddr v.toNat 0 0) (rows * t.wcStrideB) s).2
    let s := if rows = 0 || t.wcOnly then s else (tlbDrop (t.recAddr v.toNat 0 0) (rows * t.recStrideB) s).2
    let s := { s with
      tab := { s.tab with dirty := s.tab.dirty.filter (fun e => !(e.1 == tid && e.2.1 == slot)) }
      grad := { s.grad with grads := s.grad.grads.filter (fun g => !(g.tid == tid && g.ver == v)) } }
    tabMap tid (fun t => { t with
      versions := t.versions.filter (fun x => x.ver != v)
      slotMarks := t.slotMarks &&& ~~~(1#4 <<< slot) }) s

/-- Whether a retiring version may be freed now. -/
def freeable (tid : Nat) (v : BitVec 16) (s : State) : Option Retire :=
  match ((tabGet s tid).bind (·.version v)).bind (·.retire) with
  | some r => if !referred s tid v && (r.grace == 0 || reached s r.grace) then some r else none
  | none => none

/-- The tags of a version's resident sectors are read where they are invalidated, in the polders in service: a parity failure there is a
firing of detector 0x05 (log entry 29), whose record's index is answered. -/
def tagSweep (tid : Nat) (v : BitVec 16) (s : State) : Option (BitVec 16) × State :=
  if !s.berm.sets.any (fun e => e.2.any (fun x => x.tid == tid && x.slot == v.toNat % 4)) then (none, s)
  else s.rep.polderMap.zipIdx.foldl (fun (got, s) (phys, polder) =>
    let (inj, s) := injectAt 0x05 phys s
    if inj then
      (got.orElse fun _ => some (nextErrIdx s),
       logErr { det := 0x05, sev := 2, level := 4, phys := phys, logical := polder, action := 7, injected := true } s)
    else (got, s)) (none, s)

/-- Free a version and give the result of the retirement that task `id` records (R240): HW_ERROR where a detector fired. -/
def freeRetired (id tid : Nat) (v : BitVec 16) (s : State) : State :=
  let (hw, s) := tagSweep tid v s
  let s := freeVersion (.task id) tid v s
  match hw with
  | some idx => finishTask id (rHw 0x05 idx) s
  | none => finishOk id 0 s

/-- What a retirement is refused for (Table Ver-4). -/
def retireRefused (s : State) (tid : Nat) (v : BitVec 16) : Option Result :=
  match tabGet s tid with
  | none => some (rBadParam 5 8)
  | some tab =>
    match (tab.version v).map (·.st) with
    | none => some (resultOf stRetired (v.toNat * 256))
    | some .retiring => some (resultOf stRetired (v.toNat * 256))
    | some st => if st == .current || (tab.commit.map (·.ver)) == some v then some (rBadParam 6 12) else none

def tableRetireStep4 (_ : Byte) (p : Packet) : Checks := [needExplicit p]

def tableRetire (t : Task) : Act Unit := do
  let tid := pTid t.pkt
  let v : BitVec 16 := BitVec.ofNat 16 (pf t.pkt 12 2)
  match retireRefused (← get) tid v with
  | some r => stop (.fail r)
  | none => modify (setBind t.id tid v)

/-- Make the version retiring, and free it at once where nothing holds it. A retirement that ORDERED held is checked again: another
task may have retired or committed the version since (log entry 104). -/
def startRetire (t : Task) (s : State) : State :=
  let tid := pTid t.pkt
  let v : BitVec 16 := BitVec.ofNat 16 (pf t.pkt 12 2)
  match retireRefused s tid v with
  | some r => finishTask t.id r s
  | none =>
    let r : Retire := ⟨BitVec.ofNat 64 (pf t.pkt 16 8), t.ring, t.pkt.tag, pQuiet t.pkt⟩
    let s := tabMap tid (fun tab => tab.mapVersion v (fun x => { x with st := .retiring, retire := some r })) s
    if (freeable tid v s).isSome then freeRetired t.id tid v s
    else finishTask t.id (resultOf stRetirePending (v.toNat * 256)) s

/-- Free a version that a retirement is pending for, and write the retirement's second record (R58, R240). -/
def retireRecord (r : Retire) (tid : Nat) (v : BitVec 16) (s : State) : State :=
  let id := s.cmd.nextTask
  let p : Packet := ⟨0x20, if r.quiet then 4 else 0, r.tag, 0, 0⟩
  let t : Task := { newTask id r.ring 0x12 p 0x20 (liveCfg s) with bind := some (tid, v) }
  completeTask id (freeRetired id tid v { s with cmd := { s.cmd with nextTask := id + 1, tasks := s.cmd.tasks ++ [t] } })

/-- VERSION_FREE: a retiring version nothing holds, past its grace FTIME, is freed, and the retire's second record is written. -/
def versionFree (tid : Nat) (v : BitVec 16) (s : State) : State :=
  match freeable tid v s with
  | none => s
  | some r => retireRecord r tid v s

/-! ### TABLE_DEFINE (R68 to R73) -/

/-- Delete a table: every version is freed, and the table and what the berm and the dirty directory hold of it go (R73). -/
def deleteTable (w : Who) (tid : Nat) (s : State) : State :=
  let vs := ((tabGet s tid).map (·.versions)).getD []
  let s := vs.foldl (fun s x => match x.retire with
    | some r => retireRecord r tid x.ver s
    | none => freeVersion w tid x.ver s) s
  let s := fetchDrop (fun f _ => f.tid == tid) (bermForget w (fun x => x.tid == tid) s)
  { s with tab := { s.tab with tables := smapDel s.tab.tables tid, dirty := s.tab.dirty.filter (fun e => e.1 != tid) } }

def tableDefine (t : Task) : Act Unit := do
  let p := t.pkt
  let tid := pTid p
  let s ← get
  if pf p 11 1 = 0 then
    need [bad (tabGet s tid).isSome 6 8]
    let b ← orFault t.ring p.tag.toNat ⟨pf p 12 8, false, 8, 0⟩ [] (orCrc 5 (readVa (pf p 12 8) 160))
    judgeCrc (crcHolds b) 5
    need (descChecks (← get) tid b)
    if 65536 ≤ s.tab.tables.length then stop (.fail (rBusy 4))
    else modify (tabSet tid (newTable b))
  else
    match tabGet s tid with
    | none => stop (.fail (rBadParam 5 8))
    | some tab =>
      need [bad (tab.versions.any (fun v => referred s tid v.ver)) 6 11]
      modify (deleteTable (.task t.id) tid)

/-! ### Dropped positions (R90, R91) -/

/-- Count dropped indices of a class of Table Rows-8 (0 missing, 1 range, 2 unmapped) for a task. -/
def countDropped (id tid cls k : Nat) (s : State) : State :=
  if k = 0 then s
  else
    let old := match tabGet s tid with
      | some t => if cls = 0 then t.missing else if cls = 1 then t.range else t.unmapped
      | none => 0
    let hits := satHits old k
    let s := tabMap tid (fun t =>
      let n := satAdd old k
      let sat := if hits then t.sat ||| (1#3 <<< cls) else t.sat
      if cls = 0 then { t with missing := n, sat := sat }
      else if cls = 1 then { t with range := n, sat := sat } else { t with unmapped := n, sat := sat }) s
    mapTask id (fun t => { t with dropped := t.dropped + k, sat := t.sat || hits }) s

/-! ### Index transforms (R86 to R88) -/

/-- What becomes of an index: a row, or dropped as missing or out of range. -/
inductive Kept1 where
  | row (r : Nat)
  | missing
  | range
  deriving DecidableEq, Repr, Inhabited

/-- The value of a 64-bit pattern as a signed number. -/
def signed64 (x : Nat) : Int := if x < 2 ^ 63 then x else (x : Int) - 2 ^ 64

/-- The hash of R88. -/
def hashRow (a b n idx : Nat) : Nat := ((idx * a + b) % 2 ^ 64 / 2 ^ 24 * n) / 2 ^ 40

def Table.transform (t : Table) (elem idx : Nat) : Kept1 :=
  let missing := if elem = 1 then t.missing32 && idx == 0xFFFFFFFF else decide (2 ^ 63 ≤ idx)
  if missing then .missing
  else match t.xform with
    | 0 => if idx < t.rowsN then .row idx else .range
    | 1 => .row (idx % t.rowsN)
    | 2 => .row (hashRow t.xparam0 t.xparam1 t.rowsN idx)
    | _ =>
      let r : Int := (idx : Int) - signed64 t.xparam0
      if 0 ≤ r && r < t.rowsN then .row r.toNat else .range

/-! ### Dirty blocks (R242) -/

/-- Set a table's whole-slot mark. -/
def markSlot (tid slot : Nat) (s : State) : State := tabMap tid (fun t => { t with slotMarks := t.slotMarks ||| (1#4 <<< slot) }) s

def markDirty (tid slot lb : Nat) (s : State) : State :=
  if s.tab.dirty.contains (tid, slot, lb) then s
  else if s.tab.dirty.length < 65536 then { s with tab := { s.tab with dirty := s.tab.dirty ++ [(tid, slot, lb)] } }
  else markSlot tid slot s

def isDirty (s : State) (tid slot lb : Nat) : Bool :=
  s.tab.dirty.contains (tid, slot, lb) || ((tabGet s tid).map (fun t => t.slotMarks.getLsbD slot)).getD false

end Sys2Proof.Machine
end

