-- ==== Sys2Proof/Machine/Versions.lean ====
section
/-! DEFINITION. Commits and replica refresh (R238, R239, R242, R243, R518), snapshots (R245, R246) and shard migration
(R247, R248). -/

namespace Sys2Proof.Machine

/-! ### Tasks run for another engine -/

/-- A task run for another engine reports its end there and is done. -/
def settleOrigin (id : Nat) (s : State) : State :=
  match taskOf s id with
  | some t => match t.phase, t.origin with
    | .done r, some (e, n) => sendTaskAck e n.toNat t.pkt.tag.toNat 0x12 r (dropTask id s)
    | _, _ => s
  | none => s

/-! ### Rows on the move -/

/-- Rows of at most 65,536 B a message carries. -/
def rowsPerMsg (stride : Nat) : Nat := max 1 (65536 / max 1 stride)

/-- Cut `n` rows from `first` on into (first row, rows) of at most `k` rows. -/
def rowRuns (k : Nat) : Nat → Nat → Nat → List (Nat × Nat)
  | 0, _, _ => []
  | fuel + 1, first, n => if n = 0 then [] else (first, min k n) :: rowRuns k fuel (first + k) (n - k)

/-- One MIGRATE_DATA message to be sent: global block, whether records, first row, rows, bytes. -/
structure RowMsg where
  block : Nat
  recs : Bool
  first : Nat
  rows : Nat
  bytes : Bytes

/-- Working copies at their stride, with zero bytes behind each (R78). -/
def padRows (t : Table) (b : Bytes) : Bytes :=
  (List.range (b.length / t.wcStrideB)).flatMap (fun k => padTo t.wcStrideB ((b.drop (k * t.wcStrideB)).take t.wcSizeB))

/-- Read rows of a local block of a version: records or working copies. -/
def readRows (t : Table) (v lb : Nat) (recs : Bool) (first n : Nat) : Act Bytes := do
  if recs then readVa (t.recAddr v lb first) (n * t.recStrideB)
  else
    let b ← readVa (t.wcAddr v lb first) (n * t.wcStrideB)
    return padRows t b

/-- The messages that carry one content of a block. -/
def blockMsgs (t : Table) (v b lb : Nat) (recs : Bool) : Act (List RowMsg) :=
  let stride := if recs then t.recStrideB else t.wcStrideB
  (rowRuns (rowsPerMsg stride) (t.blockRows b) 0 (t.blockRows b)).mapM fun (f, n) => do
    let bs ← readRows t v lb recs f n
    return ⟨b, recs, f, n, bs⟩

/-- Send a MIGRATE_DATA message (Table Fab-4). -/
def sendRows (dst task tag tid ver role : Nat) (m : RowMsg) (s : State) : State :=
  sendMsg dst 0x35 task tag [(32, 3, tid), (36, 2, ver), (38, 1, role), (39, 1, if m.recs then 1 else 2), (40, 4, m.block),
    (44, 4, m.first), (48, 4, m.rows)] m.bytes s

/-- Berm sectors that overlap a byte range of working copies are invalid. -/
def bermDropRange (tid start len : Nat) (s : State) : State :=
  let hit := fun (g : Nat) => decide (g * 256 < start + len) && decide (start < g * 256 + 256)
  fetchDrop (fun f g => f.tid == tid && hit g) (bermForget .nobody (fun x => x.tid == tid && hit x.g) s)

/-- Records with the reserved bits of their headers zero (R76). -/
def cleanRecs (t : Table) (b : Bytes) : Bytes :=
  b.zipIdx.map fun (x, i) =>
    let k := i % max 1 t.recStrideB
    if k = 8 then x &&& 7 else if k = 9 ∨ k = 10 ∨ k = 11 then 0 else x

/-- Write rows of a local block: records with clean headers; working copies after the berm's copies of them are dropped (R243). -/
def writeRows (tid : Nat) (t : Table) (v lb : Nat) (recs : Bool) (first : Nat) (b : Bytes) : Act Unit := do
  if recs then writeVa (t.recAddr v lb first) (cleanRecs t b)
  else
    modify (bermDropRange tid (t.wcAddr v lb first) b.length)
    writeVa (t.wcAddr v lb first) (padRows t b)

/-- SHARD_MIGRATE invalidates every resident sector of a block before it writes it (R273). -/
def bermDropBlock (tid : Nat) (t : Table) (v lb : Nat) : State → State :=
  bermDropRange tid (t.wcAddr v lb 0) (2 ^ t.sb * t.wcStrideB)

/-! ### TABLE_COMMIT -/

def tableCommitStep4 (_ : Byte) (p : Packet) : Checks := [needExplicit p]

def tableCommitCheck (t : Task) : Act Unit := do
  let tid := pTid t.pkt
  let v : BitVec 16 := BitVec.ofNat 16 (pf t.pkt 12 2)
  match tabGet (← get) tid with
  | none => stop (.fail (rBadParam 5 8))
  | some tab =>
    match tab.version v with
    | none => stop (.fail (resultOf stRetired (v.toNat * 256)))
    | some x =>
      if x.st = .retiring then stop (.fail (resultOf stRetired (v.toNat * 256)))
      else
        need [bad tab.commit.isSome 6 16]
        if (← get).xl.overflow then stop (.fail (rBusy 9))
        modify (setBind t.id tid v)
        modify (tabMap tid (fun x => { x with commit := some ⟨v, BitVec.ofNat 64 (pf t.pkt 16 8), t.id⟩ }))

/-- FTIME is judged only while time-locked (R238). -/
def timeLocked (s : State) : Bool :=
  s.time.lock || (s.time.parent.isNone && s.time.gmEid == (ownEid s).toNat && decide (s.time.gmPrio < 255))

/-- Whether a pending commit has reached its commit point. One that ORDERED holds has not: it starts first (log entry 104). -/
def commitDue (c : Commit) (s : State) : Bool :=
  (taskOf s c.task).any (fun t => match t.phase with | .running _ => true | _ => false) &&
  (c.ftime == 0 || (timeLocked s && reached s c.ftime))

/-- Make a version current (R238, R239). -/
def makeCurrent (v : BitVec 16) (t : Table) : Table :=
  { t with
    commit := none
    versions := t.versions.map fun x =>
      if x.ver = v then { x with st := .current, everCurrent := true }
      else if x.st = .current then { x with st := .previous } else x }

/-- A dirty block that this engine holds as valid primary, with its local block and valid replicas (R243); under a whole-slot mark
every block counts as dirty. -/
def refreshBlock (tid : Nat) (t : Table) (v : BitVec 16) (marked : Bool) (b : Nat) : Act (Option (Nat × List (Nat × Nat))) := do
  let bs ← readVa (t.mapAddr v.toNat b) 32
  let e := mapEntOf bs
  let s ← get
  match e.role 0 with
  | some (eid, lb) =>
    let reps := (List.range 4).filterMap (fun r => if r = 0 then none else (e.role r).map (fun x => (x.1, r)))
    if eid = (ownEid s).toNat && (marked || isDirty s tid (v.toNat % 4) lb) && !reps.isEmpty then return some (lb, reps) else return none
  | none => return none

/-- What a refresh has sent: the copies awaited, as (replica, block, role); replicas of its blocks that are lost; whether a block could
not be copied for another reason; the batch of the first fault. -/
structure RefreshSent where
  await : List (Nat × Nat × Nat) := []
  lost : List Nat := []
  refused : Bool := false
  faulted : Option Nat := none

/-- A copy of a refresh has failed with a result (R518). -/
def RefreshSent.fail (x : RefreshSent) (r : Result) : RefreshSent :=
  if r.status = stFault then { x with faulted := x.faulted.orElse fun _ => some r.detail.toNat } else { x with refused := true }

/-- Copy the dirty blocks to their replicas. A block whose bytes cannot be read stays dirty, and its failure is the refresh's. -/
def refreshSend (t : Task) (tab : Table) (v : BitVec 16) (marked : Bool) : List Nat → RefreshSent → Act RefreshSent
  | [], x => return x
  | b :: rest, x => do
    let tid := pTid t.pkt
    let got : Except Result (Option (Nat × List (Nat × Nat) × List RowMsg)) ←
      onBehalf (ownEid (← get)).toNat t.id t.pkt.tag.toNat
        (do match (← refreshBlock tid tab v marked b) with
            | none => return .ok none
            | some (lb, reps) =>
              let ms ← blockMsgs tab v.toNat b lb false
              return .ok (some (lb, reps, ms)))
        (fun r => return .error r)
    match got with
    | .error r =>
      if marked then modify (markSlot tid (v.toNat % 4))
      refreshSend t tab v marked rest (x.fail r)
    | .ok none => refreshSend t tab v marked rest x
    | .ok (some (lb, reps, ms)) =>
      modify fun s => { s with tab := { s.tab with dirty := s.tab.dirty.filter (· != (tid, v.toNat % 4, lb)) } }
      let s ← get
      let dead := (reps.map (·.1)).filter (isLost s)
      if !dead.isEmpty then modify (markDirty tid (v.toNat % 4) lb)
      for (eid, r) in reps do
        for m in ms do
          modify (sendRows eid t.id t.pkt.tag.toNat tid v.toNat r m)
      let live := reps.filter (fun x => !isLost s x.1)
      refreshSend t tab v marked rest
        { x with await := x.await ++ (live.map (fun (e, r) => ms.map (fun _ => (e, b, r)))).flatten, lost := x.lost ++ dead }

/-- The result a commit completes with once its refresh has ended (R518). -/
def commitResult (t : Task) (lost faulted : Option Nat) (refused : Bool) : Result :=
  match lost with
  | some e => rPeerLost e
  | none => match faulted with
    | some seq => resultOf stFault seq
    | none => okResult t 0 false refused

/-- End the commit where nothing of its refresh is awaited. -/
def refreshDone (id : Nat) (s : State) : State :=
  match taskOf s id with
  | some t => match t.phase with
    | .running (.refresh _ _ [] lost refused faulted) => finishTask id (commitResult t lost faulted refused) s
    | _ => s
  | none => s

/-- Send a version's dirty blocks to their replicas. Its whole-slot mark is taken first, so that what sets it again stays (R242). -/
def refreshStart (tid : Nat) (ver : BitVec 16) (id : Nat) (s : State) : State :=
  match taskOf s id, tabGet s tid with
  | some t, some tab =>
    runTask id (do
      modify fun s => tabMap tid (fun x => { x with slotMarks := x.slotMarks &&& ~~~(1#4 <<< (ver.toNat % 4)) }) s
      let x ← refreshSend t tab ver (tab.slotMarks.getLsbD (ver.toNat % 4)) (List.range tab.nBlocks) {}
      let lost := (← get).fab.lost.find? (x.lost.contains ·)
      modify (setWork id (.refresh tid ver x.await lost x.refused x.faulted))
      modify (refreshDone id)) s
  | _, _ => s

/-- The commit point of a table's pending commit, and its refresh. -/
def commitPoint (tid : Nat) (s : State) : State :=
  match tabGet s tid with
  | none => s
  | some tab =>
    match tab.commit with
    | none => s
    | some c => if commitDue c s then refreshStart tid c.ver c.task (tabMap tid (makeCurrent c.ver) s) else s

def startTableCommit (t : Task) (s : State) : State :=
  let tid := pTid t.pkt
  commitPoint tid (setWork t.id (.tableCommit tid (BitVec.ofNat 16 (pf t.pkt 12 2))) s)

/-- A destination has answered for one copy of a refresh, the first one awaited from it: taken, refused, or ended by a fault, with its
batch. -/
def refreshAck (src : Nat) (ok : Bool) (batch : Option Nat) (id : Nat) (s : State) : State :=
  match taskOf s id with
  | some t => match t.phase with
    | .running (.refresh tid ver await lost refused faulted) =>
      match await.find? (fun a => a.1 == src) with
      | none => s
      | some a =>
        let s := if ok then s else
          match tabGet s tid with
          | none => s
          | some tab =>
            match (readVa (tab.mapAddr ver.toNat a.2.1) 32).go none s with
            | (.ok bs, _) => markDirty tid (ver.toNat % 4) (((mapEntOf bs).holders.head?).getD (0, 0)).2 s
            | (.error _, _) => markSlot tid (ver.toNat % 4) s
        refreshDone id (setWork id (.refresh tid ver (await.erase a) lost (refused || (!ok && batch.isNone)) (faulted.orElse fun _ => batch)) s)
    | _ => s
  | none => s

/-- A replica was declared lost while a refresh waited for it (R518). -/
def refreshLost (eid id : Nat) (s : State) : State :=
  match taskOf s id with
  | some t => match t.phase with
    | .running (.refresh tid ver await lost refused faulted) =>
      if await.any (fun a => a.1 == eid) then
        let s := (await.filter (fun a => a.1 == eid)).foldl (fun s _ => refreshAck eid false none id s) s
        mapTask id (fun t => match t.phase with
          | .running (.refresh tid ver await _ _ f) => { t with phase := .running (.refresh tid ver await (lost.orElse fun _ => some eid) refused f) }
          | .done _ => { t with phase := .done (commitResult t (lost.orElse fun _ => some eid) faulted refused) }
          | _ => { t with phase := .running (.refresh tid ver [] lost refused faulted) }) s
      else s
    | _ => s
  | none => s

/-! ### TABLE_SNAPSHOT -/

/-- Bit 0 of byte 15 selects records, bit 1 working copies. -/
def snapRecs (p : Packet) : Bool := p.params.getLsbD (8 * 7)
def snapWcs (p : Packet) : Bool := p.params.getLsbD (8 * 7 + 1)

def snapshotStep4 (_ : Byte) (p : Packet) : Checks :=
  [bad (2 ≤ pf p 14 1) 2 14, bad (!snapRecs p && !snapWcs p) 3 15, highAddr p 16, misaligned p 16 16]

/-- This engine's primary blocks of a version: (block, local block). -/
def primaryBlocks (ring tag : Nat) (tab : Table) (v : Nat) : List Nat → Act (List (Nat × Nat))
  | [] => return []
  | b :: t => do
    let e ← readMapEnt ring tag tab v b
    let rest ← primaryBlocks ring tag tab v t
    match e.role 0 with
    | some (eid, lb) => return if eid = (ownEid (← get)).toNat then (b, lb) :: rest else rest
    | none => return rest

/-- Bytes of a row in the image. -/
def snapRowBytes (p : Packet) (tab : Table) : Nat :=
  (if snapRecs p then tab.recStrideB else 0) + (if snapWcs p then tab.wcStrideB else 0)

/-- The image size of R246. -/
def snapSize (p : Packet) (tab : Table) (bl : List (Nat × Nat)) : Nat :=
  256 + (bl.map (fun x => 32 + tab.blockRows x.1 * snapRowBytes p tab)).sum

def snapshotCheck (t : Task) : Act Unit := do
  let p := t.pkt
  let (tab, v) ← bindVersion t
  need [bad (snapRecs p && tab.wcOnly) 3 15]
  let bl ← primaryBlocks t.ring p.tag.toNat tab v.toNat (List.range tab.nBlocks)
  need [bad (pf p 24 8 < snapSize p tab bl) 3 24]

/-- The image header (Table Ver-5). -/
def snapHeader (p : Packet) (tab : Table) (v : BitVec 16) (blocks : Nat) (t : Word) (s : State) : Bytes :=
  withCrc (patch (fields 252 [(0, 8, 0x3150414E534C4F53), (8, 2, 1), (10, 1, pf p 14 1), (11, 1, pf p 15 1), (12, 3, pTid p),
    (16, 2, v.toNat), (18, 2, (ownEid s).toNat), (20, 4, blocks), (24, 8, t.toNat), (32, 8, t.toNat), (40, 4, tab.recStrideB),
    (44, 4, tab.wcStrideB)]) 48 (leBytes 160 tab.desc.toNat))

/-- A block header (Table Ver-6). -/
def snapBlockHeader (p : Packet) (b lb rows : Nat) (t : Word) : Bytes :=
  withCrc (fields 28 [(0, 4, b), (4, 4, lb), (8, 4, rows), (12, 1, pf p 15 1), (16, 8, t.toNat)])

/-- Write the blocks one after the other; the rows written. -/
def snapBlocks (t : Task) (tab : Table) (v : Nat) : List (Nat × Nat) → Nat → Nat → Act Nat
  | [], _, rows => return rows
  | (b, lb) :: rest, va, rows => do
    let n := tab.blockRows b
    let region : Need := ⟨tab.wcAddr v lb 0, false, 6, 0⟩
    let recs ← orFault t.ring t.pkt.tag.toNat region [] (if snapRecs t.pkt then readRows tab v lb true 0 n else return [])
    let wcs ← orFault t.ring t.pkt.tag.toNat region [] (if snapWcs t.pkt then readRows tab v lb false 0 n else return [])
    let img := snapBlockHeader t.pkt b lb n (now (← get)) ++ recs ++ wcs
    orFault t.ring t.pkt.tag.toNat ⟨va, true, 5, va - pf t.pkt 16 8⟩ [] (writeVa va img)
    snapBlocks t tab v rest (va + img.length) (rows + n)

/-- Write the image, once every destination page is translated (R245). -/
def runSnapshot (t : Task) (s : State) : State :=
  runTask t.id (do
    let (tab, v) ← bindVersion t
    let bl ← primaryBlocks t.ring t.pkt.tag.toNat tab v.toNat (List.range tab.nBlocks)
    let dst := pf t.pkt 16 8
    translateNeeds t.ring t.pkt.tag.toNat (rangeNeeds dst (snapSize t.pkt tab bl) true 5 0)
    let rows ← snapBlocks t tab v.toNat bl (dst + 256) 0
    let s ← get
    orFault t.ring t.pkt.tag.toNat ⟨dst, true, 5, 0⟩ [] (writeVa dst (snapHeader t.pkt tab v bl.length (now s) s))
    modify (finishOk t.id rows)) s

/-- UPDATE_APPLY, GRAD_FLUSH and consistent TABLE_SNAPSHOT run one at a time per TID and version, in acceptance order
(R193, R245): whether an earlier one has not completed. -/
def serialBlocked (t : Task) (s : State) : Bool :=
  s.cmd.tasks.any fun u =>
    decide (u.id < t.id) && u.bind == t.bind && u.bind.isSome &&
    (u.op == 0x31 || u.op == 0x32 || (u.op == 0x14 && pf u.pkt 14 1 == 0))

/-- Run a task of that order, or queue it. -/
def serially (start : Task → State → State) (t : Task) (s : State) : State :=
  if serialBlocked t s then mapTask t.id (fun t => { t with phase := .queued }) s else start t s

def startSnapshot (t : Task) (s : State) : State :=
  if pf t.pkt 14 1 = 1 then runSnapshot t s else serially runSnapshot t s

/-! ### SHARD_MIGRATE -/

def migRole (p : Packet) : Nat := pf p 14 1
def migFirst (p : Packet) : Nat := pf p 16 4
def migCount (p : Packet) : Nat := pf p 20 4
def migDst (p : Packet) : Nat := pf p 24 2
def migSrc (p : Packet) : Nat := pf p 26 2
def migBlocks (p : Packet) : List Nat := (List.range (migCount p)).map (· + migFirst p)

def migrateStep4 (_ : Byte) (p : Packet) : Checks :=
  [needExplicit p, bad (4 ≤ migRole p) 2 14, bad (migCount p = 0) 3 20, highAddr p 28,
   bad (migSrc p = 0xFFFF && (pf p 28 8 = 0 || pf p 28 8 % 16 != 0)) 4 28]

/-- The peer speaks QFM 1.0 only (R417). -/
def oldPeer (s : State) (eid : Nat) : Bool := eid != (ownEid s).toNat && peerVersion s eid == 0x10

/-- The local blocks of the migrated blocks in this engine's own map: each entry must name this engine in the role. -/
def migTargets (ring tag : Nat) (tab : Table) (v role : Nat) : List Nat → Act (List (Nat × Nat))
  | [] => return []
  | b :: t => do
    let e ← readMapEnt ring tag tab v b
    match e.role role with
    | some (eid, lb) =>
      if eid = (ownEid (← get)).toNat && decide (lb < tab.localBlocks) then
        let rest ← migTargets ring tag tab v role t
        return (b, lb) :: rest
      else stop (.fail (rBadParam 6 24))
    | none => stop (.fail (rBadParam 6 24))

/-- What a migration into a role carries: records too for the primary role of a table with records. -/
def migRecs (tab : Table) (role : Nat) : Bool := role == 0 && !tab.wcOnly

/-- The source's side (R247): the blocks of the version current here, for the primary role as valid primary, else as any valid
holder. -/
def migHoldings (ring tag : Nat) (tab : Table) (v role : Nat) : List Nat → Act (List (Nat × Nat))
  | [] => return []
  | b :: t => do
    let e ← readMapEnt ring tag tab v b
    let own := (ownEid (← get)).toNat
    let held := if role = 0 then e.role 0 else e.all.find? (fun x => x.1 == own)
    match held with
    | some (eid, lb) =>
      if eid = own then
        let rest ← migHoldings ring tag tab v role t
        return (b, lb) :: rest
      else stop (.fail (rBadParam 5 26))
    | none => stop (.fail (rBadParam 5 26))

/-- Read the holdings as messages. -/
def migRead (tab : Table) (v role : Nat) : List (Nat × Nat) → Act (List RowMsg)
  | [] => return []
  | (b, lb) :: t => do
    let recs ← (if migRecs tab role then blockMsgs tab v b lb true else return [])
    let wcs ← blockMsgs tab v b lb false
    let rest ← migRead tab v role t
    return recs ++ wcs ++ rest

/-- The source's table and the version current there, or the source lacks the blocks. -/
def migSource (p : Packet) : Act (Table × BitVec 16) := do
  match tabGet (← get) (pTid p) with
  | none => stop (.fail (rBadParam 5 26))
  | some tab =>
    match tab.current with
    | none => stop (.fail (rBadParam 5 26))
    | some v => if tab.nBlocks < migFirst p + migCount p then stop (.fail (rBadParam 5 26)) else return (tab, v)

/-- A block of an image: its header's address, rows and content. -/
structure ImgBlock where
  block : Nat
  addr : Nat
  rows : Nat
  content : Nat

/-- The block headers of an image, `n` of them from an address on, up to the last of those a migration needs. Only the needed ones are
judged (R247). -/
def imgBlocks (ring tag recStride wcStride : Nat) : Nat → Nat → List Nat → Act (List ImgBlock)
  | 0, _, _ => return []
  | n + 1, va, wanted =>
    if wanted.isEmpty then return []
    else do
      let h ← orFault ring tag ⟨va, false, 8, 0⟩ [] (orCrc 9 (readVa va 32))
      let b := leField h 0 4
      if wanted.contains b then judgeCrc (crcHolds h) 9
      let rows := leField h 8 4
      let content := leField h 12 1
      let size := 32 + rows * ((if content % 2 = 1 then recStride else 0) + (if content / 2 % 2 = 1 then wcStride else 0))
      let rest ← imgBlocks ring tag recStride wcStride n (va + size) (wanted.filter (· != b))
      return ⟨b, va, rows, content⟩ :: rest

/-- Whether content bits lack what a migration into a role needs: the records of a primary of a table with records, else the working
copies (R247, log entry 87). -/
def imageLacks (tab : Table) (role content : Nat) : Bool := if migRecs tab role then content % 2 == 0 else content / 2 % 2 == 0

/-- Check an image against the table and read the rows the migration needs (R247). -/
def migImage (t : Task) (tab : Table) : Act (List RowMsg) := do
  let p := t.pkt
  let ring := t.ring
  let tag := p.tag.toNat
  let base := pf p 28 8
  let h ← orFault ring tag ⟨base, false, 8, 0⟩ [] (orCrc 9 (readVa base 256))
  judgeCrc (crcHolds h) 9
  let d : BitVec 1280 := BitVec.ofNat 1280 (leField h 48 160)
  let src : Table := { tab with desc := d }
  let content := leField h 11 1
  need [bad (leField h 0 8 != 0x3150414E534C4F53 || leField h 8 2 != 1) 5 28,
        bad (leField h 12 3 != pTid p || src.width != tab.width || src.wcFmt != tab.wcFmt || src.sb != tab.sb ||
             src.stateA != tab.stateA || src.stateB != tab.stateB) 5 28,
        bad (imageLacks tab (migRole p) content) 5 28]
  let rs := leField h 40 4
  let ws := leField h 44 4
  let bl ← imgBlocks ring tag rs ws (leField h 20 4) (base + 256) (migBlocks p)
  let wanted := (migBlocks p).map (fun b => (b, bl.find? (fun x => x.block == b)))
  need [bad (wanted.any (fun x => match x.2 with
    | none => true
    | some y => y.rows != tab.blockRows x.1 || imageLacks tab (migRole p) y.content)) 5 28]
  let msgs ← wanted.mapM fun (b, y) =>
    match y with
    | none => return []
    | some y => do
      let recBytesAt := y.addr + 32
      let wcAt := recBytesAt + (if y.content % 2 = 1 then y.rows * rs else 0)
      let r ← (if migRecs tab (migRole p) then do
                 let bs ← orFault ring tag ⟨recBytesAt, false, 4, 0⟩ [] (readVa recBytesAt (y.rows * rs))
                 return [(⟨b, true, 0, y.rows, bs⟩ : RowMsg)]
               else return [])
      if y.content / 2 % 2 = 0 then return r
      else
        let w ← orFault ring tag ⟨wcAt, false, 4, 0⟩ [] (readVa wcAt (y.rows * ws))
        return r ++ [(⟨b, false, 0, y.rows, w⟩ : RowMsg)]
  return msgs.flatten

/-- Write one piece of a migration at the destination, marking primary blocks dirty (R242). -/
def migWrite (p : Packet) (tab : Table) (targets : List (Nat × Nat)) (m : RowMsg) : Act Unit := do
  match targets.find? (fun x => x.1 == m.block) with
  | none => return ()
  | some (_, lb) =>
    modify (bermDropBlock (pTid p) tab (pf p 12 2) lb)
    writeRows (pTid p) tab (pf p 12 2) lb m.recs m.first m.bytes
    if migRole p = 0 then modify (markDirty (pTid p) (pf p 12 2 % 4) lb)

/-- The destination's checks on its own table and map (Table Ver-4). -/
def migDestCheck (t : Task) : Act (Table × List (Nat × Nat)) := do
  let p := t.pkt
  let v : BitVec 16 := BitVec.ofNat 16 (pf p 12 2)
  match tabGet (← get) (pTid p) with
  | none => stop (.fail (rBadParam 5 8))
  | some tab =>
    match tab.version v with
    | none => stop (.fail (resultOf stRetired (v.toNat * 256)))
    | some x =>
      if x.st = .retiring then stop (.fail (resultOf stRetired (v.toNat * 256)))
      else
        need [bad (migRole p = 0 && x.everCurrent) 6 12, bad (tab.nBlocks < migFirst p + migCount p) 3 20]
        modify (setBind t.id (pTid p) v)
        let targets ← migTargets t.ring p.tag.toNat tab v.toNat (migRole p) (migBlocks p)
        return (tab, targets)

/-- Rows awaited per block and content, coded block × 2 + records. -/
def migAwait (p : Packet) (tab : Table) : List (Nat × Nat) :=
  ((migBlocks p).map (fun b =>
    (if migRecs tab (migRole p) then [(b * 2 + 1, tab.blockRows b)] else []) ++ [(b * 2, tab.blockRows b)])).flatten

/-- Rows the task moves in all. -/
def migRows (p : Packet) (tab : Table) : Nat := ((migBlocks p).map tab.blockRows).sum

/-- A SHARD_MIGRATE ends before all its rows have come: what still arrives of it is discarded. -/
def migEnd (id : Nat) (r : Result) (s : State) : State :=
  match taskOf s id with
  | some t => settleOrigin id (finishTask id r { s with fab := { s.fab with
      migEnded := s.fab.migEnded ++ [(migSrc t.pkt, BitVec.ofNat 32 id, t.pkt.tag)] } })
  | none => s

/-- The source of a SHARD_MIGRATE has been lost: the destination blocks it bound hold undefined rows (R248). -/
def freeBlocks (t : Task) (targets : List (Nat × Nat)) (s : State) : State :=
  let p := t.pkt
  match tabGet s (pTid p) with
  | none => s
  | some tab =>
    targets.foldl (fun s (b, lb) =>
      let n := tab.blockRows b
      let v := pf p 12 2
      let s := if migRecs tab (migRole p) then freeVa (tab.recAddr v lb 0) (n * tab.recStrideB) s else s
      bermDropRange (pTid p) (tab.wcAddr v lb 0) (n * tab.wcStrideB) (freeVa (tab.wcAddr v lb 0) (n * tab.wcStrideB) s)) s

/-- Run a migration at its destination: from its own holdings or an image at once, else by asking the source. -/
def migRun (t : Task) : Act Unit := do
  let p := t.pkt
  let (tab, targets) ← migDestCheck t
  let own := (ownEid (← get)).toNat
  if migSrc p = 0xFFFF || migSrc p = own then
    let msgs ← (if migSrc p = 0xFFFF then migImage t tab
      else do
        let (stab, v) ← migSource p
        need [bad (stab.width != tab.width) 5 26]
        let h ← migHoldings t.ring p.tag.toNat stab v.toNat (migRole p) (migBlocks p)
        orFault t.ring p.tag.toNat ⟨stab.wcAddr v.toNat 0 0, false, 6, 0⟩ [] (migRead stab v.toNat (migRole p) h))
    for m in msgs do
      orFault t.ring p.tag.toNat ⟨tab.wcAddr (pf p 12 2) 0 0, true, 6, 0⟩ [] (migWrite p tab targets m)
    modify (finishOk t.id (migRows p tab))
  else
    need [bad (oldPeer (← get) (migSrc p)) 6 26]
    if isLost (← get) (migSrc p) then stop (.fail (rPeerLost (migSrc p)))
    modify (sendMsg (migSrc p) 0x34 t.id p.tag.toNat [(32, 2, t.ring), (34, 2, own)] (packetBytes 0x15 p))
    modify (setWork t.id (.migrate (migAwait p tab) 0 targets))

/-- SHARD_MIGRATE at the engine that accepts it. -/
def migrateAccept (t : Task) : Act Unit := do
  let p := t.pkt
  let s ← get
  if migDst p = (ownEid s).toNat then migRun t
  else
    need [bad (oldPeer s (migDst p)) 6 24]
    if isLost s (migDst p) then stop (.fail (rPeerLost (migDst p)))
    modify (sendMsg (migDst p) 0x34 t.id p.tag.toNat [(32, 2, t.ring), (34, 2, (ownEid s).toNat)] (packetBytes 0x15 p))
    modify (setWork t.id (.forwarded (migDst p)))

/-- The source answers a forwarded SHARD_MIGRATE with rows, or says that it lacks a block. -/
def migServe (h : Header) (p : Packet) : Act Unit := do
  let dst := hSrc h
  let refuse : Result → Act (List RowMsg) := fun r => do
    modify (sendTaskAck dst (hTask h) (hTag h) 0x12 r)
    return []
  let msgs ← onBehalf dst (hTask h) (hTag h)
    (do let (tab, v) ← migSource p
        let hs ← migHoldings 0xFFFF (hTag h) tab v.toNat (migRole p) (migBlocks p)
        migRead tab v.toNat (migRole p) hs)
    refuse
  for m in msgs do
    modify (sendRows dst (hTask h) (hTag h) (pTid p) (pf p 12 2) (migRole p) m)

/-- A forwarded command packet arrives: a SHARD_MIGRATE to run as destination or to serve as source. -/
def migForwarded (h : Header) (p : Packet) : Act Unit := do
  let s ← get
  let own := (ownEid s).toNat
  if migDst p = own then
    let id := s.cmd.nextTask
    let t : Task := { newTask id (hf h 32 2) 0x15 p 0x20 (liveCfg s) with origin := some (hSrc h, BitVec.ofNat 32 (hTask h)) }
    set { s with cmd := { s.cmd with nextTask := id + 1, tasks := s.cmd.tasks ++ [t] } }
    tryCatch (migRun t) fun x =>
      match x with
      | .mig va w => throw (.mig va w)
      | .fault va cause lvl w e => do
        let (r, s) := remoteFault (hSrc h) (hTask h) (hTag h) va cause lvl w e (← get)
        set (finishTask id r s)
      | x => modify (stopTask id x)
    modify (settleOrigin id)
  else migServe h p

/-- One row run of a SHARD_MIGRATE has been written. -/
def migGot (id : Nat) (m : RowMsg) (s : State) : State :=
  match taskOf s id with
  | some t => match t.phase with
    | .running (.migrate await rows targets) =>
      let key := m.block * 2 + (if m.recs then 1 else 0)
      let await := (await.map (fun x => if x.1 = key then (x.1, x.2 - m.rows) else x)).filter (fun x => x.2 != 0)
      let rows := rows + (if m.recs then 0 else m.rows)
      if await.isEmpty then settleOrigin id (finishOk id rows s) else setWork id (.migrate await rows targets) s
    | _ => s
  | none => s

/-- The running SHARD_MIGRATE whose rows a MIGRATE_DATA message carries, if it is one, with the local blocks they go to. -/
def migTaskOf (h : Header) (s : State) : Option (Task × List (Nat × Nat)) :=
  s.cmd.tasks.findSome? fun t =>
    if t.id == hTask h && migSrc t.pkt == hSrc h && t.op == 0x15 then
      match t.phase with | .running (.migrate _ _ targets) => some (t, targets) | _ => none
    else none

/-- Whether rows from a source have the shape of the table here: its strides, and rows of the block (R247, log entry 105). -/
def rowsFit (tab : Table) (m : RowMsg) : Bool :=
  m.bytes.length == m.rows * (if m.recs then tab.recStrideB else tab.wcStrideB) && decide (m.first + m.rows ≤ tab.blockRows m.block)

/-- MIGRATE_DATA arrives: rows of a SHARD_MIGRATE run here, or of a refresh, which a replica may refuse (R518). A fault at the replica
is answered by its FAULT_NOTICE alone. -/
def deliverMigrateData (h : Header) (payload : Bytes) : Act Unit := do
  let s ← get
  let tid := hf h 32 3
  let v : BitVec 16 := BitVec.ofNat 16 (hf h 36 2)
  let role := hf h 38 1
  let m : RowMsg := ⟨hf h 40 4, hf h 39 1 % 2 == 1, hf h 44 4, hf h 48 4, payload⟩
  if s.fab.migEnded.contains (hSrc h, BitVec.ofNat 32 (hTask h), BitVec.ofNat 32 (hTag h)) then return ()
  match migTaskOf h s with
  | some (t, targets) =>
    let a : Act Bool := do
      match tabGet (← get) (pTid t.pkt) with
      | none => return true
      | some tab =>
        need [bad (!rowsFit tab m) 5 26]
        migWrite t.pkt tab targets m
        return true
    let ok ← onBehalf (match t.origin with | some (e, _) => e | none => (ownEid s).toNat)
      (match t.origin with | some (_, n) => n.toNat | none => t.id) (hTag h) a
      (fun r => do modify (migEnd t.id r); return false)
    if ok then modify (migGot t.id m)
  | none =>
    let refuse : Act Unit := do
      modify (logErr { det := 0x1B, sev := 0, eid := hSrc h, tag := hTag h,
                       detail := fields 16 [(0, 3, tid), (4, 2, v.toNat), (8, 4, m.block)] })
      modify (sendTaskAck (hSrc h) (hTask h) (hTag h) 0x12 (rBadParam 5 0))
    let live := (tabGet s tid).bind (fun tab => (tab.version v).map (fun _ => tab))
    match live with
    | none => refuse
    | some tab =>
      let ack := fun (r : Result) =>
        (if r.status = stFault then return () else modify (sendTaskAck (hSrc h) (hTask h) (hTag h) 0x12 r) : Act Unit)
      onBehalf (hSrc h) (hTask h) (hTag h)
        (do let e ← readMapEnt 0xFFFF (hTag h) tab v.toNat m.block
            match e.role role with
            | some (_, lb) =>
              if tab.localBlocks ≤ lb then refuse
              else
                writeRows tid tab v.toNat lb m.recs m.first m.bytes
                ack ⟨stOk, 0, 0, BitVec.ofNat 32 m.rows⟩
            | none => refuse)
        ack

/-- A TASK_ACK of kind 0x12: the end of a forwarded migration, a source that lacks a block, or one copy of a refresh. -/
def migrationAck (src id : Nat) (r : Result) (s : State) : State :=
  match taskOf s id with
  | none => s
  | some t => match t.phase with
    | .running (.forwarded d) => if d = src then finishTask id r s else s
    | .running (.migrate _ _ _) => if r.status = stOk || migSrc t.pkt != src then s else migEnd id r s
    | .running (.refresh _ _ _ _ _ _) => refreshAck src (r.status == stOk) none id s
    | _ => s

/-! ### The commands -/

def execTableDefine (ring : Nat) (p : Packet) (s : State) : Host.Outcome State Fault Refusal :=
  leaves s (acceptPacket 0x10 tableDefineStep4 (beginWhole (fun t => do tableDefine t; modify (finishOk t.id 0))) ring p s)

def execTableCommit (ring : Nat) (p : Packet) (s : State) : Host.Outcome State Fault Refusal :=
  leaves s (acceptPacket 0x11 tableCommitStep4 (beginTask tableCommitCheck startTableCommit) ring p s)

def execTableRetire (ring : Nat) (p : Packet) (s : State) : Host.Outcome State Fault Refusal :=
  leaves s (acceptPacket 0x12 tableRetireStep4 (beginTask tableRetire startRetire) ring p s)

/-- SHARD_MAP_SET with its end: the work count is the entries written. -/
def shardMapWhole (t : Task) : Act Unit := do
  shardMapSet t
  modify (finishOk t.id (pf t.pkt 24 4))

def execShardMapSet (ring : Nat) (p : Packet) (s : State) : Host.Outcome State Fault Refusal :=
  leaves s (acceptPacket 0x13 shardMapStep4 (beginWhole shardMapWhole) ring p s)

def execTableSnapshot (ring : Nat) (p : Packet) (s : State) : Host.Outcome State Fault Refusal :=
  leaves s (acceptPacket 0x14 snapshotStep4 (beginTask snapshotCheck startSnapshot) ring p s)

def execShardMigrate (ring : Nat) (p : Packet) (s : State) : Host.Outcome State Fault Refusal :=
  leaves s (acceptPacket 0x15 migrateStep4 (beginWhole migrateAccept) ring p s)

/-- TABLE_COMMIT_POINT: a pending commit reaches its FTIME, or time lock. -/
def execTableCommitPoint (tid : Nat) (s : State) : Host.Outcome State Fault Refusal := leaves s (commitPoint tid s)

/-- VERSION_FREE. -/
def execVersionFree (tid : Nat) (version : BitVec 16) (s : State) : Host.Outcome State Fault Refusal :=
  leaves s (versionFree tid version s)

/-- Every commit and every retirement whose FTIME a step of FTIME has passed (R443). -/
def timePassed (s : State) : State :=
  let s := s.tab.tables.foldl (fun s e => commitPoint e.1 s) s
  s.tab.tables.foldl (fun s e => e.2.versions.foldl (fun s v => versionFree e.1 v.ver s) s) s

end Sys2Proof.Machine
end

