-- ==== Sys2Proof/Machine/Spill.lean ====
section
/-! DEFINITION. The spillway: spill slots of 2 KiB in the scratchpad and in device memory (R143 to R151), and progress as the
watchdog sees it (R299). -/

namespace Sys2Proof.Machine

/-! ### Slots -/

/-- L and H of R150. -/
def llsSlots (s : State) : Nat := bitsNat s.regs.spillCtl 16 8 * 512
def hbmSlots (s : State) : Nat := bitsNat s.regs.spillCtl 32 16 * 32768

/-- Every slot in use or reserved. -/
def bagSlots (s : State) : List Nat :=
  s.cmd.tasks.flatMap fun t => match t.phase with
    | .running (.lookup l) => l.bags.flatMap (·.slots)
    | _ => []

def usedSlots (s : State) : List Nat :=
  s.hold.lists.flatMap (fun l => l.bags.flatMap (·.slots)) ++ bagSlots s ++ s.grad.grads.flatMap (·.slots) ++
  s.hold.kept.flatMap (·.slots) ++ s.hold.keptReq.flatMap (·.slots)

/-- The first `n` numbers from `k` on, below `top`, that are not in `used`. -/
def firstFree (used : List Nat) (top : Nat) : Nat → Nat → Nat → List Nat
  | 0, _, _ => []
  | _, _, 0 => []
  | fuel + 1, k, n + 1 =>
    if top ≤ k then []
    else if used.contains k then firstFree used top fuel (k + 1) (n + 1)
    else k :: firstFree used top fuel (k + 1) n

/-- `n` free slots, the LLS part first; none where there are not so many. -/
def takeSlots (n : Nat) (s : State) : Option (List Nat) :=
  let used := usedSlots s
  let l := firstFree used (llsSlots s + hbmSlots s) (used.length + n) 0 n
  if l.length = n then some l else none

/-- `n` free slots of the HBM part. -/
def takeHbmSlots (n : Nat) (s : State) : Option (List Nat) :=
  let used := usedSlots s
  let l := firstFree used (llsSlots s + hbmSlots s) (used.length + n) (llsSlots s) n
  if l.length = n then some l else none

/-- The device virtual address of a slot of the HBM part. -/
def slotVa (s : State) (k : Nat) : Nat := bitsNat s.regs.spillBase 16 36 * 65536 + (k - llsSlots s) * 2048

/-- Where a slot lies: the scratchpad, or the HBM part through the spillway's translations (R146). -/
def slotPieces (s : State) (k : Nat) : Option (List (Place × Nat)) :=
  if k < llsSlots s then some [(.scratch (k * 2048), 2048)]
  else storePieces s.xl.spillStore 4 (slotVa s k) 2048

/-- The record of a slot that cannot be reached (R146). -/
def slotLost (k : Nat) : Act Unit := do
  let s ← get
  let idx ← logAct { det := 0x0A, sev := 2, address := slotVa s k, action := 0x0A }
  stop (.fail (rHw 0x0A idx))

/-- The pieces of a slot, all of whose units answer. -/
def slotReady (k : Nat) : Act (List (Place × Nat)) := do
  let s ← get
  match slotPieces s k with
  | none => slotLost k; return []
  | some ps => if ps.all (pieceUp s) then return ps else do slotLost k; return []

/-- A slot that cannot be written or read back gets a record that names it, beside that of the poisoned line (R146, R357). -/
def slotAct {α : Type} (k : Nat) (a : Act α) : Act α :=
  tryCatch a fun x => do
    match x with
    | .poison _ =>
      let s ← get
      let idx ← logAct { det := 0x08, sev := 2, address := slotVa s k, action := 0x07 }
      throw (.fail (rHw 0x08 idx))
    | x => throw x

def slotRead (k : Nat) : Act Bytes := do
  let ps ← slotReady k
  slotAct k (readPieces ps)

/-- Whether a slot cannot be read back: a unit of it does not answer, or a line of it is poisoned. -/
def slotBad (s : State) (k : Nat) : Bool :=
  match slotPieces s k with
  | none => true
  | some ps => ps.any (fun x => !pieceUp s x || (match x.1 with
    | .dev a => (linesOf a x.2).any (s.mem.poison.contains ·)
    | _ => false))

/-- Whether the memory under a slot does not answer. -/
def slotDown (s : State) (k : Nat) : Bool := (slotPieces s k).any (fun ps => ps.any (fun x => !pieceUp s x))

/-- A write of whole lines clears their poison (R357). -/
def unpoison (x : Place × Nat) (s : State) : State :=
  match x.1 with
  | .dev a => { s with mem := { s.mem with poison := s.mem.poison.filter (fun l => !(linesOf a x.2).contains l) } }
  | _ => s

/-- Store a kept list in its slots (R171): how it is packed, the spec does not say, so the slots' bytes are free. Whether every slot
could be written. -/
def keepSlots (slots : List Nat) : Act Bool :=
  tryCatch (do
    for k in slots do
      let ps ← slotReady k
      modify (fun s => ps.foldl (fun s x => freePlace x.1 x.2 (unpoison x s)) s)
    return true) fun _ => return false

/-- Read a kept list back from its slots: whether every slot could be read. -/
def keptRead (slots : List Nat) : Act Bool :=
  tryCatch (do
    for k in slots do
      let _ ← slotRead k
    return true) fun _ => return false

def slotWrite (k : Nat) (b : Bytes) : Act Unit := do
  let ps ← slotReady k
  slotAct k (writePieces ps b)

/-! ### Groups (R130) -/

/-- Groups that a bag or gradient of width w spans. -/
def spanOf (w : Nat) : Nat := ceilDiv w 256

/-- One group: 256 sums, then 256 compensations. -/
def groupBytes (l : List (F32 × F32)) : Bytes :=
  padTo 1024 (f32Bytes (l.map (·.1))) ++ padTo 1024 (f32Bytes (l.map (·.2)))

def groupOf (n : Nat) (b : Bytes) : List (F32 × F32) := (f32List n b).zip (f32List n (b.drop 1024))

/-- Copy a bag's sums into slots. -/
def spillSums : List Nat → List (F32 × F32) → Act Unit
  | [], _ => return ()
  | k :: t, l => do
    slotWrite k (groupBytes (l.take 256))
    spillSums t (l.drop 256)

/-- Copy them back. -/
def restoreSums : List Nat → Nat → Act (List (F32 × F32))
  | [], _ => return []
  | k :: t, n => do
    let b ← slotRead k
    let rest ← restoreSums t (n - 256)
    return groupOf (min n 256) b ++ rest

/-- w sums and compensations of +0. -/
def zeroSums (w : Nat) : List (F32 × F32) := List.replicate w (0, 0)

/-! ### Counters (R151) and touches -/

def poolCtr (h : HolderState) : Nat → BitVec 32
  | 0 => h.spilled
  | 1 => h.restored
  | _ => h.early

def setPoolCtr (h : HolderState) (v : BitVec 32) : Nat → HolderState
  | 0 => { h with spilled := v }
  | 1 => { h with restored := v }
  | _ => { h with early := v }

/-- Count a spilled bag (0), a restored bag (1) or an early partial sum (2). -/
def poolCount (k : Nat) (w : Who) (s : State) : State :=
  let c := poolCtr s.hold k
  let h := setPoolCtr s.hold (satAdd c 1) k
  if satHits c 1 then satTask w { s with hold := { h with poolSat := h.poolSat ||| (1#3 <<< k) } } else { s with hold := h }

/-- The next number in the order of touches. -/
def touch (s : State) : Nat × State := (s.hold.clock, { s with hold := { s.hold with clock := s.hold.clock + 1 } })

/-! ### Progress and degradation -/

/-- Whether a task comes from a fill ring (R37). -/
def isFill (s : State) (t : Task) : Bool := t.ring != 0 && (ringGet s t.ring).cls == 1

/-- A waiting task took a step (R299). -/
def progress (s : State) : State := { s with strm := { s.strm with wdogSince := tick s } }

/-- Tasks that run while a resource is repaired or withdrawn complete with DEGRADED (R467). -/
def degradeTasks (det : Nat) (idx : BitVec 16) (s : State) : State :=
  { s with cmd := { s.cmd with tasks := s.cmd.tasks.map fun t =>
      match t.phase with
      | .running _ => { t with degraded := t.degraded.orElse fun _ => some (BitVec.ofNat 8 det, idx) }
      | _ => t } }

end Sys2Proof.Machine
end

