-- ==== Sys2Proof/Machine/Berm.lean ====
section
/-! DEFINITION. The berm's cache part: sectors, sets, allocation, frequency, pins and speculative rows (R255 to R276), and what
writers of working copies do to it (R272, R273). -/

namespace Sys2Proof.Machine

/-! ### Sets and ways (R255, R256) -/

def bermSets (s : State) : Nat := (s.berm.size - s.berm.share) * 4096

/-- The set of a granule. -/
def setOfGranule (s : State) (g : Nat) : Nat := (g ^^^ (g / 2 ^ 17) ^^^ (g / 2 ^ 34)) % bermSets s

def sectorsAt (s : State) (k : Nat) : List Sector := (smapGet s.berm.sets k).getD []

def setSectors (k : Nat) (l : List Sector) (s : State) : State :=
  { s with berm := { s.berm with sets := if l.isEmpty then smapDel s.berm.sets k else smapSet s.berm.sets k l } }

/-- Whether a sector caches a granule of a table's version slot. -/
def Sector.is (x : Sector) (tid slot g : Nat) : Bool := x.g == g && x.tid == tid && x.slot == slot

def findSector (s : State) (tid slot g : Nat) : Option Sector :=
  if bermSets s = 0 then none else (sectorsAt s (setOfGranule s g)).find? (·.is tid slot g)

def mapSector (tid slot g : Nat) (f : Sector → Sector) (s : State) : State :=
  let k := setOfGranule s g
  setSectors k ((sectorsAt s k).map (fun x => if x.is tid slot g then f x else x)) s

/-! ### Macros

The scratchpad lies in the berm's first macros; a cache macro holds one way of 2,048 sets (log entry 11). -/

def bermMacros (s : State) : Nat := s.berm.size * 32
def scratchMacros (s : State) : Nat := s.berm.share * 32

/-- The macro that holds a way of a set. -/
def macroOf (s : State) (k way : Nat) : Nat := scratchMacros s + way * ((s.berm.size - s.berm.share) * 2) + k / 2048

/-- A macro that serves no sectors: withdrawn, or drained for its test. -/
def macroOut (s : State) (m : Nat) : Bool :=
  s.berm.withdrawn.contains m || (match s.berm.test with | some t => t.unit == m && !t.spare | none => false)

/-- A way of a set that is free to take a sector. -/
def freeWay (s : State) (k : Nat) : Option Nat :=
  (List.range 16).find? (fun w => !macroOut s (macroOf s k w) && !(sectorsAt s k).any (fun x => x.way == w))

/-! ### Victims (R261, R266) -/

/-- The least sector of a list under an order. -/
def leastSector (lt : Sector → Sector → Bool) : List Sector → Option Sector
  | [] => none
  | x :: t => match leastSector lt t with
    | none => some x
    | some y => if lt y x then some y else some x

def specVictim (l : List Sector) : Option Sector :=
  leastSector (fun x y => decide (x.filled < y.filled)) (l.filter (fun x => x.spec && !x.hot && !x.pin && !x.pending))

def ordinaryVictim (l : List Sector) : Option Sector :=
  leastSector (fun x y => decide (x.freq < y.freq) || (x.freq == y.freq && decide (x.lastUse < y.lastUse)))
    (l.filter (fun x => !x.spec && !x.hot && !x.pin && !x.pending))

/-- Allocate a pending sector for a granule, where a way is free or a sector may go: speculative victims first unless the new
sector is itself speculative. -/
def allocSector (tid slot g : Nat) (spec pin : Bool) (bringer : Option (Nat × BitVec 32)) (w : Who) (s : State) : Option State :=
  let k := setOfGranule s g
  let l := sectorsAt s k
  let put := fun (way : Nat) (l : List Sector) (s : State) =>
    let (c, s) := touch s
    setSectors k (l ++ [(⟨g, tid, slot, 0, 0, 0, spec, false, pin, true, c, c, way, bringer⟩ : Sector)]) s
  match freeWay s k with
  | some way => some (put way l s)
  | none =>
    let v := if spec then ordinaryVictim l else (specVictim l).orElse fun _ => ordinaryVictim l
    match v with
    | none => none
    | some v =>
      let s := bermCount 4 1 w s
      let s := if v.spec then bermCount 3 1 w s else s
      some (put v.way (l.filter (fun x => x.way != v.way)) s)

/-! ### Frequency and hot sectors (R259, R264, R265) -/

/-- Sectors of a set that are hot or pinned. -/
def heldSectors (l : List Sector) : Nat := (l.filter (fun x => x.hot || x.pin)).length

/-- Sectors of a set that are hot or pinned, those that a macro test has drained and will refill among them (R277). -/
def heldAt (s : State) (k : Nat) : Nat :=
  let l := sectorsAt s k
  let away : Nat × Sector → Bool := fun x => x.1 == k && !l.any (fun y => (y.hot || y.pin) && y.is x.2.tid x.2.slot x.2.g)
  heldSectors l + ((s.berm.test.map (fun t => (t.drained.filter away).length)).getD 0)

/-- Add a window count to a sector, which may make it hot. -/
def countSector (tid slot g count : Nat) (w : Who) (s : State) : State :=
  match findSector s tid slot g with
  | none => s
  | some x =>
    let s := if satHits x.freq count then satTask w { s with berm := { s.berm with sat := s.berm.sat ||| (1#11 <<< 10) } } else s
    let freq := satAdd x.freq count
    let hot := decide (s.berm.threshold < freq) && s.berm.threshold != 0 && !x.hot && !x.pin &&
      decide (heldAt s (setOfGranule s g) < 12)
    let s := mapSector tid slot g (fun x => { x with freq := freq, hot := x.hot || hot }) s
    if hot then bermCount 5 1 w s else s

/-! ### Rows and their granules (R257) -/

/-- The granules of a byte range: (granule, first byte in it, bytes). -/
def granules (a n : Nat) : List (Nat × Nat × Nat) :=
  (List.range ((a + n - 1) / 256 + 1 - a / 256)).map fun k =>
    let g := a / 256 + k
    let lo := max a (g * 256)
    (g, lo - g * 256, min (a + n) (g * 256 + 256) - lo)

/-- Whether every piece of [lo, lo + n) of a sector is valid. -/
def piecesValid (x : Sector) (lo n : Nat) : Bool :=
  (List.range 4).all (fun p => !(decide (lo < p * 64 + 64) && decide (p * 64 < lo + n)) || x.valid.getLsbD p)

/-- Replace the bytes of a range by those of the resident pieces of the row's sectors. -/
def overlayBerm (s : State) (tid slot a : Nat) (b : Bytes) : Bytes :=
  (granules a b.length).flatMap fun (g, lo, n) =>
    let part := (b.drop (g * 256 + lo - a)).take n
    match findSector s tid slot g with
    | none => part
    | some x =>
      let d := leBytes 256 x.data.toNat
      part.zipIdx.map fun (v, i) => if x.valid.getLsbD ((lo + i) / 64) then (d[lo + i]?).getD v else v

/-- Whether a fill of a sector is in flight. -/
def fillFlies (tid slot g : Nat) (s : State) : Bool :=
  s.hold.fetches.any (fun f => f.tid == tid && f.ver.toNat % 4 == slot && f.sectors.contains g)

/-- Install bytes in the invalid pieces they cover whole. The fill that brought them is over; another may still be in flight. -/
def installSector (tid slot g a : Nat) (b : Bytes) (s : State) : State :=
  let flies := fillFlies tid slot g s
  let (c, s) := touch s
  mapSector tid slot g (fun x =>
    let full := fun (p : Nat) => !x.valid.getLsbD p && decide (a ≤ g * 256 + p * 64) && decide (g * 256 + p * 64 + 64 ≤ a + b.length)
    let d := (List.range 4).foldl (fun d p =>
      if full p then patch d (p * 64) ((b.drop (g * 256 + p * 64 - a)).take 64) else d) (leBytes 256 x.data.toNat)
    let v := (List.range 4).foldl (fun (v : BitVec 4) p => if full p then v ||| (1#4 <<< p) else v) x.valid
    { x with data := BitVec.ofNat 2048 (leNat d), valid := v, pending := flies, lastUse := c, filled := c }) s

/-- A fill that a CUC write superseded is over: the sector stays as it is (R262). -/
def endFill (tid slot g : Nat) (s : State) : State :=
  let flies := fillFlies tid slot g s
  mapSector tid slot g (fun x => { x with pending := flies }) s

/-- A fill whose read failed is over: the sector goes, unless pieces of it are valid or another fill of it is in flight. -/
def abandonSector (w : Who) (tid slot g : Nat) (s : State) : State :=
  match findSector s tid slot g with
  | none => s
  | some x =>
    if x.valid = 0 && !fillFlies tid slot g s then bermDrop w (fun y => y.is tid slot g) s else endFill tid slot g s

/-- A write of working-copy bytes by a CUC of this engine reaches the resident sectors (R272); pending fills of them install
nothing more (R262). -/
def bermTake (tid slot a : Nat) (b : Bytes) (s : State) : State :=
  let s := (granules a b.length).foldl (fun s (g, lo, n) =>
    match findSector s tid slot g with
    | none => s
    | some _ =>
      mapSector tid slot g (fun x =>
        let part := (b.drop (g * 256 + lo - a)).take n
        let old := leBytes 256 x.data.toNat
        let whole := fun (p : Nat) => decide (lo ≤ p * 64) && decide (p * 64 + 64 ≤ lo + n)
        let takes := fun (p : Nat) => whole p || x.valid.getLsbD p
        let d := old.zipIdx.map fun (v, i) =>
          if lo ≤ i && i < lo + n && takes (i / 64) then (part[i - lo]?).getD v else v
        let v := (List.range 4).foldl (fun (v : BitVec 4) p => if whole p then v ||| (1#4 <<< p) else v) x.valid
        { x with data := BitVec.ofNat 2048 (leNat d), valid := v }) s) s
  let gs := (granules a b.length).map (·.1)
  let mark : Fetch → Fetch := fun f =>
    if f.tid = tid ∧ f.ver.toNat % 4 = slot then
      { f with stale := f.stale ++ f.sectors.filter (fun g => gs.contains g && !f.stale.contains g) }
    else f
  { s with hold := { s.hold with fetches := s.hold.fetches.map mark } }

/-! ### A holder's access to a row -/

/-- What an access to a row found: every sector a hit, the sectors it must fill, the state. -/
structure RowAccess where
  hit : Bool
  fill : List Nat
  st : State

/-- NO_BERM advice covers a granule (Table Xlate-17). -/
def noBerm (s : State) (g : Nat) : Bool := (adviceAt s 3 (g * 256)).isSome

/-- A hit by another task than the one that brought a sector in (R125). -/
def Sector.hitBy (x : Sector) (who : Nat × BitVec 32) : Sector := if x.bringer = some who then x else { x with bringer := none }

/-- One sector of a row that a look-up reads (R259, R260). -/
def demandSector (tid slot count : Nat) (noAlloc : Bool) (who : Nat × BitVec 32) (w : Who) (r : RowAccess) (x : Nat × Nat × Nat) : RowAccess :=
  let (g, lo, n) := x
  let s := r.st
  if bermSets s = 0 then { r with hit := false, st := bermCount 1 1 w s }
  else match findSector s tid slot g with
    | some y =>
      let s := countSector tid slot g count w (mapSector tid slot g (fun y => { y.hitBy who with spec := false }) s)
      if piecesValid y lo n then
        let (c, s) := touch s
        { r with st := bermCount 0 1 w (mapSector tid slot g (fun y => { y with lastUse := c }) s) }
      else
        { hit := false, fill := r.fill ++ [g], st := bermCount 1 1 w (mapSector tid slot g (fun y => { y with pending := true }) s) }
    | none =>
      let s := bermCount 1 1 w s
      if noAlloc || noBerm s g then { r with hit := false, st := s }
      else match allocSector tid slot g false false (some who) w s with
        | some s => { hit := false, fill := r.fill ++ [g], st := countSector tid slot g count w s }
        | none => { r with hit := false, st := bermCount 8 1 w s }

def demandRow (tid slot a n count : Nat) (noAlloc : Bool) (who : Nat × BitVec 32) (w : Who) (s : State) : RowAccess :=
  (granules a n).foldl (demandSector tid slot count noAlloc who w) ⟨true, [], s⟩

/-- A row is resident where every piece it needs is. -/
def rowResident (s : State) (tid slot a n : Nat) : Bool :=
  (granules a n).all (fun (g, lo, n) => (findSector s tid slot g).any (fun x => piecesValid x lo n))

/-- A LOOKAHEAD fill of a sector is in flight. -/
def specFlies (tid slot g : Nat) (s : State) : Bool :=
  s.hold.fetches.any (fun f => f.spec && f.tid == tid && f.ver.toNat % 4 == slot && f.sectors.contains g)

/-- One sector of a row that LOOKAHEAD fills (R266): an absent one is allocated, one with invalid pieces is filled, and a sector that
another LOOKAHEAD fill is already bringing counts once; none where the row is skipped. -/
def specSector (tid slot : Nat) (who : Nat × BitVec 32) (w : Who) (r : Option RowAccess) (x : Nat × Nat × Nat) : Option RowAccess :=
  r.bind fun r =>
    let g := x.1
    if bermSets r.st = 0 then none
    else match findSector r.st tid slot g with
      | some y =>
        if y.valid = 15#4 then some r
        else
          let s := mapSector tid slot g (fun y => { y with pending := true }) r.st
          some { hit := false, fill := r.fill ++ [g], st := if specFlies tid slot g s then s else bermCount 2 1 w s }
      | none =>
        let k := setOfGranule r.st g
        if noBerm r.st g || 8 ≤ ((sectorsAt r.st k).filter (·.spec)).length then none
        else (allocSector tid slot g true false (some who) w r.st).map fun s =>
          { hit := false, fill := r.fill ++ [g], st := bermCount 2 1 w s }

/-- The speculative fill of a row: resident, to be filled, or skipped. -/
def specRow (tid slot a n : Nat) (who : Nat × BitVec 32) (w : Who) (s : State) : Option RowAccess × State :=
  if bermSets s != 0 && rowResident s tid slot a n then (some ⟨true, [], s⟩, s)
  else match (granules a n).foldl (specSector tid slot who w) (some ⟨true, [], s⟩) with
  | some r => (some r, r.st)
  | none => (none, bermCount 9 1 w s)

/-- One sector of a row that BERM_PIN pins (R270): `hit` says that every sector so far changed. -/
def pinSector (tid slot : Nat) (w : Who) (r : RowAccess) (x : Nat × Nat × Nat) : RowAccess :=
  let g := x.1
  let s := r.st
  let refuse : RowAccess := { r with hit := false, st := bermCount 7 1 w s }
  if bermSets s = 0 then refuse
  else
    let full := decide (12 ≤ heldAt s (setOfGranule s g))
    match findSector s tid slot g with
    | some y =>
      if y.pin then { r with hit := false }
      else if full && !y.hot then refuse
      else { r with st := mapSector tid slot g (fun y => { y with pin := true, spec := false, bringer := none }) s }
    | none =>
      if full then refuse
      else match allocSector tid slot g false true none w s with
        | some s => { r with fill := r.fill ++ [g], st := s }
        | none => refuse

def pinRow (tid slot a n : Nat) (w : Who) (s : State) : RowAccess :=
  (granules a n).foldl (pinSector tid slot w) ⟨true, [], s⟩

/-- Clear the pin mark of a sector that a macro test has drained: whether it had one. -/
def unpinDrained (tid slot g : Nat) (s : State) : Bool × State :=
  let hit : Nat × Sector → Bool := fun x => x.2.is tid slot g && x.2.pin
  (s.berm.test.any (fun t => t.drained.any hit),
   { s with berm := { s.berm with test := s.berm.test.map (fun t => { t with
       drained := (t.drained.map (fun x => if hit x then (x.1, { x.2 with pin := false }) else x)).filter (fun x => x.2.pin || x.2.hot) }) } })

/-- Clear the pin marks of a row: whether every sector changed. -/
def unpinRow (tid slot a n : Nat) (s : State) : Bool × State :=
  (granules a n).foldl (fun (ok, s) x =>
    let (had, s) := unpinDrained tid slot x.1 s
    match findSector s tid slot x.1 with
    | some y => (ok && (y.pin || had), mapSector tid slot x.1 (fun y => { y with pin := false }) s)
    | none => (ok && had, s)) (true, s)

/-- Rows that a cancelled task brought in, and that no other task has hit since, become speculative (R125, R268). -/
def bermUncount (who : Nat × BitVec 32) (s : State) : State :=
  let f : Sector → Sector := fun x =>
    if x.bringer = some who ∧ ¬ x.pin then { x with spec := true, freq := 0, hot := false, bringer := none } else x
  { s with berm := { s.berm with sets := s.berm.sets.map (fun e => (e.1, e.2.map f)) } }

/-! ### BERM_FLUSH (R274) -/

def bermFlushStep4 (_ : Byte) (p : Packet) : Checks := [bad (2 ≤ pf p 12 1) 2 12]

def bermFlushCheck (t : Task) : Act Unit := do
  need [bad (pTid t.pkt != 0xFFFFFF && (tabGet (← get) (pTid t.pkt)).isNone) 5 8]

/-- Whether a flush covers a sector. -/
def flushHits (p : Packet) (x : Sector) : Bool :=
  (pTid p == 0xFFFFFF || x.tid == pTid p) && (pf p 12 1 == 0 || x.spec)

def startBermFlush (t : Task) (s : State) : State :=
  let p := t.pkt
  let n := (s.berm.sets.map (fun e => (e.2.filter (flushHits p)).length)).sum
  let inScope : Fetch → Nat → Bool := fun f g => (findSector s f.tid (f.ver.toNat % 4) g).any (flushHits p)
  finishOk t.id n (bermForget (.task t.id) (flushHits p) (fetchDrop inScope s))

def execBermFlush (ring : Nat) (p : Packet) (s : State) : Host.Outcome State Fault Refusal :=
  leaves s (acceptPacket 0x62 bermFlushStep4 (beginTask bermFlushCheck startBermFlush) ring p s)

/-! ### Ageing (R263, R264) -/

def ageSector (threshold : BitVec 32) (x : Sector) : Sector :=
  let f := x.freq / 2
  { x with freq := f, hot := x.hot && threshold != 0 && !decide (f < threshold / 2) }

/-- BERM_AGEING. -/
def bermAgeing (s : State) : State :=
  if s.boot.inReset then s
  else
    let sets := s.berm.sets.map (fun e => (e.1, e.2.map (ageSector s.berm.threshold)))
    let hots := fun (m : SMap (List Sector)) => (m.map (fun e => (e.2.filter (·.hot)).length)).sum
    bermCount 6 (hots s.berm.sets - hots sets) .nobody { s with berm := { s.berm with sets := sets } }

def execBermAgeing (s : State) : Host.Outcome State Fault Refusal := leaves s (bermAgeing s)

end Sys2Proof.Machine
end

