-- ==== Sys2Proof/Machine/Streams.lean ====
section
/-! DEFINITION. Semaphores (R292 to R294), the culvert (R310, R311), relay chains (R303 to R307) and streams (R279 to R297). -/

namespace Sys2Proof.Machine

/-! ### Semaphores -/

def semGet (s : State) (n : Nat) : BitVec 32 := (smapGet s.strm.sems n).getD 0

def semPut (n : Nat) (v : BitVec 32) (s : State) : State :=
  { s with strm := { s.strm with sems := if v = 0 then smapDel s.strm.sems n else smapSet s.strm.sems n v } }

/-- Whether a SEM_WAIT's condition holds at a value (Table Cmd-13). -/
def semHolds (p : Packet) (v : BitVec 32) : Bool :=
  if pf p 10 1 = 0 then decide (pf p 12 4 ≤ v.toNat) else v.toNat == pf p 12 4

def isSemWait (n : Nat) (t : Task) : Bool :=
  match t.phase with
  | .running .semWait => pf t.pkt 8 2 == n
  | _ => false

/-- Take a waiter's decrement and complete it (R294). -/
def semTake (t : Task) (s : State) : State :=
  let n := pf t.pkt 8 2
  progress (finishOk t.id 0 (semPut n (semGet s n - BitVec.ofNat 32 (pf t.pkt 16 4)) s))

/-- Examine a semaphore's waiters in order of acceptance; a decrement is a change too, at which they are examined again. -/
def semWaiters (n : Nat) : Nat → State → State
  | 0, s => s
  | fuel + 1, s =>
    match s.cmd.tasks.find? (fun t => isSemWait n t && semHolds t.pkt (semGet s n)) with
    | some t => semWaiters n fuel (semTake t s)
    | none => s

/-- A semaphore has changed (R294). -/
def semExamine (n : Nat) (s : State) : State := semWaiters n s.cmd.tasks.length s

/-- Add to a semaphore, saturating (R292). -/
def semAdd (n k : Nat) (w : Who) (s : State) : State :=
  let s := if satHits (semGet s n) k then satTask w s else s
  semExamine n (semPut n (satAdd (semGet s n) k) s)

def startSemSet (t : Task) (s : State) : State :=
  let n := pf t.pkt 8 2
  finishOk t.id 0 (semExamine n (semPut n (BitVec.ofNat 32 (pf t.pkt 12 4)) s))

def execSemSet (ring : Nat) (p : Packet) (s : State) : Host.Outcome State Fault Refusal :=
  leaves s (acceptPacket 0x43 noStep4 (beginTask noCheck startSemSet) ring p s)

/-- The engine a SEM_SIGNAL names. -/
def semOwner (s : State) (p : Packet) : Nat := if pf p 10 2 = 0xFFFF then (ownEid s).toNat else pf p 10 2

/-- Signal a semaphore of an engine: at once here, else by SEM_OP; its message number. -/
def signalSem (id owner n k : Nat) (s : State) : Option (BitVec 32) × State :=
  if owner = (ownEid s).toNat then (none, semAdd n k (.task id) s)
  else
    let tag := match taskOf s id with | some t => t.pkt.tag.toNat | none => 0
    (some s.fab.nextMsg, sendMsg owner 0x32 id tag [(32, 2, n), (36, 4, k)] [] s)

def startSemSignal (t : Task) (s : State) : State :=
  let p := t.pkt
  let owner := semOwner s p
  if isLost s owner then finishTask t.id (rPeerLost owner) s
  else match signalSem t.id owner (pf p 8 2) (pf p 12 4) s with
    | (none, s) => finishOk t.id 0 s
    | (some m, s) => setWork t.id (.semSignal m) s

def execSemSignal (ring : Nat) (p : Packet) (s : State) : Host.Outcome State Fault Refusal :=
  leaves s (acceptPacket 0x44 noStep4 (beginTask noCheck startSemSignal) ring p s)

/-- SEM_OP arrives at the semaphore's owner. -/
def deliverSemOp (h : Header) (_ : Bytes) : Act Unit := modify (semAdd (hf h 32 2) (hf h 36 4) .nobody)

/-! ### The culvert -/

def culvertInline (p : Packet) : Bool := pflag p 8
def culvertLen (p : Packet) : Nat := pf p 16 2

def culvertStep4 (_ : Byte) (p : Packet) : Checks :=
  let n := culvertLen p
  let stray := ((List.range 32).map (· + 24)).find? (fun k => decide (24 + n ≤ k) && pf p k 1 != 0)
  [highAddr p 8, bad (n = 0 || 256 < n) 3 16] ++
  (if culvertInline p then [bad (32 < n) 3 16, bad stray.isSome 1 (stray.getD 24)]
   else [highAddr p 24, bad (pf p 24 8 = 0) 3 24]) ++
  [bad (2 ^ 52 < pf p 8 8 + n) 3 8, bad (!culvertInline p && decide (2 ^ 52 < pf p 24 8 + n)) 3 24]

/-- The payload bytes of an inline culvert write. -/
def inlineBytes (p : Packet) (n : Nat) : Bytes := (List.range n).map (fun k => BitVec.ofNat 8 (pf p (24 + k) 1))

/-- The source and destination of a culvert write overlap, which R310 forbids and no check refuses. -/
def culvertOverlaps (p : Packet) : Bool :=
  !culvertInline p && decide (pf p 24 8 < pf p 8 8 + culvertLen p) && decide (pf p 8 8 < pf p 24 8 + culvertLen p)

/-- Lines with a write that waits for the host to give them back (R391). -/
def heldLines (s : State) : List Nat := (s.host.backInv.filter (fun b => !b.write.isEmpty)).map (·.line)

/-- Do a deed once every write made so far is in memory: at once, where none waits. -/
def onceLanded (d : Deed) (f : State → State) (s : State) : State :=
  if (heldLines s).isEmpty then f s else { s with host := { s.host with landings := s.host.landings ++ [⟨heldLines s, d⟩] } }

/-- Every byte of a culvert write is in place: its semaphore, then its end. -/
def culvertDone (id : Nat) (s : State) : State :=
  match taskOf s id with
  | none => s
  | some t =>
    if t.phase != .running .landing then s
    else
      let s := if pf t.pkt 18 2 != 0xFFFF then semAdd (pf t.pkt 18 2) 1 (.task id) s else s
      finishOk id (culvertLen t.pkt) s

def culvertWhole (t : Task) : Act Unit := do
  let p := t.pkt
  let n := culvertLen p
  let ring := t.ring
  let tag := p.tag.toNat
  let dst := pf p 8 8
  let src := pf p 24 8
  translateNeeds ring tag (rangeNeeds dst n true 5 0 ++ (if culvertInline p then [] else rangeNeeds src n false 4 0))
  let b ← (if culvertInline p then return inlineBytes p n else readVa src n)
  writeVa dst b
  if culvertOverlaps p then modify (freeVa dst n)
  modify (gaugeBytes n)
  modify (setWork t.id .landing)
  modify (onceLanded (.culvert t.id) (culvertDone t.id))

def execCulvertWrite (ring : Nat) (p : Packet) (s : State) : Host.Outcome State Fault Refusal :=
  leaves s (acceptPacket 0x46 culvertStep4 (beginWhole culvertWhole) ring p s)

/-! ### The scratchpad window (R250) -/

def llsBytes (s : State) : Nat := bitsNat s.regs.spillCtl 16 8 * 2 ^ 20
def scratchTop (s : State) : Nat := s.berm.share * 2 ^ 24

/-- Write bytes that another engine's stream or chain aims at the scratchpad: they must lie in its window (R250, log entry 100). -/
def writeWindow (off : Nat) (b : Bytes) : Act Unit := do
  let s ← get
  if llsBytes s ≤ off ∧ off + b.length ≤ scratchTop s then writePlace (.scratch off) b
  else stop (.fail (rBadParam 3 20))

/-! ### Relay chains -/

/-- Fields of a hop entry (Table Stream-8). -/
def hopEid (e : BitVec 128) : Nat := bitsNat e 0 16
def hopSem (e : BitVec 128) : Nat := bitsNat e 16 16
def hopScratch (e : BitVec 128) : Bool := e.getLsbD 32
def hopBase (e : BitVec 128) : Nat := bitsNat e 64 64

/-- Whether a task uses a chain of this engine. -/
def chainUsed (s : State) (n : Nat) : Bool :=
  s.cmd.tasks.any fun t => match t.phase with
    | .running (.lookup _) => t.op == 0x22 && pf t.pkt 14 1 == 2 && pf t.pkt 36 2 == n
    | .running (.transfer r) => match smapGet s.strm.streams r.stream with
      | some x => x.desc.getLsbD 29 && bitsNat x.desc 48 16 == n
      | none => false
    | _ => false

def relaySetStep4 (_ : Byte) (p : Packet) : Checks :=
  [bad (255 < pf p 8 2) 3 8, bad (pf p 10 1 = 0 || 16 < pf p 10 1) 3 10, bad (pf p 11 1 = 1 && pf p 10 1 < 2) 3 11,
   bad (!([0, 16, 32, 64, 128, 256] : List Nat).contains (pf p 20 4)) 3 20, highAddr p 12, misaligned p 12 16]

/-- An entry's own checks: reserved fields, alignment, an EID named before. -/
def hopChecks (seen : List Nat) (e : BitVec 128) : Checks :=
  [bad (seen.contains (hopEid e)) 3 12, bad (bitsNat e 33 31 != 0) 1 12, bad (hopBase e % 64 != 0) 4 12]

def hopsChecks : List Nat → List (BitVec 128) → Checks
  | _, [] => []
  | seen, e :: t => hopChecks seen e ++ hopsChecks (hopEid e :: seen) t

/-- Send a hop every entry of a chain; a hop count of zero takes the chain from it (log entry 12). -/
def sendHops (t : Task) (dst n : Nat) (hops : List (BitVec 128)) (ring : Bool) (units : Nat) (s : State) : State :=
  if hops.isEmpty then
    sendMsg dst 0x33 t.id t.pkt.tag.toNat [(32, 2, n), (35, 1, 0)] (zeroBytes 16) s
  else
    hops.zipIdx.foldl (fun s (e, k) =>
      sendMsg dst 0x33 t.id t.pkt.tag.toNat [(32, 2, n), (34, 1, k), (35, 1, hops.length), (36, 1, if ring then 1 else 0), (37, 1, units)]
        (leBytes 16 e.toNat) s) s

/-- The hops a chain had and has no longer let go of it. -/
def dropHops (t : Task) (n : Nat) (keep : List Nat) (s : State) : State :=
  let old := match smapGet s.strm.chains n with | some c => c.hops.map hopEid | none => []
  (old.filter (fun e => !keep.contains e)).foldl (fun s e => sendHops t e n [] false 0 s) s

def relaySetWhole (t : Task) : Act Unit := do
  let p := t.pkt
  let n := pf p 8 2
  need [bad (chainUsed (← get) n) 6 8]
  let h ← readListHead t.ring p.tag.toNat (pf p 12 8) 8
  need ([bad (h.elem != 6) 7 12] ++ listHeadChecks h 12 ++ [bad (h.count != pf p 10 1) 3 10])
  let b ← readListPayload t.ring p.tag.toNat h 8 []
  let hops := (listElems 6 h.count b).map (BitVec.ofNat 128)
  need (hopsChecks [] hops)
  let s ← get
  need [bad (hops.any (fun e => peerVersion s (hopEid e) == 0x10)) 6 12]
  let ring := pf p 11 1 = 1
  let units := (if pf p 20 4 = 0 then 64 else pf p 20 4) / 16
  match (hops.map hopEid).find? (isLost s) with
  | some e => stop (.fail (rPeerLost e))
  | none =>
    modify (dropHops t n (hops.map hopEid))
    for e in hops do modify (sendHops t (hopEid e) n hops ring units)
    modify fun s => { s with strm := { s.strm with chains := smapSet s.strm.chains n ⟨hops, ring, units * 16⟩ } }
    modify (setWork t.id (.relaySet (hops.map hopEid) hops.length none))

def execRelayChainSet (ring : Nat) (p : Packet) (s : State) : Host.Outcome State Fault Refusal :=
  leaves s (acceptPacket 0x47 relaySetStep4 (beginWhole relaySetWhole) ring p s)

/-- A hop has answered a RELAY_CHAIN_SET: its acceptance is the acknowledgement of its last entry, its refusal `r` a TASK_ACK. -/
def relayAnswer (eid : Nat) (r : Option Result) (id : Nat) (s : State) : State :=
  match taskOf s id with
  | some t => match t.phase with
    | .running (.relaySet await hops refused) =>
      let await := await.filter (· != eid)
      let refused := refused.orElse fun _ => r
      if !await.isEmpty then setWork id (.relaySet await hops refused) s
      else match refused with
        | none => finishOk id hops s
        | some r =>
          let n := pf t.pkt 8 2
          let s := dropHops t n [] s
          finishTask id { r with work := 0, dropped := 0 } { s with strm := { s.strm with chains := smapDel s.strm.chains n } }
    | _ => s
  | none => s

/-- Entries that name this engine. -/
def ownEntries (s : State) : Nat :=
  (s.strm.hops.filter (fun h => h.entries.any (fun e => hopEid e.2 == (ownEid s).toNat))).length

/-- This engine's own entry of a chain. -/
def ownEntry (s : State) (h : Hop) : Option (Nat × BitVec 128) := h.entries.find? (fun e => hopEid e.2 == (ownEid s).toNat)

def putHop (h : Hop) (s : State) : State :=
  { s with strm := { s.strm with hops := s.strm.hops.filter (fun x => !(x.owner == h.owner && x.chain == h.chain)) ++ [h] } }

/-- RELAY_HOP_SET arrives: the hop stores the entry, or refuses its own. -/
def deliverRelayHopSet (h : Header) (payload : Bytes) : Act Unit := do
  let s ← get
  let owner := hSrc h
  let n := hf h 32 2
  let count := hf h 35 1
  let e : BitVec 128 := BitVec.ofNat 128 (leField payload 0 16)
  let old := s.strm.hops.find? (fun x => x.owner == owner && x.chain == n)
  let drop : Act Unit := modify fun s =>
    { s with strm := { s.strm with hops := s.strm.hops.filter (fun x => !(x.owner == owner && x.chain == n)) } }
  if count = 0 then drop
  else
    let mine := hopEid e = (ownEid s).toNat
    let held := (old.bind (ownEntry s)).isSome
    let full := mine && !held && decide (1024 ≤ ownEntries s)
    let outside := mine && hopScratch e && !(decide (llsBytes s ≤ hopBase e) && decide (hopBase e < scratchTop s))
    if full || outside then
      drop
      modify (sendTaskAck owner (hTask h) (hTag h) 0x11 (if full then rBusy 6 else rBadParam 3 12))
    else
      let entries := if hf h 34 1 = 0 then [] else match old with | some x => x.entries | none => []
      modify (putHop ⟨owner, n, count, hf h 36 1 % 2 == 1, hf h 37 1, smapSet entries (hf h 34 1) e, []⟩)
      if owner = (ownEid s).toNat && hf h 34 1 + 1 = count then modify (relayAnswer owner none (hTask h))

/-- Write bytes at a hop's base. -/
def hopWrite (e : BitVec 128) (off : Nat) (b : Bytes) : Act Unit :=
  if hopScratch e then writeWindow (hopBase e + off) b else writeVa (hopBase e + off) b

/-- A unit is in place at this hop: its semaphore, then word to the owner, with SAT where the addition saturated (R292, R305). -/
def hopDone (owner task tag unit sem : Nat) (s : State) : State :=
  let sat := sem != 0xFFFF && satHits (semGet s sem) 1
  let s := if sem = 0xFFFF then s else semAdd sem 1 .nobody s
  sendTaskAck owner task tag 0x11 ⟨stOk, if sat then 1 else 0, 0, BitVec.ofNat 32 unit⟩ s

/-- One chunk of a unit: its offset from the hop base, whether it is the unit's last, its bytes. -/
def cutChunks (k : Nat) : Nat → Nat → Bytes → List (Nat × Bool × Bytes)
  | 0, _, _ => []
  | fuel + 1, off, b =>
    if b.length ≤ k then [(off, true, b)] else (off, false, b.take k) :: cutChunks k fuel (off + k) (b.drop k)

/-- Send a chunk toward a hop (Table Fab-4). -/
def sendChunk (dst task tag chain origin unit left : Nat) (c : Nat × Bool × Bytes) (s : State) : State :=
  sendMsg dst 0x31 task tag [(32, 2, chain), (34, 1, origin), (36, 8, c.1), (44, 4, unit), (48, 1, if c.2.1 then 1 else 0), (49, 1, left)]
    c.2.2 s

/-- Pass on a chunk of another engine's task. -/
def passChunk (dst task tag chain origin unit left : Nat) (c : Nat × Bool × Bytes) (s : State) : State :=
  setKept s.fab.nextMsg (fun m => { m with passed := true }) (sendChunk dst task tag chain origin unit left c s)

/-- Inject a unit into a chain (R305): the hops it has still to reach. In a ring the owner writes its own copy first, which is one of
them where it waits for the host. No unit enters a chain that has lost a hop (R307). -/
def injectUnit (id chain unit off : Nat) (b : Bytes) : Act (List Nat) := do
  let s ← get
  let own := (ownEid s).toNat
  let tag := match taskOf s id with | some t => t.pkt.tag.toNat | none => 0
  match smapGet s.strm.chains chain with
  | none => return []
  | some c =>
    let k := min 65536 (c.chunkKib * 1024)
    let chunks := cutChunks k (b.length / k + 1) off b
    let eids := c.hops.map hopEid
    let n := eids.length
    match eids.find? (isLost s) with
    | some e => stop (.fail (rPeerLost e))
    | none => pure ()
    if c.ring then
      match c.hops.findIdx? (fun e => hopEid e == own) with
      | none => return []
      | some h =>
        let e := (c.hops[h]?).getD 0
        hopWrite e off b
        modify (gaugeBytes b.length)
        let held := !(heldLines (← get)).isEmpty
        if held then modify (onceLanded (.hop own id tag unit (hopSem e)) (fun s => s))
        else if hopSem e != 0xFFFF then modify (semAdd (hopSem e) 1 (.task id))
        let next := (eids[(h + 1) % n]?).getD 0
        for x in chunks do modify (sendChunk next id tag chain h unit (n - 2) x)
        return eids.filter (fun e => e != own || held)
    else
      for x in chunks do modify (sendChunk ((eids[0]?).getD 0) id tag chain 0 unit (n - 1) x)
      return eids

/-- The hop data that a chunk belongs to: in a ring the chain whose hop `origin` is its owner, else the one whose previous hop, or
owner, sent it. -/
def chunkHop (s : State) (src chain origin : Nat) : Option Hop :=
  let cand := s.strm.hops.filter (fun h => h.chain == chain && (ownEntry s h).isSome)
  let fits : Hop → Bool := fun h =>
    if h.ring then ((smapGet h.entries origin).map hopEid) == some h.owner
    else match ownEntry s h with
      | some (0, _) => h.owner == src
      | some (k, _) => ((smapGet h.entries (k - 1)).map hopEid) == some src
      | none => false
  (cand.find? fits).orElse fun _ => cand.head?

/-- Tell the originating engine that work for its task failed. A fault has gone to another engine in a FAULT_NOTICE already. -/
def ackFailure (dst task tag kind : Nat) (r : Result) (s : State) : State :=
  if r.status = stFault && dst != (ownEid s).toNat then s else sendTaskAck dst task tag kind r s

/-- Change what this engine holds of an owner's chain. -/
def hopMap (owner chain : Nat) (f : Hop → Hop) (s : State) : State :=
  { s with strm := { s.strm with hops := s.strm.hops.map (fun x => if x.owner = owner ∧ x.chain = chain then f x else x) } }

/-- Write a chunk at this hop: whether it could be. A failure is told to the owner, and spoils the unit here. -/
def writeChunk (x : Hop) (e : BitVec 128) (h : Header) (payload : Bytes) : Act Unit :=
  onBehalf x.owner (hTask h) (hTag h) (do hopWrite e (hf h 36 8) payload; modify (gaugeBytes payload.length)) (fun r => do
    modify (ackFailure x.owner (hTask h) (hTag h) 0x11 r)
    modify (hopMap x.owner x.chain (fun y => { y with failed := (hTask h, hf h 44 4) :: y.failed })))

/-- The last chunk of a unit has been written here: the unit is in place, unless a chunk of it failed. -/
def unitEnds (x : Hop) (e : BitVec 128) (h : Header) (s : State) : State :=
  let u := (hTask h, hf h 44 4)
  let bad := s.strm.hops.any (fun y => y.owner == x.owner && y.chain == x.chain && y.failed.contains u)
  let s := hopMap x.owner x.chain (fun y => { y with failed := y.failed.filter (· != u) }) s
  if bad then s
  else onceLanded (.hop x.owner (hTask h) (hTag h) u.2 (hopSem e)) (hopDone x.owner (hTask h) (hTag h) u.2 (hopSem e)) s

/-- RELAY_CHUNK arrives: write, forward, signal, and tell the owner of a unit in place (R305, R307). -/
def deliverRelayChunk (h : Header) (payload : Bytes) : Act Unit := do
  let s ← get
  let chain := hf h 32 2
  let left := hf h 49 1
  match chunkHop s (hSrc h) chain (hf h 34 1) with
  | none => modify (logErr { det := 0x10, sev := 0, phys := 0xFFFF, eid := hSrc h })
  | some x =>
    match ownEntry s x with
    | none => return ()
    | some (k, e) =>
      writeChunk x e h payload
      if left != 0 then
        let next := ((smapGet x.entries ((k + 1) % x.count)).map hopEid).getD 0
        modify (passChunk next (hTask h) (hTag h) chain (hf h 34 1) (hf h 44 4) (left - 1)
          (hf h 36 8, hf h 48 1 % 2 == 1, payload))
      if hf h 48 1 % 2 == 1 then modify (unitEnds x e h)

/-! ### Stream descriptors (Table Stream-1) -/

def sd (d : BitVec 2048) (lo n : Nat) : Nat := bitsNat d (8 * lo) (8 * n)
def sSrcScratch (d : BitVec 2048) : Bool := d.getLsbD 24
def sDstScratch (d : BitVec 2048) : Bool := d.getLsbD 25
def sFullRemote (d : BitVec 2048) : Bool := d.getLsbD 26
def sEmptyRemote (d : BitVec 2048) : Bool := d.getLsbD 27
def sDstRemote (d : BitVec 2048) : Bool := d.getLsbD 28
def sDstRelay (d : BitVec 2048) : Bool := d.getLsbD 29
def tileLog2 (d : BitVec 2048) : Nat := if sd d 4 1 = 0 then 16 else sd d 4 1
def tileBytes (d : BitVec 2048) : Nat := 2 ^ tileLog2 d

def signed48 (x : Nat) : Int := if x < 2 ^ 47 then x else (x : Int) - 2 ^ 48

/-- Dimensions 1 and up that are in use: count and strides, the outermost count replaced. -/
def outerDims (d : BitVec 2048) (outer : Nat) : List (Nat × Int × Int) :=
  (List.range (sd d 2 1 - 1)).map fun k =>
    let o := 32 + 16 * k
    (if k + 2 = sd d 2 1 then outer else sd d o 4, signed48 (sd d (o + 4) 6), signed48 (sd d (o + 10) 6))

def innerCount (d : BitVec 2048) (outer : Nat) : Nat := if sd d 2 1 = 1 then outer else sd d 24 4

/-- The outermost count of a descriptor. -/
def outermost (d : BitVec 2048) : Nat := if sd d 2 1 = 1 then sd d 24 4 else sd d (32 + 16 * (sd d 2 1 - 2)) 4

/-- T of R280. -/
def transferLen (d : BitVec 2048) (outer : Nat) : Nat :=
  ((outerDims d outer).map (·.1)).foldl (· * ·) (innerCount d outer)

/-- First and last byte of a side's footprint; `pick` chooses the side's stride. -/
def footprint (d : BitVec 2048) (outer base : Nat) (pick : Nat × Int × Int → Int) : Int × Int :=
  let ext := (outerDims d outer).map (fun x => ((x.1 : Int) - 1) * pick x)
  ((base : Int) + (ext.map (min 0)).sum, (base : Int) + (innerCount d outer : Int) - 1 + (ext.map (max 0)).sum)

def srcFoot (d : BitVec 2048) (outer base : Nat) : Int × Int := footprint d outer base (fun x => x.2.1)
def dstFoot (d : BitVec 2048) (outer base : Nat) : Int × Int := footprint d outer base (fun x => x.2.2)

/-- Whether a footprint lies where R280 allows. -/
def footOk (lo hi : Int) (f : Int × Int) : Bool := decide (lo ≤ f.1) && decide (f.2 < hi)

def srcFootOk (s : State) (d : BitVec 2048) (outer base : Nat) : Bool :=
  if sSrcScratch d then footOk (llsBytes s) (scratchTop s) (srcFoot d outer base) else footOk 0 (2 ^ 52) (srcFoot d outer base)

def dstFootOk (s : State) (d : BitVec 2048) (outer base : Nat) : Bool :=
  if sDstScratch d && !sDstRemote d then footOk (llsBytes s) (scratchTop s) (dstFoot d outer base)
  else if sDstScratch d then footOk 0 (2 ^ 28) (dstFoot d outer base)
  else footOk 0 (2 ^ 52) (dstFoot d outer base)

/-- Small pages that a footprint overlaps. -/
def smallPages (f : Int × Int) : Nat := (f.2 / 65536 - f.1 / 65536 + 1).toNat

def srcHasPages (d : BitVec 2048) : Bool := !sSrcScratch d
def dstHasPages (d : BitVec 2048) : Bool := !sDstScratch d && !sDstRelay d

/-! ### STREAM_ARM -/

/-- Free tile buffer in KiB (R283). -/
def freeTileKib (s : State) : Nat := 14336 - (s.strm.streams.map (fun e => 2 * tileBytes e.2.desc / 1024)).sum

def armStep4 (_ : Byte) (p : Packet) : Checks :=
  [bad (4095 < pf p 8 2) 3 8, highAddr p 12, misaligned p 12 16, bad (pf p 20 4 != 256) 3 20]

/-- Offset of the first non-zero byte of ranges, in descriptor order. -/
def strayByte (d : BitVec 2048) : List (Bool × Nat × Nat) → Option Nat
  | [] => none
  | (on, lo, n) :: t => if on && sd d lo n != 0 then some lo else strayByte d t

/-- Reserved fields of a descriptor and fields without their flag (Table Stream-2). -/
def descStray (d : BitVec 2048) : Option Nat :=
  let dims := sd d 2 1
  if sd d 3 1 / 64 != 0 then some 3
  else strayByte d ([(!sDstRelay d, 6, 2), (!sFullRemote d, 28, 2), (!sEmptyRemote d, 30, 2)] ++
    (List.range 4).flatMap (fun k =>
      let o := 32 + 16 * k
      let off := decide (dims ≤ k + 1)
      [(off, o, 4), (off, o + 4, 6), (off, o + 10, 6)]) ++
    [(!sDstRemote d, 96, 2), (true, 99, 1)] ++ (List.range 8).map (fun k => (true, 116 + k, 1)))

/-- Range errors of a descriptor: the offset of the first. -/
def descRange (d : BitVec 2048) : Option Nat :=
  let dims := sd d 2 1
  if dims = 0 || 5 < dims then some 2
  else if sd d 4 1 != 0 && (sd d 4 1 < 10 || 22 < sd d 4 1) then some 4
  else if 15 < sd d 5 1 then some 5
  else if sd d 24 4 = 0 then some 24
  else match (List.range (dims - 1)).find? (fun k => sd d (32 + 16 * k) 4 == 0) with
    | some k => some (32 + 16 * k)
    | none => if 16 < sd d 98 1 then some 98 else none

/-- The checks of Table Stream-2 on the descriptor, up to the translation list. -/
def armChecks (s : State) (d : BitVec 2048) : Checks :=
  let c := fun (b : Bool) (r o : Nat) => bad b r (64 + o)
  let outer := outermost d
  let pages := (if srcHasPages d then smallPages (srcFoot d outer (sd d 8 8)) else 0) +
    (if dstHasPages d then smallPages (dstFoot d outer (sd d 16 8)) else 0)
  [c (sd d 0 2 != 1) 2 0, c (descRange d).isSome 3 ((descRange d).getD 0), c (descStray d).isSome 1 ((descStray d).getD 0),
   c (sDstRelay d && (sDstScratch d || sDstRemote d || (outerDims d outer).any (fun x => x.2.2 != 0))) 3 3,
   c (sDstRelay d && (smapGet s.strm.chains (sd d 6 2)).isNone) 5 6,
   c (decide (2 ^ 48 < transferLen d outer)) 3 24,
   c (!srcFootOk s d outer (sd d 8 8)) 3 8, c (!dstFootOk s d outer (sd d 16 8)) 3 16,
   c (sd d 104 8 % 16 != 0) 4 104, c ((sd d 104 8 == 0) != (sd d 112 4 == 0)) 3 104,
   c (sd d 112 4 != 0 && decide (sd d 98 1 < 16)) 3 98, c (decide (pages < sd d 98 1 + sd d 112 4)) 3 112]

/-- STREAM_ARM. The translation list is read only once every row of step 5 that needs no read has passed (R327); the resources come
last (R45). -/
def armWhole (t : Task) : Act Unit := do
  let p := t.pkt
  let ring := t.ring
  let tag := p.tag.toNat
  let n := pf p 8 2
  let old := smapGet (← get).strm.streams n
  need [bad (old.any (fun x => x.disarming.isNone)) 6 8]
  let b ← orFault ring tag ⟨pf p 12 8, false, 8, 0⟩ [] (orCrc 7 (readVa (pf p 12 8) 256))
  judgeCrc (crcHolds b) 7
  let d : BitVec 2048 := BitVec.ofNat 2048 (leNat b)
  need (armChecks (← get) d)
  let k := sd d 112 4
  need [bad (2 ^ 52 < sd d 104 8 + 8 * k + 4) 3 (64 + 104)]
  need [bad (pf p 24 2 = 0xFFFF && sFullRemote d) 3 24, bad (pf p 26 2 = 0xFFFF && sEmptyRemote d) 3 26]
  let l ← (if k = 0 then return [] else orFault ring tag ⟨sd d 104 8, false, 8, 0⟩ [] (orCrc 7 (readVa (sd d 104 8) (8 * k + 4))))
  if k != 0 then judgeCrc (crcHolds l) 7
  let s ← get
  if old.isSome then stop (.fail (rBusy 5))
  else if freeTileKib s < 2 * tileBytes d / 1024 then stop (.fail (resultOf stNoBuffer (min (freeTileKib s) (2 ^ 24 - 1))))
  else
    let x : Stream :=
      { desc := d, persistent := pflag p 8, full := BitVec.ofNat 16 (pf p 24 2), empty := BitVec.ofNat 16 (pf p 26 2),
        src := sd d 8 8, dst := sd d 16 8, outer := outermost d,
        xlist := (listElems 2 k l).map (BitVec.ofNat 64), srcFrames := true, dstFrames := true, disarming := none,
        lastStatus := 0, transfers := 0, transferSat := false, tilesDone := 0, waits := 0 }
    modify fun s => { s with strm := { s.strm with streams := smapSet s.strm.streams n x, past := smapDel s.strm.past n } }
    modify (finishOk t.id 0)

def execStreamArm (ring : Nat) (p : Packet) (s : State) : Host.Outcome State Fault Refusal :=
  leaves s (acceptPacket 0x40 armStep4 (beginWhole armWhole) ring p s)

/-! ### STREAM_REARM -/

def streamGet (s : State) (n : Nat) : Option Stream := smapGet s.strm.streams n

def streamMap (n : Nat) (f : Stream → Stream) (s : State) : State :=
  match streamGet s n with
  | some x => { s with strm := { s.strm with streams := smapSet s.strm.streams n (f x) } }
  | none => s

/-- Disarm a stream; what its query block still shows stays (R302). -/
def disarm (n : Nat) (s : State) : State :=
  match streamGet s n with
  | some x => { s with strm := { s.strm with streams := smapDel s.strm.streams n, past := smapSet s.strm.past n { x with disarming := none } } }
  | none => s

/-- The stream with a packet's replacements (R286, R328). -/
def rearmed (p : Packet) (x : Stream) : Stream :=
  { x with
    src := if pf p 12 8 = 0 then x.src else pf p 12 8
    dst := if pf p 20 8 = 0 then x.dst else pf p 20 8
    outer := if pf p 28 4 = 0 then x.outer else pf p 28 4
    srcFrames := x.srcFrames && pf p 12 8 == 0
    dstFrames := x.dstFrames && pf p 20 8 == 0 }

def rearmStep4 (_ : Byte) (p : Packet) : Checks := [highAddr p 12, highAddr p 20]

def rearmCheck (t : Task) : Act Unit := do
  let p := t.pkt
  let s ← get
  match streamGet s (pf p 8 2) with
  | none => stop (.fail (rBadParam 6 8))
  | some x =>
    let y := rearmed p x
    need [bad x.disarming.isSome 6 8, bad (!srcFootOk s x.desc y.outer y.src) 3 12, bad (!dstFootOk s x.desc y.outer y.dst) 3 20,
          bad (2 ^ 48 < transferLen x.desc y.outer) 3 28]

/-- Whether an earlier transfer of the same stream has not ended. -/
def rearmBlocked (t : Task) (s : State) : Bool :=
  s.cmd.tasks.any (fun u => decide (u.id < t.id) && u.op == 0x41 && pf u.pkt 8 2 == pf t.pkt 8 2 && !u.isDone)

def transferMap (id : Nat) (f : TransferRun → TransferRun) (s : State) : State :=
  mapTask id (fun t => match t.phase with
    | .running (.transfer r) => { t with phase := .running (.transfer (f r)) }
    | _ => t) s

def transferRunOf (t : Task) : Option TransferRun :=
  match t.phase with
  | .running (.transfer r) => some r
  | _ => none

def tileCount (d : BitVec 2048) (r : TransferRun) : Nat := ceilDiv (transferLen d r.outer) (tileBytes d)

/-- A stream's empty semaphore belongs to another engine. -/
def emptyAway (x : Stream) (s : State) : Bool := sEmptyRemote x.desc && sd x.desc 30 2 != (ownEid s).toNat

/-- Take 1 from the stream's empty semaphore, if it holds any. What another engine's semaphore holds, no message tells: whether the 1 is
taken there is open (log entry 101). -/
def takeEmpty (x : Stream) (s : State) : Bool × State :=
  let n := x.empty.toNat
  if x.empty = 0xFFFF then (true, s)
  else if emptyAway x s then let (d, s) := draw s; ((Config.freeByte d).getLsbD 0, s)
  else if semGet s n = 0 then (false, s)
  else (true, semExamine n (semPut n (semGet s n - 1) s))

/-! ### Waiting tasks (R298) -/

/-- A class-3 message of a task of this engine that has not left for want of credit. -/
def creditWait (s : State) (id ty : Nat) : Bool :=
  s.fab.kept.any (fun m => hTask m.header == id && hTyp m.header == ty && m.tries == 0 && !m.passed)

/-- A running transfer's next tile waits for the stream's empty semaphore. -/
def emptyWait (s : State) (r : TransferRun) : Bool :=
  (streamGet s r.stream).any fun x =>
    r.context.isSome && r.failing.isNone && decide (r.flight.length < 2) && decide (r.next < tileCount x.desc r) && x.empty != 0xFFFF &&
    (if emptyAway x s then r.waited else semGet s x.empty.toNat == 0)

/-- A primary has stopped taking a scatter's buckets: this engine, with one of them queued; another, which withholds credit, or may
have taken some that it has not added (R183). -/
def bucketWait (s : State) (t : Task) (r : ScatterRun) : Bool :=
  let own := (ownEid s).toNat
  creditWait s t.id 0x20 ||
  (s.grad.stalled && s.grad.buckets.any (fun b => b.src == own && b.task.toNat == t.id)) ||
  r.await.any (fun a => a.2 == 0x11 && a.1 != own && Config.primaryStalled a.1 (tick s))

/-- The tasks of Table Stream-4 that wait. -/
def isWaiting (s : State) (t : Task) : Bool :=
  match t.phase with
  | .running .semWait => true
  | .running (.transfer r) => emptyWait s r || creditWait s t.id 0x30 || creditWait s t.id 0x31
  | .running (.scatter r) => bucketWait s t r
  | .running (.lookup l) => (t.op == 0x20 && !l.windows.isEmpty && l.failing.isNone) || creditWait s t.id 0x31
  | _ => false

/-- A task is about to begin what it may have to wait in: where no task waits yet, the watchdog's period starts here (R299). -/
def waitStarts (s : State) : State := if s.cmd.tasks.any (isWaiting s) then s else progress s

/-- The engines that a stream needs: its destination, the owners of its semaphores, the hops of its chain (R297, R307). -/
def streamPeers (s : State) (x : Stream) : List Nat :=
  (if sDstRemote x.desc then [sd x.desc 96 2] else []) ++
  (if sFullRemote x.desc && x.full != 0xFFFF then [sd x.desc 28 2] else []) ++
  (if sEmptyRemote x.desc && x.empty != 0xFFFF then [sd x.desc 30 2] else []) ++
  (if sDstRelay x.desc then ((smapGet s.strm.chains (sd x.desc 6 2)).map (fun c => c.hops.map hopEid)).getD [] else [])

/-! ### Thread contexts (R37, R290)

A stream's task runs on the polder that holds the stream's tile buffer (log entry 14), in one of its 64 thread contexts. -/

def streamPolder (n : Nat) : Nat := n % 8

/-- Thread contexts that transfers hold. -/
def contextsHeld (s : State) (p : Task → TransferRun → Bool) : Nat :=
  (s.cmd.tasks.filter (fun t => (transferRunOf t).any (fun r => r.context.isSome && p t r))).length

/-- A context is free for a task: one of its polder's, and, for a fill task, within the quarter of the engine's 512. -/
def contextFree (s : State) (t : Task) (n : Nat) : Bool :=
  decide (contextsHeld s (fun _ r => r.context == some (streamPolder n)) < 64) &&
  (!isFill s t || decide (contextsHeld s (fun u _ => isFill s u) < 128))

/-- Count a transfer that has ended, and disarm its stream where it is not persistent (R285, R302). -/
def transferEnded (n : Nat) (status : Byte) (s : State) : State :=
  let s := streamMap n (fun x => { x with lastStatus := status, transfers := satAdd x.transfers 1,
                                          transferSat := x.transferSat || satHits x.transfers 1 }) s
  match streamGet s n with
  | some x => if x.persistent || x.disarming.isSome then s else disarm n s
  | none => s

/-- Start a transfer whose turn has come, where a context is free. One whose stream has been disarmed, or that needs a lost engine, ends
(R285, R297, log entry 102). -/
def startTransfer (t : Task) (r : TransferRun) (s : State) : State :=
  match streamGet s r.stream with
  | none => finishTask t.id (rBadParam 6 8) s
  | some x =>
    match (streamPeers s x).find? (isLost s) with
    | some e => transferEnded r.stream stPeerLost (finishTask t.id (rPeerLost e) s)
    | none =>
      if !contextFree s t r.stream then s
      else
        transferMap t.id (fun r => { r with context := some (streamPolder r.stream) })
          (streamMap r.stream (fun x => { x with tilesDone := 0 }) (waitStarts s))

/-- Start the transfers that can start, in the order of their acceptance (R285). -/
def streamSweep (s : State) : State :=
  s.cmd.tasks.foldl (fun s t => match t.phase with
    | .running (.transfer r) => if r.context.isSome || rearmBlocked t s then s else startTransfer t r s
    | _ => s) s

def startRearm (t : Task) (s : State) : State :=
  let n := pf t.pkt 8 2
  match streamGet s n with
  | none => finishTask t.id (rBadParam 6 8) s
  | some x =>
    let y := rearmed t.pkt x
    let r : TransferRun :=
      { stream := n, src := y.src, dst := y.dst, outer := y.outer, srcFrames := y.srcFrames, dstFrames := y.dstFrames,
        context := none, next := 0, signalled := 0, flight := [], bytes := 0, waited := false, spoiled := none, refused := false,
        failing := none }
    streamSweep (setWork t.id (.transfer r) (streamMap n (fun _ => y) s))

def execStreamRearm (ring : Nat) (p : Packet) (s : State) : Host.Outcome State Fault Refusal :=
  leaves s (acceptPacket 0x41 rearmStep4 (beginTask rearmCheck startRearm) ring p s)

/-! ### SEM_WAIT -/

def semWaitStep4 (_ : Byte) (p : Packet) : Checks :=
  [bad (2 ≤ pf p 10 1) 2 10, bad (pf p 12 4 < pf p 16 4) 3 16]

def startSemWait (t : Task) (s : State) : State :=
  let n := pf t.pkt 8 2
  if semHolds t.pkt (semGet s n) then semExamine n (semTake t s) else setWork t.id .semWait (waitStarts s)

def execSemWait (ring : Nat) (p : Packet) (s : State) : Host.Outcome State Fault Refusal :=
  leaves s (acceptPacket 0x45 semWaitStep4 (beginTask noCheck startSemWait) ring p s)

/-! ### Tiles -/

/-- The transfer of a stream that has started. -/
def activeTransfer (s : State) (n : Nat) : Option (Task × TransferRun) :=
  s.cmd.tasks.findSome? (fun t => (transferRunOf t).bind (fun r => if r.stream = n ∧ r.context.isSome then some (t, r) else none))

/-- Offsets of run k on both sides. -/
def runOffset : List (Nat × Int × Int) → Nat → Int × Int
  | [], _ => (0, 0)
  | (c, a, b) :: t, k =>
    let (x, y) := runOffset t (k / max 1 c)
    (x + (k % max 1 c : Nat) * a, y + (k % max 1 c : Nat) * b)

/-- The pieces of bytes [lo, hi) of a transfer: source address, destination address, length. -/
def tilePieces (d : BitVec 2048) (r : TransferRun) (lo hi : Nat) : List (Nat × Nat × Nat) :=
  let c := max 1 (innerCount d r.outer)
  (List.range ((hi - 1) / c + 1 - lo / c)).map fun j =>
    let k := lo / c + j
    let a := max lo (k * c)
    let (x, y) := runOffset (outerDims d r.outer) k
    (((r.src : Int) + x).toNat + (a - k * c), ((r.dst : Int) + y).toNat + (a - k * c), min hi (k * c + c) - a)

def tileStart (d : BitVec 2048) (i : Nat) : Nat := i * tileBytes d
def tileEnd (d : BitVec 2048) (r : TransferRun) (i : Nat) : Nat := min (transferLen d r.outer) ((i + 1) * tileBytes d)


/-- The translations that frames supply for the pages of a footprint from an address on, and the frames left over (R325, R326). -/
def frameXlats (hi : Int) : Int → List Word → List Xlat × List Word
  | _, [] => ([], [])
  | at_, e :: t =>
    if hi < at_ then ([], e :: t)
    else
      let code := bitsNat e 8 4
      let lg := levelLg (if code < 3 then code else 0)
      let base := at_.toNat / 2 ^ lg * 2 ^ lg
      let (xs, rest) := frameXlats hi ((base : Int) + 2 ^ lg) t
      let x : Xlat := ⟨base, lg, 2 ^ lg, pteBase e, pteW e, false, e⟩
      (if pteV e && decide (code < 3) then x :: xs else xs, rest)

/-- The translations a transfer takes from its descriptor (R328): source and destination. -/
def suppliedXlats (s : State) (x : Stream) (r : TransferRun) : List Xlat × List Xlat :=
  let d := x.desc
  if sd d 100 4 != s.xl.ptGen.toNat then ([], [])
  else
    let frames := (List.range (sd d 98 1)).map (fun k => (BitVec.ofNat 64 (sd d (124 + 8 * k) 8) : Word)) ++ x.xlist
    let sf := srcFoot d (outermost d) (sd d 8 8)
    let df := dstFoot d (outermost d) (sd d 16 8)
    let (a, rest) := if srcHasPages d then frameXlats sf.2 (sf.1 / 65536 * 65536) frames else ([], frames)
    let b := if dstHasPages d then (frameXlats df.2 (df.1 / 65536 * 65536) rest).1 else []
    (if r.srcFrames then a else [], if r.dstFrames then b else [])

/-- Translate a range through supplied frames, else through the cache or a walk. -/
def streamXlate (fr : List Xlat) : Nat → Nat → Nat → Bool → Act (List (Place × Nat))
  | 0, _, _, _ => return []
  | fuel + 1, va, n, write => do
    if n = 0 then return []
    else
      let x ← (match fr.find? (·.covers va) with
        | some x =>
          if write && !x.w then stop (.fault (va / 65536 * 65536) 2 ((x.lg - 16) / 9) true x.pte) else return x
        | none => demand va write)
      let k := min n (x.va + x.len - va)
      let rest ← streamXlate fr fuel (va + k) (n - k) write
      return (x.at va, k) :: rest

/-- The pages of the tiles from i on, for the fault scan. -/
def tileNeeds (d : BitVec 2048) (r : TransferRun) (i : Nat) : List Need :=
  ((List.range (tileCount d r)).filter (fun k => decide (i ≤ k))).flatMap fun k =>
    (tilePieces d r (tileStart d k) (tileEnd d r k)).flatMap fun (a, b, n) =>
      (if srcHasPages d then (rangeNeeds a n false 1 0).map (fun x => { x with off := tileStart d k }) else []) ++
      (if dstHasPages d && !sDstRemote d then (rangeNeeds b n true 1 0).map (fun x => { x with off := tileStart d k }) else [])

/-- A fault of a tile ends the access with the task's FAULT_ABORT (R295). -/
def orTileFault {α : Type} (ring tag off : Nat) (rest : List Need) (a : Act α) : Act α :=
  tryCatch a fun x => do
    match x with
    | .fault va cause lvl write e =>
      let (r, s) := raiseFault (← read).task ring tag ⟨va, write, 1, off⟩ cause lvl e rest (← get)
      set s
      stop (.fail r)
    | x => stop x

/-- Cut a string into messages' payloads with their offsets. -/
def cutPayload : Nat → Nat → Bytes → List (Nat × Bytes)
  | 0, _, _ => []
  | fuel + 1, off, b => if b.isEmpty then [] else (off, b.take 65536) :: cutPayload fuel (off + 65536) (b.drop 65536)

/-- Send the pieces of a tile to the destination engine: the messages' numbers. -/
def sendTile (t : Task) (d : BitVec 2048) (r : TransferRun) (i : Nat) : List ((Nat × Nat × Nat) × Bytes) → Nat → Act (List (BitVec 32))
  | [], _ => return []
  | ((_, b, n), bytes) :: rest, at_ => do
    let mut ids := []
    for (off, piece) in cutPayload (n / 65536 + 1) 0 bytes do
      let s ← get
      ids := ids ++ [s.fab.nextMsg]
      set (sendMsg (sd d 96 2) 0x30 t.id t.pkt.tag.toNat
        [(32, 8, b + off), (40, 1, if sDstScratch d then 1 else 0), (42, 2, r.stream), (44, 4, i), (48, 4, at_ + off)] piece s)
    let more ← sendTile t d r i rest (at_ + n)
    return ids ++ more

/-- Whether the footprints of a transfer's sides lie in one space and overlap (R288). -/
def feetOverlap (d : BitVec 2048) (r : TransferRun) : Bool :=
  let a := srcFoot d r.outer r.src
  let b := dstFoot d r.outer r.dst
  sSrcScratch d == sDstScratch d && decide (a.1 ≤ b.2) && decide (b.1 ≤ a.2)

/-- Whether two runs of a tile write the same byte. -/
def runsClash : List (Nat × Nat × Nat) → Bool
  | [] => false
  | (_, b, n) :: t => t.any (fun (_, c, m) => decide (b < c + m) && decide (c < b + n)) || runsClash t

/-- A list in an order that nothing fixes. -/
def freeOrder {α : Type} : List α → State → List α × State
  | [], s => ([], s)
  | x :: t, s =>
    let (l, s) := freeOrder t s
    let (d, s) := draw s
    let k := (Config.freeWord d).toNat % (l.length + 1)
    (l.take k ++ x :: l.drop k, s)

/-- Write a tile at this engine: its runs land in any order, and where the footprints overlap, what they leave is undefined
(R288, log entry 84). -/
def landTile (d : BitVec 2048) (r : TransferRun) (ps : List (Nat × Nat × Nat)) (dst : List (List (Place × Nat))) (bytes : List Bytes) :
    Act Unit := do
  let s ← get
  let (runs, s) := if runsClash ps then freeOrder (dst.zip bytes) s else (dst.zip bytes, s)
  set s
  for (pl, b) in runs do writePieces pl b
  if feetOverlap d r then
    modify fun s => dst.flatten.foldl (fun s x => freePlace x.1 x.2 s) s

/-- Move tile i: translate everything, read it, write it. Yields what must still be acknowledged. -/
def moveTile (t : Task) (x : Stream) (r : TransferRun) (i : Nat) : Act (List (BitVec 32)) := do
  let d := x.desc
  let ps := tilePieces d r (tileStart d i) (tileEnd d r i)
  let (fs, fd) := suppliedXlats (← get) x r
  let src ← ps.mapM fun (a, _, n) =>
    if sSrcScratch d then return [(Place.scratch a, n)] else streamXlate fs (rangeFuel n) a n false
  let local_ := !sDstRemote d && !sDstRelay d
  let dst ← ps.mapM fun (_, b, n) =>
    if !local_ then return []
    else if sDstScratch d then return [(Place.scratch b, n)] else streamXlate fd (rangeFuel n) b n true
  dst.forM needPieces
  let bytes ← src.mapM readPieces
  if local_ then
    landTile d r ps dst bytes
    return []
  else if sDstRemote d then sendTile t d r i (ps.zip bytes) 0
  else
    let eids ← injectUnit t.id (sd d 6 2) i (r.dst + tileStart d i) bytes.flatten
    return eids.map (BitVec.ofNat 32)

/-- Translations of up to xlate_ahead tiles beyond tile i are made ahead (R289, R323); a page that does not translate raises nothing yet. -/
def walkAhead (x : Stream) (r : TransferRun) (i : Nat) : Act Unit := do
  let d := x.desc
  let (fs, fd) := suppliedXlats (← get) x r
  let task := (← read).task
  let tiles := ((List.range (sd d 5 1)).map (i + 1 + ·)).filter (fun k => decide (k < tileCount d r))
  let ahead : List Xlat → Nat → Nat → State → State := fun fr a n s =>
    (rangeNeeds a n false 1 0).foldl (fun s x => if fr.any (·.covers x.va) then s else specLoad x.va task s) s
  for (a, b, n) in tiles.flatMap (fun k => tilePieces d r (tileStart d k) (tileEnd d r k)) do
    if srcHasPages d then modify (ahead fs a n)
    if dstHasPages d && !sDstRemote d then modify (ahead fd b n)

/-- A tile's bytes count as written at once here, and elsewhere once they are in place (R295). -/
def writtenHere (d : BitVec 2048) : Bool := !sDstRemote d && !sDstRelay d

/-- KiB written, rounded up. -/
def transferWork (r : TransferRun) : Nat := ceilDiv r.bytes 1024

/-- End a transfer with a result; one that has not started counts for nothing (R296). -/
def closeTransfer (id : Nat) (res : Result) (s : State) : State :=
  match (taskOf s id).bind transferRunOf with
  | none => s
  | some r =>
    let s := mapTask id (setResult { res with work := BitVec.ofNat 32 (transferWork r) }) s
    streamSweep (if r.context.isSome then transferEnded r.stream res.status s else s)

/-- End a transfer once its tiles in flight have landed; at once where a peer is lost. -/
def endTransfer (id : Nat) (res : Result) (s : State) : State :=
  match (taskOf s id).bind transferRunOf with
  | none => s
  | some r =>
    if r.flight.isEmpty || res.status == stPeerLost then closeTransfer id res s
    else transferMap id (fun r => { r with failing := some res }) s

/-- The transfer has moved and signalled everything. -/
def transferDone (id : Nat) (s : State) : State :=
  match taskOf s id with
  | none => s
  | some t => match transferRunOf t with
    | none => s
    | some r => closeTransfer id (okResult t (transferWork r) false false) s

/-- STREAM_TILE_WRITE (R287). -/
def tileWrite (n : Nat) (s : State) : State :=
  match activeTransfer s n, streamGet s n with
  | some (t, r), some x =>
    let d := x.desc
    if r.failing.isSome || 2 ≤ r.flight.length || tileCount d r ≤ r.next then s
    else
      match takeEmpty x s with
      | (false, s) =>
        if r.waited then s
        else transferMap t.id (fun r => { r with waited := true }) (streamMap n (fun x => { x with waits := satAdd x.waits 1 }) s)
      | (true, s1) =>
        let off := tileStart d r.next
        match (orTileFault t.ring t.pkt.tag.toNat off (tileNeeds d r (r.next + 1)) (moveTile t x r r.next)).go (some t.id) s1 with
        | (.ok ids, s2) =>
          let s2 := ((walkAhead x r r.next).go (some t.id) s2).2
          progress (transferMap t.id (fun q => { q with
            next := q.next + 1, waited := false, bytes := if writtenHere d then q.bytes + (tileEnd d r r.next - off) else q.bytes, flight := q.flight ++ [(r.next, ids)] }) s2)
        | (.error (.mig va w), _) => waitMig (some t.id) va w s
        | (.error (.fail res), s2) => endTransfer t.id res s2
        | (.error (.poison idx), s2) => endTransfer t.id (rHw 0x08 idx) s2
        | (.error x, s2) => stopTask t.id x s2
  | _, _ => s

def execStreamTileWrite (stream : Nat) (s : State) : Host.Outcome State Fault Refusal := leaves s (tileWrite stream s)

/-- Signal a stream's full semaphore for a tile: the message to wait for, if the owner is another engine. -/
def signalFull (id : Nat) (x : Stream) (s : State) : Option (BitVec 32) × State :=
  if x.full = 0xFFFF then (none, s)
  else signalSem id (if sFullRemote x.desc then sd x.desc 28 2 else (ownEid s).toNat) x.full.toNat 1 s

/-- STREAM_TILE_LANDED: the oldest tile in flight is in place (R287, R296). The signal of the last tile to a remote owner is
awaited as one more entry in flight. -/
def tileLanded (n : Nat) (s : State) : State :=
  match activeTransfer s n, streamGet s n with
  | some (t, r), some x =>
    if writesHeld s then s
    else match r.flight with
      | (i, []) :: rest =>
        let s := waitStarts s
        let pop := fun (more : List (Nat × List (BitVec 32))) (s : State) => transferMap t.id (fun r => { r with flight := rest ++ more }) s
        let after := fun (s : State) =>
          match (taskOf s t.id).bind transferRunOf with
          | none => s
          | some r =>
            if !r.flight.isEmpty then s
            else match r.failing with
              | some res => closeTransfer t.id res s
              | none => if tileCount x.desc r ≤ r.signalled then transferDone t.id s else s
        let cancelled := (r.failing.map (·.status)) == some stCancelled
        if tileCount x.desc r ≤ i || cancelled || r.spoiled.any (fun k => decide (k ≤ i)) then after (pop [] s)
        else
          let size := tileEnd x.desc r i - tileStart x.desc i
          let (m, s) := signalFull t.id x (pop [] s)
          let s := streamMap n (fun x => { x with tilesDone := x.tilesDone + 1 }) s
          let s := gaugeBytes size s
          let s := transferMap t.id (fun r => { r with
            signalled := r.signalled + 1, bytes := if writtenHere x.desc then r.bytes else r.bytes + size }) s
          let s := match m with
            | some m => transferMap t.id (fun r => { r with flight := r.flight ++ [(tileCount x.desc r, [m])] }) s
            | none => s
          after s
      | _ => s
  | _, _ => s

def execStreamTileLanded (stream : Nat) (s : State) : Host.Outcome State Fault Refusal := leaves s (tileLanded stream s)

/-- An acknowledgement clears a number from what a task's tiles wait for. -/
def clearFlight (m : BitVec 32) (r : TransferRun) : TransferRun :=
  { r with flight := r.flight.map (fun e => (e.1, e.2.filter (· != m))) }

/-- A hop has a unit of a transfer in place (R307). -/
def unitInPlace (id eid unit : Nat) (s : State) : State :=
  transferMap id (fun r => { r with flight := r.flight.map (fun e => if e.1 = unit then (e.1, e.2.filter (· != BitVec.ofNat 32 eid)) else e) }) s

/-- The first tile in flight that still waits for something. -/
def firstAwaiting (k : BitVec 32) (r : TransferRun) : Option Nat := (r.flight.find? (fun e => e.2.contains k)).map (·.1)

/-- From a tile on, nothing is signalled. -/
def spoilFrom (i : Option Nat) (r : TransferRun) : TransferRun :=
  { r with spoiled := match r.spoiled, i with | some a, some b => some (min a b) | a, b => a.orElse fun _ => b }

/-- Another engine reports a failure of a transfer (R295, R307). A hop takes no further part: the first tile that it has not in place is
the faulting one. A destination engine leaves what it could not write unacknowledged. -/
def transferRefused (id eid : Nat) (s : State) : State :=
  match (taskOf s id).bind transferRunOf with
  | none => s
  | some r =>
    let k := BitVec.ofNat 32 eid
    if (streamGet s r.stream).any (fun x => sDstRelay x.desc) then
      transferMap id (fun r => clearFlight k (spoilFrom (firstAwaiting k r) r)) s
    else transferMap id (fun r => { r with refused := true }) s

/-- A message of a transfer that its destination will not acknowledge is given up: its tile is the faulting one (log entry 103). -/
def giveUpTile (id : Nat) (m : BitVec 32) (s : State) : State :=
  transferMap id (fun r => clearFlight m (spoilFrom (firstAwaiting m r) r)) s

/-- A message of this engine's has been acknowledged, or delivered to this engine itself: tiles and signals that waited for it. -/
def messageDone (task dst : Nat) (ty : Nat) (m : BitVec 32) (s : State) : State :=
  match taskOf s task with
  | none => s
  | some t => match t.phase with
    | .running (.semSignal k) => if k = m then finishOk task 0 s else s
    | .running (.transfer _) => if ty = 0x31 then s else transferMap task (clearFlight m) s
    | .running (.relaySet _ _ _) =>
      if ty = 0x33 && !s.fab.kept.any (fun k => k.dst == dst && hTyp k.header == 0x33 && hTask k.header == task) then
        relayAnswer dst none task s else s
    | _ => s

/-- REMOTE_WRITE arrives at the destination engine. -/
def deliverRemoteWrite (h : Header) (payload : Bytes) : Act Unit := do
  let a := hf h 32 8
  onBehalf (hSrc h) (hTask h) (hTag h) (if hf h 40 1 % 2 = 1 then writeWindow a payload else writeVa a payload) (fun r => do
    modify fun s => { s with fab := { s.fab with unwritten := s.fab.unwritten ++ [(hSrc h, BitVec.ofNat 32 (hMsgId h))] } }
    modify (ackFailure (hSrc h) (hTask h) (hTag h) 0x11 r))

/-! ### STREAM_CANCEL -/

def streamCancelStep4 (_ : Byte) (p : Packet) : Checks := [bad (2 ≤ pf p 10 1) 2 10]

/-- Checks of R296; the stream disarms from here on. -/
def streamCancelCheck (t : Task) : Act Unit := do
  let s ← get
  need [bad (streamGet s (pf t.pkt 8 2)).isNone 6 8]
  if s.xl.overflow then stop (.fail (rBusy 9))
  if pf t.pkt 10 1 = 1 then
    modify (streamMap (pf t.pkt 8 2) (fun x => { x with disarming := x.disarming.orElse fun _ => some t.id }))

def cancelResult (work dropped : BitVec 32) : Result := ⟨stCancelled, 0, dropped, work⟩

/-- Cancel one STREAM_REARM task. -/
def cancelRearm (id : Nat) (s : State) : State :=
  match taskOf s id with
  | none => s
  | some t => match t.phase with
    | .running (.transfer r) =>
      let pend : Nat × List (BitVec 32) → Bool := fun e => !e.2.isEmpty
      if r.flight.any pend then transferMap id (fun r => { r with failing := some (cancelResult 0 0) }) s
      else closeTransfer id (cancelResult 0 0) s
    | .done r => mapTask id (fun t => { t with phase := .done (cancelResult r.work r.dropped) }) s
    | _ => finishTask id (cancelResult 0 0) s

/-- Cancels end once the tasks they matched have completed (R127, R296). -/
def cancelSweep (s : State) : State :=
  s.cmd.tasks.foldl (fun s t => match t.phase with
    | .running (.cancel ids _ n lost) =>
      if ids.any (fun k => (taskOf s k).isSome) then s
      else
        let r := match lost with | some e => rPeerLost e | none => okResult t n (n == 0) false
        let s := mapTask t.id (setResult r) s
        let n := pf t.pkt 8 2
        if t.op = 0x42 && (streamGet s n).any (fun x => x.disarming == some t.id) then disarm n s else s
    | _ => s) s

def startStreamCancel (t : Task) (s : State) : State :=
  let n := pf t.pkt 8 2
  let hit := (s.cmd.tasks.filter (fun u => decide (u.id < t.id) && u.op == 0x41 && u.origin.isNone && pf u.pkt 8 2 == n)).map (·.id)
  let s := setWork t.id (.cancel hit [] hit.length none) s
  cancelSweep (hit.foldl (fun s id => cancelRearm id s) s)

def execStreamCancel (ring : Nat) (p : Packet) (s : State) : Host.Outcome State Fault Refusal :=
  leaves s (acceptPacket 0x42 streamCancelStep4 (beginTask streamCancelCheck startStreamCancel) ring p s)

end Sys2Proof.Machine
end

