-- ==== Sys2Proof/Machine/Coalesce.lean ====
section
/-! DEFINITION. From index lists to holders' lists: header checks (Table Ingress-1), bag starts (R99), drops (R106), coalesce
windows (R107 to R113), routing (R96, R116) and INDEX_LIST payloads (R406). -/

namespace Sys2Proof.Machine

/-! ### Lists -/

def alignedList (p : Packet) (off : Nat) : Bool × Result := misaligned p off 16

/-- The rows of Table Ingress-1 on an index or expert list's header; `off` is the address field's offset. -/
def indexHeadChecks (proto : Byte) (h : ListHead) (off : Nat) : Checks :=
  [bad (h.elem != 1 && h.elem != 2) 7 off, bad (h.elem = 2 && proto != 0x20) 2 off] ++ listHeadChecks h off

def weightHeadChecks (index h : ListHead) (off : Nat) : Checks :=
  [bad (h.elem != 3 && h.elem != 4) 7 off, bad (h.count != index.count) 3 off] ++ listHeadChecks h off

def offsetHeadChecks (index h : ListHead) (off : Nat) : Checks :=
  [bad (h.elem != 5) 7 off, bad (h.count = 0 && index.count != 0) 3 off] ++ listHeadChecks h off

/-- The lists a task streams. -/
structure Lists where
  index : ListHead
  weight : Option ListHead
  offset : Option ListHead
  deriving DecidableEq, Repr, Inhabited

/-- Read and check the headers a packet names: index list, weight list and bag offsets, by their field offsets (R98). A list
whose address is zero is absent. -/
def readHeads (t : Task) (ioff woff boff : Nat) (object : Nat) : Act Lists := do
  let p := t.pkt
  let ring := t.ring
  let tag := p.tag.toNat
  let opt : Nat → Nat → Act (Option ListHead) := fun off obj =>
    if off = 0 then return none
    else if pf p off 8 = 0 then return none
    else do
      let h ← readListHead ring tag (pf p off 8) obj
      return some h
  let i ← readListHead ring tag (pf p ioff 8) object
  let w ← opt woff 3
  let b ← opt boff 4
  need (indexHeadChecks t.proto i ioff)
  match w with
  | some w => need (weightHeadChecks i w woff)
  | none => pure ()
  match b with
  | some b => need (offsetHeadChecks i b boff)
  | none => pure ()
  return ⟨i, w, b⟩

/-- One list position: its number, bag, index and weight. -/
structure Pos where
  pos : Nat
  bag : Nat
  idx : Nat
  weight : F32
  deriving DecidableEq, Repr, Inhabited

/-- Effective bag starts (R99). -/
def bagStarts (count : Nat) : Nat → List Nat → List Nat
  | _, [] => []
  | prev, o :: t => let x := min (max o prev) count; x :: bagStarts count x t

def effectiveStarts (count : Nat) : List Nat → List Nat
  | [] => []
  | _ :: t => 0 :: bagStarts count 0 t

/-- The pages a task's lists and outputs still need, for the fault scan. -/
def listRest (l : Option ListHead) : List Need := match l with | some h => listNeeds h | none => []

/-- Read the payloads (R44): indices, weights (1.0 without a list; BF16 widened), and bag starts. `ignore` says that the pool
mode takes 1.0 for every position. -/
def readLists (t : Task) (l : Lists) (object : Nat) (rest : List Need) : Act (List Nat × List F32 × List Nat) := do
  let ring := t.ring
  let tag := t.pkt.tag.toNat
  let ib ← readListPayload ring tag l.index object (listRest l.weight ++ listRest l.offset ++ rest)
  let idx := listElems l.index.elem l.index.count ib
  let ws ← (match l.weight with
    | none => return List.replicate l.index.count f32One
    | some h => do
      let b ← readListPayload ring tag h 3 (listRest l.offset ++ rest)
      return (listElems h.elem h.count b).map (fun x => if h.elem = 4 then BitVec.ofNat 32 (x * 65536) else BitVec.ofNat 32 x))
  let offs ← (match l.offset with
    | none => return []
    | some h => do
      let b ← readListPayload ring tag h 4 rest
      return listElems h.elem h.count b)
  return (idx, ws, effectiveStarts l.index.count offs)

/-! ### Windows (R107) -/

/-- A stretch of positions of one bag. -/
structure Seg where
  bag : Nat
  start : Nat
  len : Nat
  first : Bool
  deriving DecidableEq, Repr, Inhabited

/-- A window before it is coalesced: its stretches and its zero-length bags. -/
structure Cut where
  segs : List Seg
  zeros : List Nat
  deriving DecidableEq, Repr, Inhabited

def windowLen : Nat := 65536

/-- The full windows of a long bag from a position on, and the stretch that remains. -/
def cutLong (bag : Nat) : Nat → Nat → Nat → Bool → List Cut × Seg
  | 0, start, len, first => ([], ⟨bag, start, len, first⟩)
  | fuel + 1, start, len, first =>
    if len < windowLen then ([], ⟨bag, start, len, first⟩)
    else
      let (ws, r) := cutLong bag fuel (start + windowLen) (len - windowLen) false
      (⟨[⟨bag, start, windowLen, first⟩], []⟩ :: ws, r)

def Cut.len (c : Cut) : Nat := (c.segs.map (·.len)).sum

/-- Cut bags (number, start, length) into windows. `cur` is the open window, `zeros` the zero-length bags behind its end. -/
def cutBags : List (Nat × Nat × Nat) → Cut → List Nat → List Cut
  | [], cur, zeros => if cur.segs.isEmpty then [] else [{ cur with zeros := cur.zeros ++ zeros }]
  | (b, s, n) :: t, cur, zeros =>
    if n = 0 then cutBags t cur (zeros ++ [b])
    else if cur.len + n ≤ windowLen then cutBags t ⟨cur.segs ++ [⟨b, s, n, true⟩], cur.zeros ++ zeros⟩ []
    else
      let close := if cur.segs.isEmpty then [] else [cur]
      if n ≤ windowLen then close ++ cutBags t ⟨[⟨b, s, n, true⟩], zeros⟩ []
      else
        let (full, r) := cutLong b (n / windowLen) s n true
        let full := match full with | c :: rest => { c with zeros := zeros } :: rest | [] => []
        close ++ full ++ cutBags t (if r.len = 0 then ⟨[], []⟩ else ⟨[r], []⟩) []

/-- Zero-length bags at the end of a list whose last window is full belong to that window. -/
def attachZeros (zeros : List Nat) : List Cut → List Cut
  | [] => []
  | [c] => [{ c with zeros := c.zeros ++ zeros }]
  | c :: t => c :: attachZeros zeros t

/-- The bags of a list as (number, start, length). -/
def bagSpans (count : Nat) (starts : List Nat) : List (Nat × Nat × Nat) :=
  starts.zipIdx.map (fun (s, b) => (b, s, (starts[b + 1]?).getD count - s))

/-- Windows of a list with bags. -/
def bagWindows (count : Nat) (starts : List Nat) : List Cut :=
  let spans := bagSpans count starts
  let ws := cutBags spans ⟨[], []⟩ []
  let placed := ws.flatMap (·.zeros)
  attachZeros ((spans.filter (fun x => x.2.2 == 0 && !placed.contains x.1)).map (·.1)) ws

/-- Windows of a list without bags: each position counts as a bag of its own. -/
def plainWindows (count : Nat) : List Cut :=
  (List.range (ceilDiv count windowLen)).map fun k =>
    ⟨[⟨0, k * windowLen, min windowLen (count - k * windowLen), true⟩], []⟩

/-! ### Rows -/

/-- A kept position on its way to a holder. -/
structure Routed where
  holder : Nat
  lb : Nat
  off : Nat
  bag : Nat
  pos : Nat
  weight : F32
  deriving DecidableEq, Repr, Inhabited

/-- How a task's rows are routed: to the primary, by R96, or to every valid holder (R269). -/
inductive Route where
  | primary | nearest | everyHolder
  deriving DecidableEq, Repr, Inhabited

/-- The holders that take a row of a block (R96). -/
def holdersOf (s : State) (r : Route) (e : MapEnt) (block : Nat) : List (Nat × Nat) :=
  match r with
  | .primary => (e.role 0).toList
  | .everyHolder => e.all
  | .nearest =>
    match e.all.find? (fun h => eidModule h.1 == ownModule s) with
    | some h => [h]
    | none =>
      let k := e.all.length
      (e.all[((ownEid s).toNat + block) % max 1 k]?).toList

/-- What routing a window has found so far. -/
structure RouteAcc where
  rows : List Routed
  missing : Nat
  range : Nat
  unmapped : Nat
  /-- entries read by the task: a block's entry is read once -/
  cache : List (Nat × MapEnt)
  /-- positions dropped -/
  lostPos : List Nat
  deriving DecidableEq, Repr, Inhabited

def cachedEnt (t : Task) (tab : Table) (v b : Nat) (c : List (Nat × MapEnt)) : Act (MapEnt × List (Nat × MapEnt)) :=
  match c.find? (fun x => x.1 == b) with
  | some x => return (x.2, c)
  | none => do
    let e ← readMapEnt t.ring t.pkt.tag.toNat tab v b
    return (e, c ++ [(b, e)])

/-- Judge positions one after the other (R106). -/
def routePositions (t : Task) (tab : Table) (v : Nat) (elem : Nat) (r : Route) : List Pos → RouteAcc → Act RouteAcc
  | [], a => return a
  | p :: rest, a => do
    match tab.transform elem p.idx with
    | .missing => routePositions t tab v elem r rest { a with missing := a.missing + 1, lostPos := a.lostPos ++ [p.pos] }
    | .range => routePositions t tab v elem r rest { a with range := a.range + 1, lostPos := a.lostPos ++ [p.pos] }
    | .row row =>
      let b := row / 2 ^ tab.sb
      let (e, c) ← cachedEnt t tab v b a.cache
      if !e.valid 0 then
        routePositions t tab v elem r rest { a with unmapped := a.unmapped + 1, cache := c, lostPos := a.lostPos ++ [p.pos] }
      else
        let hs := holdersOf (← get) r e b
        let rs := hs.map (fun h => (⟨h.1, h.2, row % 2 ^ tab.sb, p.bag, p.pos, p.weight⟩ : Routed))
        routePositions t tab v elem r rest { a with rows := a.rows ++ rs, cache := c }

/-! ### Sorting and merging (R109 to R111) -/

def natLex : List Nat → List Nat → Bool
  | x :: t, y :: u => decide (x < y) || (x == y && natLex t u)
  | _, _ => true

/-- The key of R109. -/
def Routed.le (a b : Routed) : Bool := natLex [a.holder, a.lb, a.off, a.bag, a.pos] [b.holder, b.lb, b.off, b.bag, b.pos]

def insertRouted (a : Routed) : List Routed → List Routed
  | [] => [a]
  | b :: t => if a.le b then a :: b :: t else b :: insertRouted a t

def sortRouted (l : List Routed) : List Routed := l.foldr insertRouted []

/-- A row being merged: its terms with the weights of each, in list order. -/
structure RowAcc where
  holder : Nat
  lb : Nat
  off : Nat
  terms : List (Nat × List F32)
  positions : List Nat
  deriving DecidableEq, Repr, Inhabited

/-- Put a position in front of the rows behind it. -/
def mergeRouted (a : Routed) : List RowAcc → List RowAcc
  | [] => [⟨a.holder, a.lb, a.off, [(a.bag, [a.weight])], [a.pos]⟩]
  | r :: t =>
    if r.holder = a.holder ∧ r.lb = a.lb ∧ r.off = a.off then
      let terms := match r.terms with
        | (b, ws) :: u => if b = a.bag then (b, a.weight :: ws) :: u else (a.bag, [a.weight]) :: (b, ws) :: u
        | [] => [(a.bag, [a.weight])]
      { r with terms := terms, positions := a.pos :: r.positions } :: t
    else ⟨a.holder, a.lb, a.off, [(a.bag, [a.weight])], [a.pos]⟩ :: r :: t

/-- A merged weight (R110): a single occurrence keeps its own. -/
def mergedWeight : List F32 → F32
  | [w] => w
  | ws => compSum ws

/-- A row with its terms; without bags, one term of weight 1.0 whose bag number is the first position (R406). -/
def RowAcc.ent (pooled : Bool) (r : RowAcc) : RowEnt :=
  { lb := r.lb, off := r.off, count := r.positions.length,
    terms := if pooled then r.terms.map (fun x => ⟨x.1, mergedWeight x.2⟩) else [⟨(r.positions.head?).getD 0, f32One⟩],
    positions := if pooled then [] else r.positions
    merged := if pooled then r.terms.map (·.2.length) else [] }

/-- Split sorted rows by holder. -/
def byHolder (pooled : Bool) : List RowAcc → List (Nat × List RowEnt)
  | [] => []
  | r :: t =>
    match byHolder pooled t with
    | (h, rows) :: u => if h = r.holder then (h, r.ent pooled :: rows) :: u else (r.holder, [r.ent pooled]) :: (h, rows) :: u
    | [] => [(r.holder, [r.ent pooled])]

/-- Coalesce a window's kept positions into one list per holder (R116). -/
def coalesce (pooled : Bool) (rows : List Routed) : List (Nat × List RowEnt) :=
  byHolder pooled ((sortRouted rows).foldr mergeRouted [])

/-! ### INDEX_LIST payloads (R406) -/

def termBytes (t : Term) : Bytes := leBytes 4 t.bag ++ leBytes 4 t.weight.toNat

def rowBytes (r : RowEnt) : Bytes :=
  leBytes 4 r.lb ++ leBytes 4 r.off ++ leBytes 4 r.count ++ leBytes 4 r.terms.length ++ r.terms.flatMap termBytes

/-- Rows of more terms than a segment holds are sent as several entries, the count with the first (log entry 13). -/
def splitRow : Nat → RowEnt → List RowEnt
  | 0, r => [r]
  | fuel + 1, r =>
    if r.terms.length ≤ 8189 then [r]
    else { r with terms := r.terms.take 8189 } :: splitRow fuel { r with terms := r.terms.drop 8189, count := 0 }

/-- Entries that go on with the row of the entry before them are one row again (log entry 13). -/
def mergeEntries : List RowEnt → List RowEnt
  | [] => []
  | r :: t =>
    match mergeEntries t with
    | [] => [r]
    | x :: u => if x.lb = r.lb ∧ x.off = r.off then { r with count := r.count + x.count, terms := r.terms ++ x.terms } :: u else r :: x :: u

/-- Rows into segments of at most 65,532 bytes before the trailer. -/
def cutSegments : List RowEnt → List RowEnt → Nat → List (List RowEnt)
  | [], cur, _ => if cur.isEmpty then [] else [cur]
  | r :: t, cur, n =>
    let k := 16 + 8 * r.terms.length
    if n + k ≤ 65532 then cutSegments t (cur ++ [r]) (n + k) else cur :: cutSegments t [r] k

def segmentsOf (rows : List RowEnt) : List (List RowEnt) :=
  cutSegments (rows.flatMap (fun r => splitRow (r.terms.length / 8189 + 1) r)) [] 0

/-- The rows of a payload. -/
def readTerms : Nat → Bytes → List Term
  | 0, _ => []
  | n + 1, b => ⟨leField b 0 4, BitVec.ofNat 32 (leField b 4 4)⟩ :: readTerms n (b.drop 8)

def readRowsOf : Nat → Bytes → List RowEnt
  | 0, _ => []
  | n + 1, b =>
    let k := leField b 12 4
    ⟨leField b 0 4, leField b 4 4, leField b 8 4, readTerms k (b.drop 16), [], []⟩ :: readRowsOf n (b.drop (16 + 8 * k))

/-- Send a list to a holder, segment by segment. -/
def sendList (t : Task) (dst tid ver window kind flags : Nat) (rows : List RowEnt) (s : State) : State :=
  let segs := segmentsOf rows
  segs.zipIdx.foldl (fun s (seg, k) =>
    sendMsg dst 0x10 t.id t.pkt.tag.toNat [(32, 3, tid), (36, 2, ver), (38, 2, window), (40, 4, seg.length),
      (44, 4, (seg.map (·.terms.length)).sum), (48, 1, kind), (49, 1, flags), (50, 2, k), (52, 2, segs.length)]
      (seg.flatMap rowBytes) s) s

/-- Add to a 64-bit counter of Table Cmd-25: 2 indices, 3 rows sent, 4 partial sums, 5 contributions, 6 far adds. -/
def countCmd (k n : Nat) (w : Who) (s : State) : State :=
  let c := s.cmd
  let old := if k = 2 then c.indices else if k = 3 then c.rowsSent else if k = 4 then c.partials
    else if k = 5 then c.contributions else c.farAdds
  let v := satAdd old n
  let c := if k = 2 then { c with indices := v } else if k = 3 then { c with rowsSent := v } else if k = 4 then { c with partials := v }
    else if k = 5 then { c with contributions := v } else { c with farAdds := v }
  if satHits old n then satTask w { s with cmd := { c with sat64 := c.sat64 ||| (1#8 <<< k) } } else { s with cmd := c }

end Sys2Proof.Machine
end

