-- ==== Sys2Proof/Machine/Lookup.lean ====
section
/-! DEFINITION. Look-ups at the requester: LOOKUP_POOL, LOOKUP_GATHER, SLAB_GATHER, LOOKAHEAD, BERM_PIN and LOOKUP_CANCEL (R98 to
R160, R269, R308, R309). -/

namespace Sys2Proof.Machine

/-! ### Post-pool functions (R141, R158 to R160) -/

def epsilon : F32 := 0x37000000

def mulAll (a : F32) (r : List F32) : List F32 := r.map (fun x => pmul x a)

/-- Functions 0x01, 0x03 and 0x04 on a row that holds no NaN or infinity (R159). -/
def normalise (code : Nat) (r : List F32) : List F32 :=
  let q := compSum (r.map (fun x => pmul x x))
  let iw := freciprocal (f32OfNat r.length)
  if code = 1 then (if f32IsZero q then r else mulAll (frsqrt q) r)
  else if code = 4 then mulAll (frsqrt (padd (pmul q iw) epsilon)) r
  else
    let k := (r.head?).getD 0
    let sd := compSum (r.map (fun x => psub x k))
    let sdd := compSum (r.map (fun x => pmul (psub x k) (psub x k)))
    let mean := padd k (pmul sd iw)
    let var := fmax (pmul (psub sdd (pmul (pmul sd sd) iw)) iw) 0
    mulAll (frsqrt (padd var epsilon)) (r.map (fun x => psub x mean))

/-- A post-pool function on a bag of n_b positions. -/
def postPool (code nb : Nat) (r : List F32) : List F32 :=
  if code = 0 then r
  else if code = 2 then (if nb = 0 then r else mulAll (frsqrt (f32OfNat nb)) r)
  else if r.any (fun x => !f32IsFinite x) then r.map (fun _ => f32Qnan)
  else normalise code r

/-- A bag's row before its post-pool function: finalised sums, divided under mean (R137, R141, R142). -/
def pooledRow (mean : Bool) (nb : Nat) (sums : List (F32 × F32)) : List F32 :=
  let r := sums.map finalise
  if !mean then r
  else if nb = 0 then r.map (fun _ => 0)
  else mulAll (freciprocal (f32OfNat nb)) r

/-! ### Fields -/

def lkKeep (t : Task) : Bool := t.op == 0x20 && pflag t.pkt 9
def lkNoAlloc (t : Task) : Bool := (t.op == 0x20 || t.op == 0x21) && pflag t.pkt 10
def lkPooled (t : Task) : Bool := t.op == 0x20

/-- The kind of a task's lists (Table Fab-4). -/
def lkKind (t : Task) : Nat :=
  match t.op.toNat with
  | 0x20 => 0
  | 0x21 => 1
  | 0x22 => 2
  | 0x23 => 3
  | _ => if pf t.pkt 14 1 = 0 then 4 else 5

def lkFlags (t : Task) : Nat :=
  (if lkKeep t then 1 else 0) + (if lkNoAlloc t then 2 else 0) + (if t.op = 0x23 then pf t.pkt 14 1 % 4 * 4 else 0)

def lkRoute (t : Task) : Route := if lkKeep t then .primary else if t.op = 0x61 then .everyHolder else .nearest

/-- Where outputs go: address, stride and format of LOOKUP_POOL and LOOKUP_GATHER; address and stride of SLAB_GATHER. -/
def outAddr (t : Task) : Nat := if t.op = 0x20 then pf t.pkt 40 8 else pf t.pkt 24 8
def outStride (t : Task) : Nat := if t.op = 0x20 then pf t.pkt 48 4 else pf t.pkt 32 4
def outFmt (t : Task) : Nat := if t.op = 0x20 then pf t.pkt 15 1 else pf t.pkt 14 1

/-- Row size of an output (Table Pool-4). -/
def outRowSize (t : Task) (tab : Table) : Nat :=
  if t.op = 0x22 then tab.wcSizeB
  else if t.op = 0x21 && outFmt t = tab.wcFmt then tab.wcSizeB
  else outSize (outFmt t) tab.width

/-- The last byte of `n` output rows lies below 2^52. -/
def outExtent (t : Task) (tab : Table) (n off : Nat) : Bool × Result :=
  bad (n != 0 && decide (2 ^ 52 < outAddr t + (n - 1) * outStride t + outRowSize t tab)) 3 off

def slabDest (t : Task) : Nat := pf t.pkt 14 1

/-! ### Checks -/

def poolFmts : List Nat := [0, 1, 3, 4, 5, 6]

def lookupPoolStep4 (_ : Byte) (p : Packet) : Checks :=
  [bad (3 ≤ pf p 14 1) 2 14, bad (12 ≤ pf p 15 1) 2 15, bad (!poolFmts.contains (pf p 15 1)) 3 15,
   bad (pf p 16 8 = 0) 3 16, highAddr p 16, alignedList p 16, highAddr p 24, alignedList p 24, highAddr p 32, alignedList p 32,
   bad (pf p 14 1 != 0 && pf p 24 8 != 0) 3 24, bad (pf p 32 8 = 0) 3 32, highAddr p 40, misaligned p 40 4,
   bad (pf p 48 4 % 4 != 0) 3 48, bad (5 ≤ pf p 52 1) 2 52]

/-- The requester's record of the lists that a look-up is to keep, from its acceptance on (R168, R236). -/
def blankKeptReq (t : Task) (v : BitVec 16) : KeptReq :=
  { task := t.id, tag := t.pkt.tag, tid := pTid t.pkt, ver := v, mean := pf t.pkt 14 1 == 2, nb := [], marks := [], complete := false,
    missing := false, slots := [], released := false, users := [] }

def lookupPoolCheck (t : Task) : Act Unit := do
  let (tab, v) ← bindVersion t
  let l ← readHeads t 16 24 32 2
  let b := (l.offset.map (·.count)).getD 0
  let s ← get
  need [bad (isMx (outFmt t) && tab.width % 32 != 0) 3 15,
        bad (128 + llsSlots s + hbmSlots s < min b 65536 * spanOf tab.width) 3 32,
        outExtent t tab b 40, bad (outStride t < outRowSize t tab) 3 48]
  if lkKeep t then modify fun s => { s with hold := { s.hold with keptReq := s.hold.keptReq ++ [blankKeptReq t v] } }

def lookupGatherStep4 (_ : Byte) (p : Packet) : Checks :=
  [bad (12 ≤ pf p 14 1) 2 14, bad (pf p 16 8 = 0) 3 16, highAddr p 16, alignedList p 16, highAddr p 24, misaligned p 24 4,
   bad (pf p 32 4 % 4 != 0) 3 32]

def lookupGatherCheck (t : Task) : Act Unit := do
  let (tab, _) ← bindVersion t
  let l ← readHeads t 16 0 0 2
  let f := outFmt t
  need [bad (f != tab.wcFmt && (!poolFmts.contains f || (isMx f && tab.width % 32 != 0))) 3 14,
        outExtent t tab l.index.count 24, bad (outStride t < outRowSize t tab) 3 32]

def slabGatherStep4 (_ : Byte) (p : Packet) : Checks :=
  [bad (pf p 16 8 = 0) 3 16, highAddr p 16, alignedList p 16, bad (3 ≤ pf p 14 1) 2 14, bad (pf p 32 4 % 64 != 0) 3 32,
   bad (pf p 14 1 != 2 && decide (2 ^ 52 ≤ pf p 24 8)) 3 24, misaligned p 24 64]

def slabGatherCheck (t : Task) : Act Unit := do
  let p := t.pkt
  let (tab, _) ← bindVersion t
  let l ← readHeads t 16 0 0 9
  let s ← get
  let n := l.index.count
  let top := outAddr t + (n - 1) * outStride t + tab.wcSizeB
  let chain := smapGet s.strm.chains (pf p 36 2)
  need [bad (outStride t < tab.wcSizeB) 3 32,
        bad (slabDest t = 0 && n != 0 && !(decide (llsBytes s ≤ outAddr t) && decide (top ≤ scratchTop s))) 3 24,
        if slabDest t = 1 then outExtent t tab n 24 else bad false 3 24,
        bad (slabDest t = 2 && chain.isNone) 5 36,
        bad (slabDest t = 2 && (match chain with
          | some c => c.ring && !c.hops.any (fun e => hopEid e == (ownEid s).toNat)
          | none => false)) 6 36]

def lookaheadStep4 (_ : Byte) (p : Packet) : Checks :=
  [bad (pf p 16 8 = 0) 3 16, highAddr p 16, alignedList p 16, bad (pf p 14 1 % 4 = 0) 3 14]

def indexOnlyCheck (t : Task) : Act Unit := do
  let _ ← bindVersion t
  let _ ← readHeads t 16 0 0 2

def bermPinStep4 (_ : Byte) (p : Packet) : Checks :=
  [bad (pf p 16 8 = 0) 3 16, highAddr p 16, alignedList p 16, bad (2 ≤ pf p 14 1) 2 14]

/-! ### Runs -/

def LookupRun.empty : LookupRun := ⟨[], [], [], [], [], [], [], [], 0, none, [], [], none⟩

def lookupRunOf (t : Task) : Option LookupRun :=
  match t.phase with
  | .running (.lookup l) => some l
  | _ => none

def lookupMap (id : Nat) (f : LookupRun → LookupRun) (s : State) : State :=
  mapTask id (fun t => match t.phase with
    | .running (.lookup l) => { t with phase := .running (.lookup (f l)) }
    | _ => t) s

def keptReqMap (id : Nat) (f : KeptReq → KeptReq) (s : State) : State :=
  { s with hold := { s.hold with keptReq := s.hold.keptReq.map (fun k => if k.task = id then f k else k) } }

/-- Whether a look-up has nothing outstanding. -/
def LookupRun.idle (l : LookupRun) : Bool :=
  l.windows.isEmpty && l.bags.isEmpty && l.rows.isEmpty && l.relay.isEmpty && l.await.isEmpty

/-- End a look-up with nothing outstanding. -/
def lookupSettle (id : Nat) (s : State) : State :=
  match taskOf s id with
  | none => s
  | some t => match lookupRunOf t with
    | none => s
    | some l =>
      if !l.idle then s
      else match l.failing with
        | some r => finishTask id r s
        | none => keptReqMap id (fun k => { k with complete := true }) (finishOk id l.work s)

/-- Send CANCEL for a task to holders, and wait for them. -/
def cancelAt (t : Task) (holders : List Nat) (s : State) : List (Nat × Nat) × State :=
  let live := holders.filter (fun h => !isLost s h)
  (live.map (fun h => (h, 0x10)), live.foldl (fun s h => sendMsg h 0x13 t.id t.pkt.tag.toNat [] [] s) s)

/-- Primaries that keep lists of a look-up. -/
def keptAt (s : State) (id : Nat) : List Nat :=
  ((s.hold.keptReq.filter (fun k => k.task == id)).flatMap (fun k => k.marks.map (·.2))).eraseDups

def dropKeptReq (id : Nat) (s : State) : State :=
  { s with hold := { s.hold with keptReq := s.hold.keptReq.filter (fun k => k.task != id) } }

/-! ### The sluices (R101 to R105) -/

def sluiceOf (s : State) (polder : Nat) : Sluice := (s.hold.sluice[polder]?).getD Sluice.empty

def sluiceSet (polder : Nat) (x : Sluice) (s : State) : State :=
  { s with hold := { s.hold with sluice := s.hold.sluice.zipIdx.map (fun (y, k) => if k = polder then x else y) } }

/-- Windows of a polder that the list reader has not written whole: by task in acceptance order, then by window. -/
def unfed (s : State) (polder : Nat) : List (Nat × Window) :=
  s.cmd.tasks.flatMap fun t => match lookupRunOf t with
    | some l => if l.failing.isSome then [] else (l.windows.filter (fun w => w.polder == polder && decide (w.fed < w.idx.length))).map (fun w => (t.id, w))
    | none => []

/-- The window whose slots come next: the one being written, else the first. -/
def nextUnfed (s : State) (polder : Nat) : Option (Nat × Window) :=
  let l := unfed s polder
  match (sluiceOf s polder).writing with
  | some (id, num, _) => (l.find? (fun x => x.1 == id && x.2.num == num)).orElse fun _ => l.head?
  | none => l.head?

/-- What the list reader offers in a cycle: the indices that complete the word being packed, or the window's last ones. -/
def sluiceOffer (s : State) (polder : Nat) : Option SluiceOffer :=
  (nextUnfed s polder).map fun (id, w) =>
    let l := (w.idx.drop w.fed).take (wordCap w.wide - (sluiceOf s polder).part.length)
    ⟨id, w.num, w.wide, l, decide (w.idx.length ≤ w.fed + l.length)⟩

/-- One cycle of a polder's sluice. -/
def sluiceTick (take : Bool) (polder : Nat) (s : State) : State :=
  let x := sluiceOf s polder
  let o := if x.writeStalled then none else sluiceOffer s polder
  let s := match o with
    | some o => lookupMap o.task (fun l => { l with
        windows := l.windows.map (fun w => if w.num = o.num then { w with fed := w.fed + o.slots.length } else w) }) s
    | none => s
  sluiceSet polder (x.cycle take o) s

/-- The list reader writes until it is held back or has nothing left: the coalescer waits meanwhile. -/
def sluiceFeed (polder : Nat) : Nat → State → State
  | 0, s => s
  | fuel + 1, s =>
    if (sluiceOf s polder).writeStalled || (nextUnfed s polder).isNone then s else sluiceFeed polder fuel (sluiceTick false polder s)

/-- Every sluice takes what it can: two banks of 32 words. -/
def sluiceFeedAll (s : State) : State := (List.range 8).foldl (fun s p => sluiceFeed p 65 s) s

/-- The window whose words come first in a sluice. -/
def sluiceFirst (s : State) (polder : Nat) : Option (Nat × Nat) :=
  let x := sluiceOf s polder
  match x.shown with
  | some w => ((taskOf s w.task).bind lookupRunOf).bind (fun l =>
      (l.windows.find? (fun y => y.polder == polder && y.num % 65536 == w.window.toNat)).map (fun y => (w.task, y.num)))
  | none => (nextUnfed s polder).map (fun (id, w) => (id, w.num))

/-- Whether a window's words have not all been presented. -/
def sluiceHolds (s : State) (polder id num : Nat) : Bool :=
  let x := sluiceOf s polder
  (x.bankA ++ x.bankB).any (fun w => w.task == id && w.window.toNat == num % 65536) ||
  x.writing.any (fun w => w.1 == id && w.2.1 == num) || (unfed s polder).any (fun w => w.1 == id && w.2.num == num)

/-- The coalescer takes a window whole, while the list reader writes on behind it. -/
def sluicePassOn (polder id num : Nat) : Nat → State → State
  | 0, s => s
  | fuel + 1, s => if sluiceHolds s polder id num then sluicePassOn polder id num fuel (sluiceTick true polder s) else s

/-- A window passes the sluice; 65,536 indices leave at 8 a cycle. -/
def sluicePass (polder id num : Nat) (s : State) : State := sluiceFeed polder 65 (sluicePassOn polder id num 8300 s)

/-- Discard a task's words from every sluice (R125): its windows are no longer there to be written. -/
def sluiceForget (id : Nat) (s : State) : State :=
  let s := lookupMap id (fun l => { l with windows := [] }) s
  sluiceFeedAll { s with hold := { s.hold with sluice := s.hold.sluice.map (Sluice.discard id) } }

/-! ### Output rows -/

/-- Whether a task's output rows lie in device virtual space. -/
def outsInVa (t : Task) : Bool := t.op == 0x20 || t.op == 0x21 || (t.op == 0x22 && slabDest t == 1)

/-- The output rows of a look-up: `n` of them. -/
def outRowsOf (t : Task) (tab : Table) (n : Nat) : Option OutRows :=
  if t.op = 0x20 ∨ t.op = 0x21 ∨ t.op = 0x22 then some ⟨outAddr t, outStride t, outRowSize t tab, n⟩ else none

/-- Whether an address lies in one of the rows. -/
def OutRows.has (o : OutRows) (a : Nat) : Bool :=
  decide (o.addr ≤ a) && decide ((a - o.addr) % o.stride < o.size) && decide ((a - o.addr) / o.stride < o.count)

/-- An output row becomes undefined: in device memory, in the scratchpad, or at this engine's own hop of a relay chain. -/
def freeRow (t : Task) (o : OutRows) (row : Nat) (s : State) : State :=
  let a := o.addr + row * o.stride
  if outsInVa t then freeVa a o.size s
  else if slabDest t = 0 then freePlace (.scratch a) o.size s
  else match ((smapGet s.strm.chains (pf t.pkt 36 2)).map (·.hops)).bind (·.find? (fun e => hopEid e == (ownEid s).toNat)) with
    | some e => if hopScratch e then freePlace (.scratch (hopBase e + a)) o.size s else freeVa (hopBase e + a) o.size s
    | none => s

/-- Every output row not written in full becomes undefined (R44, R128, R157). -/
def freeRows (t : Task) (o : Option OutRows) (written : List Nat) (s : State) : State :=
  match o with
  | none => s
  | some o => ((List.range o.count).filter (fun k => !written.contains k)).foldl (fun s k => freeRow t o k s) s

/-- The output rows of look-ups that write to device virtual space and run now. -/
def runningOuts (s : State) : List OutRows :=
  s.cmd.tasks.filterMap fun t => if outsInVa t then (lookupRunOf t).bind (·.out) else none

/-- A look-up that starts shares its time with those that run (R156). -/
def shareOuts (t : Task) (o : Option OutRows) (s : State) : State :=
  match o with
  | none => s
  | some o =>
    if !outsInVa t then s
    else { s with cmd := { s.cmd with tasks := s.cmd.tasks.map (fun u => match u.phase with
      | .running (.lookup l) =>
        if u.id = t.id then u else { u with phase := .running (.lookup { l with shared := l.shared ++ [o] }) }
      | _ => u) } }

/-- Whether a stop leaves output rows undefined: a cancel, or a lost peer. -/
def freesOuts (s : State) (r : Result) : Bool :=
  r.status == stCancelled || (r.status == stPeerLost && r.detail != (rPeerLost (ownEid s).toNat).detail)

/-- The output rows of a look-up that has not started, from its lists' headers. -/
def heldOuts (t : Task) (s : State) : Option OutRows :=
  let a : Act (Option OutRows) := do
    let (tab, _) ← bindVersion t
    if t.op = 0x20 then
      let l ← readHeads t 16 24 32 2
      return outRowsOf t tab ((l.offset.map (·.count)).getD 0)
    else
      let l ← readHeads t 16 0 0 (if t.op = 0x22 then 9 else 2)
      return outRowsOf t tab l.index.count
  match (a.go (some t.id) s).1 with
  | .ok o => o
  | .error _ => none

/-- Whether a scatter that matched the kept lists of a look-up has not ended. -/
def keptInUse (s : State) (id : Nat) : Bool :=
  s.hold.keptReq.any (fun k => k.task == id && k.users.any (fun u => (taskOf s u).any (fun x => !x.isDone)))

/-- Stop a look-up with a result (R125, R168): its holders discard what they have where it is cancelled or kept lists. Lists that a
scatter still uses stay until it ends. -/
def stopLookup (id : Nat) (res : Result) (s : State) : State :=
  match taskOf s id with
  | none => s
  | some t =>
    let wait := fun (holders : List Nat) (r : Result) (s : State) =>
      let used := keptInUse s id
      let (await, s) := cancelAt t (if used then holders.filter (fun h => !(keptAt s id).contains h) else holders) s
      let run : LookupRun := { LookupRun.empty with await := await, failing := some r }
      let s := if used then keptReqMap id (fun k => { k with released := true }) s else dropKeptReq id s
      lookupSettle id (mapTask id (fun t => { t with phase := .running (.lookup run) }) s)
    match t.phase with
    | .running (.lookup l) =>
      let r := { res with work := BitVec.ofNat 32 (min l.work (2 ^ 32 - 1)), dropped := BitVec.ofNat 32 (min t.dropped (2 ^ 32 - 1)) }
      let s := if l.failing.isNone && freesOuts s res then freeRows t l.out l.written s else s
      if l.failing.isSome then s
      else
        let s := sluiceForget id s
        if res.status = stCancelled || lkKeep t then wait t.sent r s else mapTask id (setResult r) s
    | .done r =>
      if res.status = stCancelled then wait t.sent { res with work := r.work, dropped := r.dropped } s else s
    | _ => finishTask id res (dropKeptReq id (if freesOuts s res then freeRows t (heldOuts t s) [] s else s))

/-- Make an access for a look-up: what stops it stops the look-up alone. -/
def lookupAct (id : Nat) (a : Act Unit) : Act Unit :=
  tryCatch (withReader (fun _ => ⟨some id, some id, 0⟩) a) fun x =>
    match x with
    | .mig va w => throw (.mig va w)
    | .fail r => modify (stopLookup id r)
    | .poison idx => modify (stopLookup id (rHw 0x08 idx))
    | .fault va cause lvl w e => do
      let s ← get
      let (ring, tag) := ringTag (some id) s
      let (r, s) := raiseFault (some id) ring tag ⟨va, w, 6, 0⟩ cause lvl e [] s
      set (stopLookup id r s)

/-! ### Outputs -/

/-- The output pages of rows, for the fault scan. -/
def outNeeds (t : Task) (tab : Table) (rows : List Nat) : List Need :=
  rows.flatMap (fun b => rangeNeeds (outAddr t + b * outStride t) (outRowSize t tab) true 3 (b * outStride t))

/-- Bags not yet written. -/
def bagsLeft (l : LookupRun) : List Nat := l.bags.map (·.bag) ++ l.windows.flatMap (fun w => w.bags ++ w.zeros)

/-- The bytes to write at an address: free where another look-up that ran at the same time writes them too (R156). -/
def sharedBytes (t : Task) (a : Nat) (b : Bytes) : Act Bytes := do
  let s ← get
  let shared := (((taskOf s t.id).bind lookupRunOf).map (·.shared)).getD []
  let hit : Nat → Bool := fun k => shared.any (·.has k)
  if !(List.range b.length).any (fun i => hit (a + i)) then return b
  else
    let (f, s') := freeBytes b.length s
    set s'
    return (b.zip f).zipIdx.map (fun (x, i) => if hit (a + i) then x.2 else x.1)

/-- Write one output row. -/
def writeOut (t : Task) (tab : Table) (row : Nat) (rest : List Nat) (b : Bytes) : Act Unit := do
  let a := outAddr t + row * outStride t
  let b ← sharedBytes t a b
  orFault t.ring t.pkt.tag.toNat ⟨a, true, 3, row * outStride t⟩ (outNeeds t tab rest) (writeVa a b)

/-- An output row has been written in full. -/
def rowWritten (id row : Nat) : State → State := lookupMap id (fun l => { l with work := l.work + 1, written := l.written ++ [row] })

/-- Write a bag whose partial sums are all in (R137, R156), and remember its n_b (R171). -/
def writeBag (t : Task) (tab : Table) (b : Nat) (nb : Nat) (sums : List (F32 × F32)) : Act Unit := do
  let l := ((taskOf (← get) t.id).bind lookupRunOf).getD LookupRun.empty
  let r := postPool (pf t.pkt 52 1) nb (pooledRow (pf t.pkt 14 1 == 2) nb sums)
  writeOut t tab b ((bagsLeft l).filter (· != b)) (encodeOut (outFmt t) r)
  modify (rowWritten t.id b)
  modify (keptReqMap t.id (fun k => { k with nb := k.nb ++ [(b, nb)] }))

/-- The bytes of a gathered row in the output's layout (R155). -/
def gatherBytes (t : Task) (tab : Table) (stored : Bytes) : Bytes :=
  if outFmt t = tab.wcFmt then stored else encodeOut (outFmt t) (decodeRow tab.wcFmt tab.width stored)

/-- A dropped position's row of +0 elements (R114, R155). -/
def gatherZeros (t : Task) (tab : Table) : Bytes :=
  if outFmt t = tab.wcFmt then zeroBytes tab.wcSizeB else encodeOut (outFmt t) (List.replicate tab.width 0)

/-- Put a slab at a position's place (R309). -/
def placeSlab (t : Task) (tab : Table) (pos : Nat) (b : Bytes) : Act Unit := do
  let off := pos * outStride t
  match slabDest t with
  | 0 =>
    writePlace (.scratch (outAddr t + off)) b
    modify (gaugeBytes b.length)
    modify (rowWritten t.id pos)
  | 1 =>
    writeOut t tab pos [] b
    modify (gaugeBytes b.length)
    modify (rowWritten t.id pos)
  | _ =>
    let left ← injectUnit t.id (pf t.pkt 36 2) pos (outAddr t + off) b
    if left.isEmpty then modify (rowWritten t.id pos)
    else modify (lookupMap t.id (fun l => { l with relay := l.relay ++ left.map (fun e => (pos, e)) }))

/-- Write a row to every position that names it; none for a dropped one. -/
def writePositions (t : Task) (tab : Table) (stored : Option Bytes) : List Nat → Act Unit
  | [] => return ()
  | p :: rest => do
    if t.op = 0x22 then placeSlab t tab p (stored.getD (zeroBytes tab.wcSizeB))
    else
      writeOut t tab p rest (match stored with | some b => gatherBytes t tab b | none => gatherZeros t tab)
      modify (rowWritten t.id p)
    writePositions t tab stored rest

/-! ### Forming windows -/

/-- The positions of a window. -/
def cutPositions (idx : List Nat) (ws : List F32) (pooled : Bool) (c : Cut) : List Pos :=
  c.segs.flatMap fun g =>
    (List.range g.len).map fun k =>
      let p := g.start + k
      ⟨p, if pooled then g.bag else p, (idx[p]?).getD 0, (ws[p]?).getD 0⟩

/-- The polder that coalesces a window, which is the engine's own choice (log entry 14). -/
def windowPolder (id num : Nat) : Nat := (num + id) % 8

/-- Everything a task's lists give: windows, and drops by class with the positions dropped. -/
structure Formed where
  windows : List Window
  missing : Nat
  range : Nat
  unmapped : Nat
  lostPos : List Nat
  keptOf : List (Nat × Nat)
  deriving DecidableEq, Repr, Inhabited

/-- Add one to a count by key. -/
def bumpCount (k : Nat) : List (Nat × Nat) → List (Nat × Nat)
  | [] => [(k, 1)]
  | (a, n) :: t => if a = k then (a, n + 1) :: t else (a, n) :: bumpCount k t

def countOf (k : Nat) (l : List (Nat × Nat)) : Nat := ((l.find? (fun x => x.1 == k)).map (·.2)).getD 0

/-- Coalesce every window in list order: its indices are packed, and what the coalescer reads of them is judged and merged. -/
def formWindows (t : Task) (tab : Table) (v elem : Nat) (route : Route) (pooled : Bool) (idx : List Nat) (ws : List F32) :
    List (Cut × Nat) → List (Nat × MapEnt) → Act Formed
  | [], _ => return ⟨[], 0, 0, 0, [], []⟩
  | (c, k) :: rest, cache => do
    let ps := cutPositions idx ws pooled c
    let read := throughSluice t.id k (elem == 2) (ps.map (fun p => (p.idx, p.weight)))
    let ps := (ps.zip read).map (fun (p, x) => { p with idx := x.1, weight := x.2 })
    let a ← routePositions t tab v elem route ps ⟨[], 0, 0, 0, cache, []⟩
    let f ← formWindows t tab v elem route pooled idx ws rest a.cache
    let w : Window :=
      { num := k, polder := windowPolder t.id k, bags := if pooled then (c.segs.filter (·.first)).map (·.bag) else [],
        cont := if pooled then (c.segs.filter (!·.first)).map (·.bag) else [], zeros := c.zeros, lists := coalesce pooled a.rows,
        idx := read, wide := elem == 2, fed := 0 }
    return { windows := w :: f.windows, missing := a.missing + f.missing, range := a.range + f.range,
             unmapped := a.unmapped + f.unmapped, lostPos := a.lostPos ++ f.lostPos,
             keptOf := if pooled then a.rows.foldl (fun l r => bumpCount r.bag l) f.keptOf else [] }

/-- The (holder, window) final bits a bag expects. -/
def bagFinals (ws : List Window) (b : Nat) : List (Nat × Nat) :=
  ws.flatMap fun w => (w.lists.filter (fun l => l.2.any (fun r => r.terms.any (fun x => x.bag == b)))).map (fun l => (l.1, w.num))

/-- LOOKAHEAD's row limit and its window counts of zero (R111, R120). -/
def limitRows : Nat → List (Nat × List RowEnt) → Nat × List (Nat × List RowEnt)
  | n, [] => (n, [])
  | n, (h, rows) :: t =>
    let (m, rest) := limitRows (n - rows.length) t
    (m, if n = 0 then rest else (h, rows.take n) :: rest)

def limitWindows : Nat → List Window → List Window
  | _, [] => []
  | n, w :: t =>
    let (m, ls) := limitRows n w.lists
    { w with lists := ls } :: limitWindows m t

def aheadWindows (limit : Nat) (ws : List Window) : List Window :=
  let ws := if limit = 0 then ws else limitWindows limit ws
  ws.map (fun w => { w with lists := w.lists.map (fun l => (l.1, l.2.map (fun r => { r with count := 0 }))) })

/-! ### Admission (R149) -/

/-- Combine groups of a polder that tasks which pass a test use. -/
def combineUsed (who : Task → Bool) (s : State) (polder : Nat) : Nat :=
  ((s.cmd.tasks.filter who).map fun t => match lookupRunOf t with
    | some l => ((l.bags.filter (fun b => b.polder == polder)).map (·.groups)).sum
    | none => 0).sum

/-- Combine groups of a polder that a task may take: fill tasks together hold at most a quarter of the 128 (R37, R131). -/
def combineFree (s : State) (t : Task) (polder : Nat) : Nat :=
  let free := 128 - combineUsed (fun _ => true) s polder
  if isFill s t then min free (32 - combineUsed (isFill s) s polder) else free

/-- Give each bag its span, from the polder's free groups first. -/
def reserve (span : Nat) : Nat → List Nat → List Nat → List (Nat × Nat × List Nat)
  | _, _, [] => []
  | free, slots, b :: t =>
    let g := min span free
    (b, g, slots.take (span - g)) :: reserve span (free - g) (slots.drop (span - g)) t

/-- The record of a sluice whose pointers disagree, and the reset (R105): its index. It names the first task concerned. -/
def sluiceReset (polder : Nat) (task : Option Nat) (inj : Bool) (s : State) : BitVec 16 × State :=
  let idx := nextErrIdx s
  let (ring, tag) := ringTag task s
  let s := logErr { det := 0x03, sev := 2, level := 4, phys := (s.rep.polderMap[polder]?).getD polder, logical := polder, ring := ring,
                    action := 7, tag := tag, injected := inj } s
  (idx, { s with
    hold := { s.hold with sluice := s.hold.sluice.zipIdx.map (fun (x, k) => if k = polder then Sluice.empty else x) }
    rep := { s.rep with strikes := if inj then s.rep.strikes else s.rep.strikes ++ [(polder, tick s)] } })

/-- Tasks with words of a polder's sluice (R105). -/
def sluiceTasks (s : State) (polder : Nat) : List Nat := (sluiceOf s polder).tasks

/-- Send a window's lists, and note what comes back. -/
def sendWindow (t : Task) (tid v : Nat) (w : Window) : List (Nat × List RowEnt) → Act Unit
  | [] => return ()
  | (h, rows) :: rest => do
    if isLost (← get) h then stop (.fail (rPeerLost h))
    modify (sendList t h tid v (w.num % 65536) (lkKind t) (lkFlags t) rows)
    modify (countCmd 3 rows.length (.task t.id))
    modify (mapTask t.id fun t => { t with sent := if t.sent.contains h then t.sent else t.sent ++ [h] })
    let own := decide (h = (ownEid (← get)).toNat)
    modify (lookupMap t.id fun l =>
      { l with
        mine := if own && lkPooled t then l.mine ++ (rows.filter (fun r => 1 < r.merged.length)).map (fun r => (w.num, r.lb, r.off, r.merged)) else l.mine
        await := if lkKind t = 0 then l.await else l.await ++ [(h, lkKind t)]
        rows := if lkKind t = 1 ∨ lkKind t = 2 then l.rows ++ rows.map (fun r => (h, (r.positions.head?).getD 0, r.positions)) else l.rows })
    sendWindow t tid v w rest

/-- Admit a window if its bags' storage can be reserved: whether it was. -/
def admitWindow (t : Task) (tab : Table) (v : Nat) (w : Window) : Act Bool := do
  let s ← get
  let span := spanOf tab.width
  let free := combineFree s t w.polder
  match takeSlots (w.bags.length * span - free) s with
  | none => return false
  | some slots =>
    if (← injectedAct 0x03 ((s.rep.polderMap[w.polder]?).getD w.polder)) then
      let before ← get
      let (idx, s) := sluiceReset w.polder (some t.id) true before
      set (((sluiceTasks before w.polder).filter (· != t.id)).foldl (fun s id => stopLookup id (rHw 0x03 idx) s) s)
      stop (.fail (rHw 0x03 idx))
    modify (sluicePass w.polder t.id w.num)
    if !slots.isEmpty then modify (spillTask (.task t.id))
    modify progress
    let l := ((taskOf (← get) t.id).bind lookupRunOf).getD LookupRun.empty
    let finalsOf := fun (b : Nat) => ((l.finals.find? (fun x => x.1 == b)).map (·.2)).getD []
    let open_ : List Bag := (reserve span free slots w.bags).filterMap fun (b, g, sl) =>
      if (finalsOf b).isEmpty then none
      else some ⟨b, w.polder, g, sl, zeroSums tab.width, finalsOf b, countOf b l.keptOf, 0⟩
    modify (lookupMap t.id (fun l => { l with windows := l.windows.filter (fun x => x.num != w.num), bags := l.bags ++ open_ }))
    sendWindow t (pTid t.pkt) v w w.lists
    for b in w.zeros ++ w.bags.filter (fun b => (finalsOf b).isEmpty) do
      writeBag t tab b 0 (zeroSums tab.width)
    return true

/-- Whether an earlier window of a bag that goes on in this one still waits (R149). -/
def bagWaits (s : State) (id : Nat) (w : Window) : Bool :=
  (((taskOf s id).bind lookupRunOf).map (·.windows)).getD [] |>.any (fun x => x.num != w.num && x.bags.any (w.cont.contains ·))

/-- Admit a task's waiting windows in order: each must be the first in its polder's sluice, and the storage of the bags that go on in
it must be reserved. -/
def admitAll (t : Task) (tab : Table) (v : Nat) : List Window → Act Unit
  | [] => return ()
  | w :: rest => do
    let s ← get
    if sluiceFirst s w.polder == some (t.id, w.num) && !bagWaits s t.id w then
      let _ ← admitWindow t tab v w
    admitAll t tab v rest

/-! ### Starting -/

/-- Spill slots that the requester's side of kept lists takes (R171). -/
def keptReqSlots (bags : Nat) (ws : List Window) : Nat :=
  ceilDiv (8 * bags + 2 * (ws.map (fun w => w.lists.length)).sum) 2048

/-- The requester stores which primaries hold a term of each bag, in slots where they are free (R171). -/
def fillKeptReq (t : Task) (bags : Nat) (ws : List Window) : Act Unit := do
  let marks := (ws.flatMap fun w => w.lists.flatMap fun l => l.2.flatMap fun r => r.terms.map fun x => (x.bag, l.1)).eraseDups
  let slots := (takeSlots (keptReqSlots bags ws) (← get)).getD []
  let full := decide (slots.length = keptReqSlots bags ws)
  let kept ← (if full then keepSlots slots else return false)
  modify (keptReqMap t.id (fun k => { k with marks := marks, missing := !kept, slots := if kept then slots else [] }))

/-- The pages of this engine's own copy of slabs that go round a ring (R305, R309). -/
def ownHopNeeds (t : Task) (tab : Table) (n : Nat) (s : State) : List Need :=
  match (smapGet s.strm.chains (pf t.pkt 36 2)).bind (fun c => if c.ring then c.hops.find? (fun e => hopEid e == (ownEid s).toNat) else none) with
  | some e =>
    if hopScratch e then []
    else (List.range n).flatMap (fun p => rangeNeeds (hopBase e + outAddr t + p * outStride t) tab.wcSizeB true 5 0)
  | none => []

/-- Start a look-up: read its lists, form its windows, and admit what can be admitted. -/
def lookupStart (t : Task) : Act Unit := do
  let (tab, v) ← bindVersion t
  let pooled := lkPooled t
  let object := if t.op = 0x22 then 9 else 2
  let l ← (if pooled then readHeads t 16 24 32 object else readHeads t 16 0 0 object)
  let nOut := if pooled then (l.offset.map (·.count)).getD 0 else l.index.count
  let writes := t.op = 0x20 || t.op = 0x21 || (t.op = 0x22 && slabDest t = 1)
  let out := outRowsOf t tab nOut
  let (idx, ws, starts) ← tryCatch (readLists t l object (if writes then outNeeds t tab (List.range nOut) else [])) fun x => do
    match x with
    | .fail r => if r.status = stCrc then modify (freeRows t out [])
    | _ => pure ()
    throw x
  if t.op = 0x22 && slabDest t = 1 then translateNeeds t.ring t.pkt.tag.toNat ((outNeeds t tab (List.range nOut)).map (fun n => { n with obj := 5 }))
  if t.op = 0x22 && slabDest t = 2 then translateNeeds t.ring t.pkt.tag.toNat (ownHopNeeds t tab nOut (← get))
  let n := l.index.count
  let cuts := if pooled then bagWindows n starts else plainWindows n
  let f ← formWindows t tab v.toNat l.index.elem (lkRoute t) pooled idx ws cuts.zipIdx []
  let windows := if t.op = 0x23 then aheadWindows (pf t.pkt 24 4) f.windows else f.windows
  let tid := pTid t.pkt
  modify (countCmd 2 n (.task t.id))
  modify (countDropped t.id tid 0 f.missing ∘ countDropped t.id tid 1 f.range ∘ countDropped t.id tid 2 f.unmapped)
  let finals := if pooled then (List.range nOut).map (fun b => (b, bagFinals windows b)) else []
  let now ← get
  let shared := if outsInVa t then runningOuts now else []
  modify (shareOuts t out)
  modify (setWork t.id (.lookup { LookupRun.empty with
    windows := windows, finals := finals, keptOf := f.keptOf, out := out, shared := shared }))
  if lkKeep t then fillKeptReq t nOut windows
  lookupAct t.id (do
    if cuts.isEmpty && pooled then
      for b in List.range nOut do writeBag t tab b 0 (zeroSums tab.width)
    if t.op = 0x21 || t.op = 0x22 then writePositions t tab none f.lostPos
    modify sluiceFeedAll
    admitAll t tab v.toNat windows)
  modify (lookupSettle t.id)

/-- Start a look-up; one that ends as it starts lets go of the lists it was to keep (R168). -/
def startLookup (t : Task) (s : State) : State :=
  let s := runTask t.id (lookupStart t) (waitStarts s)
  match taskOf s t.id with
  | some u => match u.phase with
    | .done r => if statusDone r.status then s else dropKeptReq t.id s
    | _ => s
  | none => s

def execLookupPool (ring : Nat) (p : Packet) (s : State) : Host.Outcome State Fault Refusal :=
  leaves s (acceptPacket 0x20 lookupPoolStep4 (beginTask lookupPoolCheck startLookup) ring p s)

def execLookupGather (ring : Nat) (p : Packet) (s : State) : Host.Outcome State Fault Refusal :=
  leaves s (acceptPacket 0x21 lookupGatherStep4 (beginTask lookupGatherCheck startLookup) ring p s)

def execSlabGather (ring : Nat) (p : Packet) (s : State) : Host.Outcome State Fault Refusal :=
  leaves s (acceptPacket 0x22 slabGatherStep4 (beginTask slabGatherCheck startLookup) ring p s)

def execLookahead (ring : Nat) (p : Packet) (s : State) : Host.Outcome State Fault Refusal :=
  leaves s (acceptPacket 0x23 lookaheadStep4 (beginTask indexOnlyCheck startLookup) ring p s)

def execBermPin (ring : Nat) (p : Packet) (s : State) : Host.Outcome State Fault Refusal :=
  leaves s (acceptPacket 0x61 bermPinStep4 (beginTask indexOnlyCheck startLookup) ring p s)

/-- WINDOW_ADMIT: a look-up's waiting windows, as far as they can be admitted. -/
def windowAdmit (id : Nat) (s : State) : State :=
  match taskOf s id with
  | none => s
  | some t => match lookupRunOf t with
    | none => s
    | some l =>
      if l.failing.isSome then s
      else runTask id (do
        let (tab, v) ← bindVersion t
        lookupAct id (admitAll t tab v.toNat l.windows)
        modify (lookupSettle id)) s

def execWindowAdmit (task : Nat) (s : State) : Host.Outcome State Fault Refusal := leaves s (windowAdmit task s)

/-! ### What comes back -/

/-- Combine a partial sum of a bag (R137). -/
def combine (b : Bag) (src window : Nat) (final : Bool) (unmapped : Nat) (vals : List F32) : Bag :=
  { b with
    sums := b.sums.zipWith poolStep vals
    unmapped := b.unmapped + unmapped
    await := if final then b.await.filter (fun x => !(x.1 == src && x.2 % 65536 == window)) else b.await }

/-- A partial sum of a pooled bag. -/
def pooledSum (t : Task) (tab : Table) (h : Header) (payload : Bytes) (l : LookupRun) : Act Unit := do
  let b := hf h 40 4
  match l.bags.find? (fun x => x.bag == b && x.await.any (fun a => a.1 == hSrc h && a.2 % 65536 == hf h 38 2)) with
  | none => return ()
  | some g =>
    let g := combine g (hSrc h) (hf h 38 2) (hf h 46 1 % 2 == 1) (hf h 48 4) (f32List tab.width payload)
    modify (countCmd 4 1 (.task t.id))
    modify (countDropped t.id (pTid t.pkt) 2 (hf h 48 4))
    if hf h 46 1 / 2 % 2 = 1 then modify (spillTask (.task t.id))
    modify (lookupMap t.id (fun l => { l with bags := l.bags.map (fun x => if x.bag = b then g else x) }))
    if g.await.isEmpty then
      writeBag t tab b (g.kept - g.unmapped) g.sums
      modify (lookupMap t.id (fun l => { l with bags := l.bags.filter (fun x => x.bag != b) }))

/-- A gathered row or slab: its stored bytes, or none where the holder dropped it (log entry 15). -/
def gatheredRow (t : Task) (tab : Table) (h : Header) (payload : Bytes) (l : LookupRun) : Act Unit := do
  match l.rows.find? (fun r => r.1 == hSrc h && r.2.1 == hf h 40 4) with
  | none => return ()
  | some r =>
    modify (lookupMap t.id (fun l => { l with rows := l.rows.filter (fun x => !(x.1 == r.1 && x.2.1 == r.2.1)) }))
    if payload.isEmpty then
      modify (countDropped t.id (pTid t.pkt) 2 r.2.2.length)
      writePositions t tab none r.2.2
    else writePositions t tab (some payload) r.2.2

/-- PARTIAL_SUM arrives. -/
def deliverPartialSum (h : Header) (payload : Bytes) : Act Unit := do
  match taskOf (← get) (hTask h) with
  | none => return ()
  | some t => match lookupRunOf t with
    | none => return ()
    | some l =>
      if l.failing.isSome || t.pkt.tag.toNat != hTag h then return ()
      else match tabGet (← get) (pTid t.pkt) with
        | none => return ()
        | some tab =>
          lookupAct t.id (if lkPooled t then pooledSum t tab h payload l else gatheredRow t tab h payload l)
          modify (lookupSettle t.id)

/-- Remove one element that satisfies a test. -/
def eraseOne {α : Type} (p : α → Bool) : List α → List α
  | [] => []
  | x :: t => if p x then t else x :: eraseOne p t

/-- SAT and SPILL of what another engine did for a task, in the detail of its acknowledgement. -/
def ackFlags (id : Nat) (r : Result) (s : State) : State :=
  let s := if r.detail.getLsbD 0 then satTask (.task id) s else s
  if r.detail.getLsbD 1 then spillTask (.task id) s else s

/-- A TASK_ACK for a look-up: the end of a list, what a pooled list saturated or spilled, a failure at a holder, a list not kept (log entry 16), a cancel, or a slab in
place at a hop. -/
def lookupAck (src id kind : Nat) (r : Result) (s : State) : State :=
  if kind = 0 && r.status = stNoBuffer then keptReqMap id (fun k => { k with missing := true }) s
  else match taskOf s id with
  | none => s
  | some t => match lookupRunOf t with
    | none => s
    | some l =>
      if kind = 0x10 then
        let more : Result → Result := fun x => if t.op = 0x23 then { x with work := satAdd x.work r.work.toNat } else x
        lookupSettle id (lookupMap id (fun l => { l with
          await := l.await.filter (fun a => !(a.1 == src && a.2 == 0x10)), failing := l.failing.map more }) s)
      else if l.failing.isSome then s
      else if !statusDone r.status then stopLookup id r s
      else if kind = 0x11 then
        let unit := r.work.toNat
        let left := l.relay.filter (fun x => !(x.1 == unit && x.2 == src))
        let done := l.relay.any (fun x => x.1 == unit) && !left.any (fun x => x.1 == unit)
        let s := lookupMap id (fun l => { l with relay := left }) (progress (ackFlags id r s))
        lookupSettle id (if done then rowWritten id unit s else s)
      else
        let s := ackFlags id r s
        let add := if kind = 1 || kind = 2 then 0 else r.work.toNat
        let s := if kind = 1 || kind = 2 then s else countDropped id (pTid t.pkt) 2 r.dropped.toNat s
        lookupSettle id (lookupMap id (fun l => { l with await := eraseOne (fun a => a == (src, kind)) l.await, work := l.work + add }) s)

/-! ### LOOKUP_CANCEL (R124 to R129) -/

def lookupCancelStep4 (_ : Byte) (p : Packet) : Checks := [bad (16383 < pf p 12 2 && pf p 12 2 != 0xFFFF) 3 12]

def cancelMatches (t : Task) (u : Task) : Bool :=
  decide (u.id < t.id) && u.origin.isNone && (u.op == 0x20 || u.op == 0x21 || u.op == 0x22 || u.op == 0x23) &&
  u.pkt.tag.toNat == pf t.pkt 8 4 && u.ring == (if pf t.pkt 12 2 = 0xFFFF then t.ring else pf t.pkt 12 2)

def startLookupCancel (t : Task) (s : State) : State :=
  let ids := (s.cmd.tasks.filter (cancelMatches t)).map (·.id)
  let s := setWork t.id (.cancel ids [] ids.length none) s
  cancelSweep (ids.foldl (fun s id => stopLookup id (cancelResult 0 0) s) s)

def execLookupCancel (ring : Nat) (p : Packet) (s : State) : Host.Outcome State Fault Refusal :=
  leaves s (acceptPacket 0x24 lookupCancelStep4 (beginTask noCheck startLookupCancel) ring p s)

/-- Holders a look-up waits for. -/
def lookupWaits (l : LookupRun) : List Nat :=
  l.await.map (·.1) ++ l.bags.flatMap (fun b => b.await.map (·.1)) ++ l.rows.map (·.1) ++ l.relay.map (·.2) ++
  l.windows.flatMap (fun w => w.lists.map (·.1))

/-- The hops that a slab gather puts its slabs at (R309). -/
def slabHops (s : State) (id : Nat) : List Nat :=
  match taskOf s id with
  | some t =>
    if t.op = 0x22 ∧ slabDest t = 2 then ((smapGet s.strm.chains (pf t.pkt 36 2)).map (fun c => c.hops.map hopEid)).getD [] else []
  | none => []

/-- An engine has been declared lost (R129, R157, R309). -/
def lookupLost (eid id : Nat) (s : State) : State :=
  match (taskOf s id).bind lookupRunOf with
  | none => s
  | some l =>
    if !(lookupWaits l ++ slabHops s id).contains eid then s
    else if l.failing.isSome then
      let s := lookupMap id (fun l => { l with await := l.await.filter (fun a => a.1 != eid) }) s
      let name : Task → Task := fun t => match t.phase with
        | .running (.cancel ids hs n lost) =>
          if ids.contains id then { t with phase := .running (.cancel ids hs n (lost.orElse fun _ => some eid)) } else t
        | _ => t
      lookupSettle id { s with cmd := { s.cmd with tasks := s.cmd.tasks.map name } }
    else stopLookup id (rPeerLost eid) s

end Sys2Proof.Machine
end

