-- ==== Sys2Proof/Machine/Holder.lean ====
section
/-! DEFINITION. Lists at a holder: gathers, pooling, spills and early partial sums, lookahead and pins, kept lists, CANCEL, and
fetches that return from memory (R117 to R125, R130 to R136, R147, R148, R237, R257 to R262, R266 to R271). -/

namespace Sys2Proof.Machine

/-! ### Lists -/

/-- What names a list at a holder: requester, task, window. -/
abbrev ListKey := Nat × BitVec 32 × Nat

def HList.key (l : HList) : ListKey := (l.src, l.task, l.window)

def listGet (s : State) (k : ListKey) : Option HList := s.hold.lists.find? (fun l => l.key == k)

def listMap (k : ListKey) (f : HList → HList) (s : State) : State :=
  { s with hold := { s.hold with lists := s.hold.lists.map (fun l => if l.key = k then f l else l) } }

def listDrop (k : ListKey) (s : State) : State :=
  { s with hold := { s.hold with lists := s.hold.lists.filter (fun l => l.key != k) } }

/-- The task of this engine that a list serves, if it is one. -/
def listTask (s : State) (src : Nat) (task : BitVec 32) : Option Nat :=
  if src = (ownEid s).toNat then some task.toNat else none

/-- What the events of a list serve: a task here, or the list, whose acknowledgement tells its requester. -/
def listWho (s : State) (l : HList) : Who :=
  match listTask s l.src l.task with
  | some id => .task id
  | none => .list l.src l.task l.window

/-- Groups a list's bags span. -/
def listSpan (s : State) (l : HList) : Nat := match tabGet s l.tid with | some t => spanOf t.width | none => 0

def listKinds : List Nat := [0, 1, 2, 3, 4, 5, 6]

/-! ### Bags: opening, spilling, restoring (R147, R148) -/

/-- Whether a list serves a fill task (R37): of another engine's tasks nothing tells. -/
def listFill (s : State) (l : HList) : Bool :=
  match (listTask s l.src l.task).bind (taskOf s) with
  | some t => isFill s t
  | none => false

/-- Pool groups of a polder that lists which pass a test use. -/
def poolUsed (who : HList → Bool) (s : State) (polder : Nat) : Nat :=
  (s.hold.lists.map (fun l =>
    if l.polder = polder ∧ who l then (l.bags.filter (·.inGroups)).length * listSpan s l else 0)).sum

/-- Whether a span of groups is free for a list: fill tasks together hold at most a quarter of the 128 (R37, R131). -/
def poolFits (s : State) (polder span : Nat) (fill : Bool) : Bool :=
  decide (poolUsed (fun _ => true) s polder + span ≤ 128) && (!fill || decide (poolUsed (listFill s) s polder + span ≤ 32))

/-- The bag of a polder, other than one, whose groups were touched least recently; of fill tasks alone where their share is full. -/
def lruBag (s : State) (polder span : Nat) (fill : Bool) (k : ListKey) (bag : Nat) : Option (HList × PoolBag) :=
  let shareFull := fill && decide (32 < poolUsed (listFill s) s polder + span)
  (s.hold.lists.flatMap (fun l =>
    if l.polder = polder ∧ (!shareFull || listFill s l) then (l.bags.filter (fun b => b.inGroups && !(l.key == k && b.bag == bag))).map (fun b => (l, b)) else [])).foldl
    (fun best x => match best with
      | none => some x
      | some y => if x.2.touched < y.2.touched then some x else some y) none

def bagMap (k : ListKey) (bag : Nat) (f : PoolBag → PoolBag) (s : State) : State :=
  listMap k (fun l => { l with bags := l.bags.map (fun b => if b.bag = bag then f b else b) }) s

def bagGet (s : State) (k : ListKey) (bag : Nat) : Option PoolBag :=
  (listGet s k).bind (fun l => l.bags.find? (fun b => b.bag == bag))

/-- Send a PARTIAL_SUM (Table Fab-4): `flags` holds the final bit and the early bit. -/
def sendPartial (l : HList) (bag w flags unmapped : Nat) (b : Bytes) (s : State) : State :=
  sendMsg l.src 0x11 l.task.toNat l.tag.toNat [(32, 3, l.tid), (36, 2, l.ver.toNat), (38, 2, l.window), (40, 4, bag), (44, 2, w),
    (46, 1, flags), (48, 4, unmapped)] b s

/-- Fetches of a task go on for the berm alone. -/
def unfetch (src : Nat) (task : BitVec 32) (s : State) : State :=
  let mine : ListKey → Bool := fun k => k.1 == src && k.2.1 == task
  let f : Fetch → Fetch := fun x =>
    { x with owner := x.owner.filter (fun k => !mine k), joined := x.joined.filter (fun j => !mine j.1) }
  { s with hold := { s.hold with fetches := s.hold.fetches.map f } }

/-- A list's work has failed: its requester is told, and what is left of the task here is dropped. -/
def listFail (k : ListKey) (r : Result) (s : State) : State :=
  match listGet s k with
  | none => s
  | some l =>
    let s := ackFailure l.src l.task.toNat l.tag.toNat l.kind r s
    let s := unfetch l.src l.task s
    { s with
      hold := { s.hold with lists := s.hold.lists.filter (fun x => !(x.src == l.src && x.task == l.task)) }
      fab := { s.fab with discards := s.fab.discards ++ [(l.src, l.task, l.tag)] } }

/-- Spill a bag into slots, or send it early where no slot is free. -/
def spillBag (l : HList) (b : PoolBag) : Act Unit := do
  let s ← get
  let own := listWho s l
  match takeSlots (listSpan s l) s with
  | some slots =>
    onBehalf l.src l.task.toNat l.tag.toNat (do
        spillSums slots b.sums
        modify (bagMap l.key b.bag (fun b => { b with sums := [], inGroups := false, slots := slots })))
      (fun r => modify (listFail l.key r))
    modify (poolCount 0 own)
  | none =>
    modify (sendPartial l b.bag b.sums.length 2 0 (f32Bytes (b.sums.map finalise)))
    modify (bagMap l.key b.bag (fun b => { b with sums := [], inGroups := false, slots := [] }))
    modify (poolCount 2 own)
  modify (spillTask own)

/-- Free a polder's groups until a span fits. -/
def makeRoom (polder span : Nat) (fill : Bool) (k : ListKey) (bag : Nat) : Nat → Act Unit
  | 0 => return ()
  | fuel + 1 => do
    let s ← get
    if poolFits s polder span fill then return ()
    else match lruBag s polder span fill k bag with
      | none => return ()
      | some (l, b) => do
        spillBag l b
        makeRoom polder span fill k bag fuel

/-- A bag of a fill task whose span alone passes a quarter of the groups: it holds groups only while a term is added (R131). -/
def wideFill (s : State) (l : HList) (w : Nat) : Bool := listFill s l && decide (32 < spanOf w)

/-- Put a bag of a list into groups: opened at +0, or restored whole. -/
def readyBag (l : HList) (w bag : Nat) : Act Unit := do
  let s ← get
  let own := listWho s l
  let span := spanOf w
  let fill := listFill s l && !wideFill s l w
  match bagGet s l.key bag with
  | some b =>
    if b.inGroups then return ()
    else
      makeRoom l.polder span fill l.key bag 256
      let sums ← (if b.slots.isEmpty then return zeroSums w else restoreSums b.slots w)
      if !b.slots.isEmpty then modify (poolCount 1 own)
      modify (bagMap l.key bag (fun b => { b with sums := sums, inGroups := true, slots := [] }))
  | none =>
    makeRoom l.polder span fill l.key bag 256
    modify (listMap l.key (fun l => { l with bags := l.bags ++ [⟨bag, zeroSums w, true, [], 0, 0⟩] }))

/-- Pool a row into the groups of its terms, in ascending bag order (R135). A fill task's bag that is wider than its share leaves them at
once. -/
def poolRow (l : HList) (x : List F32) : List Term → Act Unit
  | [] => return ()
  | t :: rest => do
    readyBag l x.length t.bag
    let (c, s) := touch (← get)
    set (bagMap l.key t.bag (fun b => { b with sums := b.sums.zipWith poolStep (x.map (pmul t.weight)), touched := c }) s)
    if wideFill (← get) l x.length then
      match bagGet (← get) l.key t.bag with
      | some b => spillBag l b
      | none => pure ()
    poolRow l x rest

/-! ### Dropped rows (R89, R136) -/

/-- A weight as a count of positions, where it is one. -/
def weightCount (w : F32) : Option Nat :=
  if f32IsFinite w && !f32Sign w && f32Mag w % 2 ^ 149 == 0 then some (f32Mag w / 2 ^ 149) else none

/-- Shares that the messages do not tell: free, and summing to the count. -/
def freeShares : Nat → Nat → List Term → List (Nat × Nat)
  | _, _, [] => []
  | left, _, [t] => [(t.bag, left)]
  | left, d, t :: rest =>
    let k := Config.mergedPositions d % (left + 1)
    (t.bag, k) :: freeShares (left - k) (d + 1) rest

/-- The positions that the terms of a row merged, where this engine is the requester. -/
def ownShares (s : State) (l : HList) (r : RowEnt) : Option (List Nat) :=
  ((listTask s l.src l.task).bind (taskOf s)).bind lookupRunOf |>.bind fun run =>
    (run.mine.find? (fun x => x.1 % 65536 == l.window && x.2.1 == r.lb && x.2.2.1 == r.off)).map (·.2.2.2)

/-- The positions of each bag that a dropped row held: its whole count for a single term, what the requester merged where it is this
engine, the merged weights where they are counts that add up to it, else free (log entry 82). -/
def dropShares (s : State) (l : HList) (r : RowEnt) : List (Nat × Nat) × State :=
  match r.terms, ownShares s l r with
  | [t], _ => ([(t.bag, r.count)], s)
  | ts, some ns => (ts.zip ns |>.map (fun x => (x.1.bag, x.2)), s)
  | ts, none =>
    let ws := ts.map (fun t => weightCount t.weight)
    if ws.all (·.isSome) && (ws.map (·.getD 0)).sum == r.count then (ts.map (fun t => (t.bag, (weightCount t.weight).getD 0)), s)
    else (freeShares r.count s.draws ts, { s with draws := s.draws + ts.length })

/-- Count dropped positions toward a bag, opened without groups if it is not open. -/
def dropShare (k : ListKey) (x : Nat × Nat) (s : State) : State :=
  match bagGet s k x.1 with
  | some _ => bagMap k x.1 (fun b => { b with unmapped := b.unmapped + x.2 }) s
  | none => listMap k (fun l => { l with bags := l.bags ++ [⟨x.1, [], false, [], 0, x.2⟩] }) s

/-- The holder drops a row: every position it was named by; a LOOKAHEAD row carries no count, and counts once (log entry 94). -/
def dropRow (l : HList) (r : RowEnt) (s : State) : State :=
  match l.kind with
  | 0 =>
    let (sh, s) := dropShares s l r
    sh.foldl (fun s x => dropShare l.key x s) s
  | 1 | 2 => sendPartial l ((r.terms.head?.map (·.bag)).getD 0) 0 1 r.count [] s
  | 3 => listMap l.key (fun l => { l with dropped := l.dropped + 1 }) s
  | _ => listMap l.key (fun l => { l with dropped := l.dropped + r.count }) s

/-! ### The end of a list -/

/-- Slots that a kept list takes (R171). -/
def keptSlots (rows : List RowEnt) : Nat := ceilDiv (8 * rows.length + 8 * (rows.map (·.terms.length)).sum) 2048

/-- Keep a list in slots, or report that it is not kept (R171, log entry 16). -/
def keepList (l : HList) : Act Unit := do
  let slots := takeSlots (keptSlots l.rows) (← get)
  let ok ← (match slots with | some k => keepSlots k | none => return false)
  if ok then
    modify fun s => { s with hold := { s.hold with
      kept := s.hold.kept ++ [⟨l.src, l.tag, l.task, l.tid, l.ver, l.rows, slots.getD [], false, false⟩] } }
  else
    modify fun s =>
      let s := satTask (if satHits s.grad.notKept 1 then listWho s l else .nobody) { s with
        grad := { s.grad with
          notKept := satAdd s.grad.notKept 1
          gradSat := if satHits s.grad.notKept 1 then s.grad.gradSat ||| 8 else s.grad.gradSat } }
      sendTaskAck l.src l.task.toNat l.tag.toNat 0 (resultOf stNoBuffer 0) s

/-- The final sums of bags, restored where they were spilled. -/
def finalSums (l : HList) (w : Nat) : List PoolBag → Act (List (PoolBag × List (F32 × F32)))
  | [] => return []
  | b :: t => do
    let own := listWho (← get) l
    let sums ← (if b.inGroups then return b.sums else if b.slots.isEmpty then return zeroSums w else restoreSums b.slots w)
    if !b.slots.isEmpty then modify (poolCount 1 own)
    let rest ← finalSums l w t
    return (b, sums) :: rest

/-- SAT and SPILL of a list as detail bits (R40, R147, R151). -/
def listFlags (l : HList) : BitVec 24 := (if l.sat then 1 else 0) ||| (if l.spill then 2 else 0)

/-- Send the final partial sums of a list, behind an acknowledgement that carries its SAT and SPILL where they are set (log entry 85). -/
def finalBags (l : HList) (w : Nat) (bags : List PoolBag) : Act Unit := do
  let xs ← finalSums l w bags
  let flags := ((listGet (← get) l.key).map listFlags).getD 0
  if flags != 0 then modify (sendTaskAck l.src l.task.toNat l.tag.toNat 0 ⟨stOk, flags, 0, 0⟩)
  modify fun s => xs.foldl (fun s x => sendPartial l x.1.bag w 1 x.1.unmapped (f32Bytes (x.2.map finalise)) s) s

def insertBag (b : PoolBag) : List PoolBag → List PoolBag
  | [] => [b]
  | c :: t => if b.bag ≤ c.bag then b :: c :: t else c :: insertBag b t

/-- A list whose segments and fetches are all in ends: its partial sums or its acknowledgement leave. -/
def listSettle (k : ListKey) : Act Unit := do
  let s ← get
  match listGet s k with
  | none => return ()
  | some l =>
    if l.got < l.segs || l.fetches != 0 then return ()
    else if l.kind = 0 then do
      let w := match tabGet s l.tid with | some t => t.width | none => 0
      if l.flags.getLsbD 0 && !l.dead then keepList l
      onBehalf l.src l.task.toNat l.tag.toNat (do
          finalBags l w (l.bags.foldr insertBag [])
          modify (listDrop k))
        (fun r => modify (listFail k r))
    else do
      if l.kind = 6 && !l.dead then
        modify fun s => { s with hold := { s.hold with kept := s.hold.kept ++ [⟨l.src, l.tag, l.task, l.tid, l.ver, l.rows, [], true, true⟩] } }
      modify (listDrop k)
      modify (sendTaskAck l.src l.task.toNat l.tag.toNat l.kind ⟨stOk, listFlags l, BitVec.ofNat 32 l.dropped, BitVec.ofNat 32 l.work⟩)

/-! ### Rows -/

/-- A row's bytes have come: they are pooled or returned. -/
def rowServed (k : ListKey) (tab : Table) (r : RowEnt) (b : Bytes) : Act Unit := do
  match listGet (← get) k with
  | none => return ()
  | some l =>
    modify (gaugeRows 1)
    if l.kind = 0 then
      onBehalf l.src l.task.toNat l.tag.toNat (poolRow l (decodeRow tab.wcFmt tab.width b) r.terms) (fun res => modify (listFail k res))
    else if l.kind = 1 || l.kind = 2 then modify (sendPartial l ((r.terms.head?.map (·.bag)).getD 0) tab.width 1 0 b)
    else return ()

/-- Wait for a read of memory. -/
def addFetch (l : HList) (r : RowEnt) (spec pin : Bool) (fill : List Nat) (s : State) : State :=
  let f : Fetch := ⟨s.hold.nextFetch, some l.key, l.tid, l.ver, r, spec, pin, [], fill, []⟩
  listMap l.key (fun l => { l with fetches := l.fetches + 1 })
    { s with hold := { s.hold with fetches := s.hold.fetches ++ [f], nextFetch := s.hold.nextFetch + 1 } }

/-- A pending LOOKAHEAD fetch of a row and version that nothing has superseded in the sectors a look-up fills (R122, log entry 96). -/
def aheadFetch (s : State) (l : HList) (r : RowEnt) (fill : List Nat) : Option Fetch :=
  s.hold.fetches.find? (fun f => f.spec && f.tid == l.tid && f.ver == l.ver && f.row.lb == r.lb && f.row.off == r.off &&
    f.stale.isEmpty && fill.all (f.sectors.contains ·))

/-- Join it. -/
def joinFetch (id : Nat) (l : HList) (r : RowEnt) (s : State) : State :=
  let f : Fetch → Fetch := fun x => if x.id = id then { x with joined := x.joined ++ [(l.key, r)] } else x
  listMap l.key (fun l => { l with fetches := l.fetches + 1 }) { s with hold := { s.hold with fetches := s.hold.fetches.map f } }

/-- Load the translations of a row's pages without raising a fault (R119, R322). -/
def loadXlat (a n : Nat) : Act Unit := do
  let task := (← read).task
  modify fun s => (rangeNeeds a n false 6 0).foldl (fun s x => specLoad x.va task s) s

/-- An injected parity failure of a row's berm tags (R470): its sectors are dropped, and refetched like any that are absent. -/
def parityTag (polder tid slot a n : Nat) : Act Unit := do
  let phys := ((← get).rep.polderMap[polder]?).getD polder
  let _ ← logAct { det := 0x05, sev := 0, level := 4, phys := phys, logical := polder, address := a, action := 1, injected := true }
  let gs := (granules a n).map (·.1)
  modify (bermDrop .nobody (fun x => x.tid == tid && x.slot == slot && gs.contains x.g))

/-- One row of a list. -/
def rowIn (k : ListKey) (tab : Table) (r : RowEnt) : Act Unit := do
  let s ← get
  match listGet s k with
  | none => return ()
  | some l =>
    let a := tab.wcAddr l.ver.toNat r.lb r.off
    let n := tab.wcSizeB
    let slot := l.ver.toNat % 4
    let own := listWho s l
    if tab.localBlocks ≤ r.lb then modify (dropRow l r)
    else match l.kind with
      | 3 =>
        if l.flags.getLsbD 3 then loadXlat a n
        if l.flags.getLsbD 2 then
          let (x, s) := specRow l.tid slot a n (l.src, l.task) own (← get)
          set s
          match x with
          | some x => if !x.fill.isEmpty then modify (addFetch l r true false x.fill)
          | none => return ()
      | 4 =>
        let x := pinRow l.tid slot a n own s
        set (listMap k (fun l => if x.hit then { l with work := l.work + 1 } else l) x.st)
        if !x.fill.isEmpty then modify (addFetch l r false true x.fill)
      | 5 =>
        let (ok, s) := unpinRow l.tid slot a n s
        set (listMap k (fun l => if ok then { l with work := l.work + 1 } else l) s)
      | 6 => modify (listMap k (fun l => { l with rows := l.rows ++ [r] }))
      | _ =>
        if (← injectedAct 0x05 ((s.rep.polderMap[l.polder]?).getD l.polder)) then parityTag l.polder l.tid slot a n
        let x := demandRow l.tid slot a n r.count (l.flags.getLsbD 1 || l.kind == 2) (l.src, l.task) own (← get)
        set x.st
        if l.kind = 0 && l.flags.getLsbD 0 then modify (listMap k (fun l => { l with rows := l.rows ++ [r] }))
        if x.hit then rowServed k tab r (overlayBerm x.st l.tid slot a (zeroBytes n))
        else match aheadFetch x.st l r x.fill with
          | some f => modify (joinFetch f.id l r)
          | none => modify (addFetch l r false false x.fill)

def rowsIn (k : ListKey) (tab : Table) : List RowEnt → Act Unit
  | [] => return ()
  | r :: t => do rowIn k tab r; rowsIn k tab t

/-! ### INDEX_LIST arrives -/

/-- The list that a segment belongs to, opened by its first segment. -/
def openList (h : Header) (dead : Bool) (s : State) : State :=
  let k : ListKey := (hSrc h, BitVec.ofNat 32 (hTask h), hf h 38 2)
  if (listGet s k).isSome then s
  else
    let l : HList :=
      { src := hSrc h
        task := BitVec.ofNat 32 (hTask h)
        tag := BitVec.ofNat 32 (hTag h)
        tid := hf h 32 3
        ver := BitVec.ofNat 16 (hf h 36 2)
        window := hf h 38 2
        kind := hf h 48 1
        flags := BitVec.ofNat 8 (hf h 49 1)
        segs := hf h 52 2
        got := 0
        polder := (hf h 38 2 + hTask h) % 8
        bags := []
        rows := []
        fetches := 0
        work := 0
        dropped := 0
        held := none
        dead := dead
        sat := false
        spill := false }
    { s with hold := { s.hold with lists := s.hold.lists ++ [l] } }

/-- The record of a list whose version is free here (R237). -/
def freeVersionRecord (h : Header) (inj : Bool) (s : State) : State :=
  logErr { det := 0x1B, sev := 0, address := hf h 32 3 + hf h 36 2 * 2 ^ 32, tag := hTag h, eid := hSrc h,
           detail := leBytes 4 (hf h 32 3) ++ leBytes 2 (hf h 36 2), injected := inj } s

/-- The rows of a segment that are whole: the last one of a segment that is not the list's last may go on in the next. -/
def wholeRows (k : ListKey) (rows : List RowEnt) (s : State) : List RowEnt × State :=
  match listGet s k with
  | none => ([], s)
  | some l =>
    let rows := mergeEntries (l.held.toList ++ rows)
    if l.segs ≤ l.got + 1 then (rows, listMap k (fun l => { l with held := none }) s)
    else (rows.dropLast, listMap k (fun l => { l with held := rows.getLast? }) s)

/-- INDEX_LIST arrives at a holder. -/
def deliverIndexList (h : Header) (payload : Bytes) : Act Unit := do
  let k : ListKey := (hSrc h, BitVec.ofNat 32 (hTask h), hf h 38 2)
  if (← get).fab.discards.contains (k.1, k.2.1, BitVec.ofNat 32 (hTag h)) then return ()
  let first := decide (hf h 50 2 = 0)
  let inj ← (if first then injectedAct 0x1B 0 else return false)
  let tab := tabGet (← get) (hf h 32 3)
  let live := tab.any (fun t => (t.version (BitVec.ofNat 16 (hf h 36 2))).isSome) && !inj
  modify (openList h (first && !live))
  if first && !live then modify (freeVersionRecord h inj)
  let (rows, s) := wholeRows k (readRowsOf (hf h 40 4) payload) (← get)
  set s
  match listGet s k, tab with
  | none, _ => return ()
  | some l, some tab => if l.dead then modify (fun s => rows.foldl (fun s r => dropRow l r s) s) else rowsIn k tab rows
  | some l, none => modify (fun s => rows.foldl (fun s r => dropRow l r s) s)
  modify (listMap k (fun l => { l with got := l.got + 1 }))
  listSettle k

/-! ### CANCEL arrives (R125, R126, R168) -/

/-- A holder lets go of a task: its lists, kept lists and queued buckets. Fetches issued finish for the berm alone. -/
def forgetTask (src : Nat) (task : BitVec 32) (s : State) : State :=
  let s := unfetch src task s
  { s with
    hold := { s.hold with
      lists := s.hold.lists.filter (fun l => !(l.src == src && l.task == task))
      kept := s.hold.kept.filter (fun l => !(l.req == src && l.task == task)) }
    grad := { s.grad with buckets := s.grad.buckets.filter (fun b => !(b.src == src && b.task == task)) } }

/-- Acknowledge the cancels whose gathers are all in. -/
def cancelAcks (s : State) : State :=
  (s.hold.cancels.filter (·.fetches.isEmpty)).foldl
    (fun s c => sendTaskAck c.src c.task.toNat c.tag.toNat 0x10 ⟨stOk, 0, 0, BitVec.ofNat 32 c.work⟩ s)
    { s with hold := { s.hold with cancels := s.hold.cancels.filter (fun c => !c.fetches.isEmpty) } }

/-- A fetch is over for the cancels that wait for it. -/
def cancelFetched (id : Nat) (s : State) : State :=
  cancelAcks { s with hold := { s.hold with
    cancels := s.hold.cancels.map (fun c => { c with fetches := c.fetches.filter (· != id) }) } }

/-- The fetches issued for a task's lists. -/
def taskFetches (src : Nat) (task : BitVec 32) (s : State) : List Nat :=
  let mine : ListKey → Bool := fun k => k.1 == src && k.2.1 == task
  (s.hold.fetches.filter (fun f => f.owner.any mine || f.joined.any (fun j => mine j.1))).map (·.id)

/-- CANCEL: the task's work here is dropped, its rows become speculative unless it releases kept lists that a bucket has named (log
entry 17), and the acknowledgement follows once the gathers issued for it are in (R125). It carries the rows that LOOKAHEAD lists had
brought in (R128). -/
def deliverCancel (h : Header) (_ : Bytes) : Act Unit :=
  modify fun s =>
    let task : BitVec 32 := BitVec.ofNat 32 (hTask h)
    let tag : BitVec 32 := BitVec.ofNat 32 (hTag h)
    let d := (hSrc h, task, tag)
    let release := s.hold.kept.any (fun k => k.req == hSrc h && k.task == task && k.used)
    let work := ((s.hold.lists.filter (fun l => l.src == hSrc h && l.task == task && l.kind == 3)).map (·.work)).sum
    let out := taskFetches (hSrc h) task s
    let s := if release then s else bermUncount (hSrc h, task) s
    let s := forgetTask (hSrc h) task s
    let s := if s.fab.discards.contains d then s else { s with fab := { s.fab with discards := s.fab.discards ++ [d] } }
    cancelAcks { s with hold := { s.hold with cancels := s.hold.cancels ++ [⟨hSrc h, task, tag, out, work⟩] } }

/-! ### BERM_FILL_COMPLETE -/

/-- The bytes a fetch reads: whole granules for a lookahead or a pin, else the pieces the row needs. -/
def fetchRange (f : Fetch) (tab : Table) : Nat × Nat :=
  let a := tab.wcAddr f.ver.toNat f.row.lb f.row.off
  let k := if f.spec || f.pin then 256 else 64
  (a / k * k, roundUp (a + tab.wcSizeB) k - a / k * k)

/-- Install what a fetch read in the sectors that nothing superseded. -/
def fetchInstall (f : Fetch) (lo : Nat) (b : Bytes) (s : State) : State :=
  f.sectors.foldl (fun s g =>
    if f.stale.contains g then endFill f.tid (f.ver.toNat % 4) g s else installSector f.tid (f.ver.toNat % 4) g lo b s) s

/-- A fetch came to nothing. -/
def fetchAbandon (f : Fetch) (s : State) : State :=
  f.sectors.foldl (fun s g =>
    if f.stale.contains g then endFill f.tid (f.ver.toNat % 4) g s else abandonSector .nobody f.tid (f.ver.toNat % 4) g s) s

/-- A list's fetch is over. -/
def fetchOver (k : ListKey) (work : Nat) : Act Unit := do
  modify (listMap k (fun l => { l with fetches := l.fetches - 1, work := l.work + work }))
  listSettle k

/-- The lists a fetch serves have failed with it. -/
def fetchFail (src : Nat) (task tag : BitVec 32) (keys : List ListKey) (x : Stop) : Act Unit := do
  let _ ← onBehalf src task.toNat tag.toNat (do throw x) (fun r => do
    for k in keys do modify (listFail k r))
  return ()

/-- Whether a list only skips a row whose read stopped: LOOKAHEAD where a line is poisoned (Table Mem-6), or where the walk was
speculative because the list loads translations (R322). -/
def quietList (s : State) (k : ListKey) (x : Stop) : Bool :=
  match listGet s k with
  | some l => l.kind == 3 && (l.flags.getLsbD 3 || match x with | .poison _ => true | _ => false)
  | none => true

/-- Serve every list that waits for a fetch. -/
def fetchServe (f : Fetch) (tab : Table) (b : Bytes) : List (ListKey × RowEnt) → Act Unit
  | [] => return ()
  | (k, r) :: rest => do
    rowServed k tab r b
    let lookahead := (listGet (← get) k).any (fun l => l.kind == 3)
    fetchOver k (if lookahead then 1 else 0)
    fetchServe f tab b rest

/-- Read a row's bytes from memory for the first list that waits. -/
def fetchRead (lo n : Nat) (keys : List (ListKey × RowEnt)) : Act Bytes := do
  let s ← get
  match keys.head?.bind (fun x => listGet s x.1) with
  | some l => serving l.src l.task.toNat l.tag.toNat (readVa lo n)
  | none => readVa lo n

/-- Read a row's bytes from memory, and give them to the lists and the berm. -/
def fillRead (f : Fetch) (tab : Table) (keys : List (ListKey × RowEnt)) : Act Unit := do
  let (lo, n) := fetchRange f tab
  let b ← fetchRead lo n keys
  let a := tab.wcAddr f.ver.toNat f.row.lb f.row.off
  let s ← get
  let row := overlayBerm s f.tid (f.ver.toNat % 4) a ((b.drop (a - lo)).take tab.wcSizeB)
  modify (fetchInstall f lo b)
  fetchServe f tab row keys

/-- What a fetch brings: it serves its lists and fills its sectors; a read that fails ends the lists that waited. -/
def fetchReturn (f : Fetch) : Act Unit := do
  let keys := (f.owner.map (fun k => (k, f.row))).toList ++ f.joined
  match tabGet (← get) f.tid with
  | none => return ()
  | some tab =>
    tryCatch (fillRead f tab keys) fun x => do
      match x with
      | .mig va w => throw (.mig va w)
      | x => do
        modify (fetchAbandon f)
        for (k, _) in keys do
          match listGet (← get) k with
          | none => pure ()
          | some l => if quietList (← get) k x then fetchOver k 0 else fetchFail l.src l.task l.tag [k] x

/-- A fetch returns, and cancels may have waited for it. -/
def fillComplete (id : Nat) : Act Unit := do
  let s ← get
  match s.hold.fetches.find? (fun f => f.id == id) with
  | none => return ()
  | some f =>
    set { s with hold := { s.hold with fetches := s.hold.fetches.filter (fun x => x.id != id) } }
    fetchReturn f
    modify (cancelFetched id)

/-- BERM_FILL_COMPLETE: a page being moved keeps the fetch waiting (R318). -/
def bermFillComplete (id : Nat) (s : State) : State :=
  match (fillComplete id).go none s with
  | (.ok _, s) => s
  | (.error (.mig va w), _) => if s.xl.walks.any (fun k => k.va == va && k.mig.isSome) then s else waitMig none va w s
  | (.error _, s) => s

def execBermFillComplete (fetch : Nat) (s : State) : Host.Outcome State Fault Refusal := leaves s (bermFillComplete fetch s)

end Sys2Proof.Machine
end

