-- ==== Sys2Proof/Machine/Grad.lean ====
section
/-! DEFINITION. Gradients: GRAD_SCATTER at the requester, buckets and the gradient store at the primary, GRAD_FLUSH (R166 to
R185). -/

namespace Sys2Proof.Machine

/-! ### The gradient store (R178 to R182) -/

def gradGroups : Nat := 4096

/-- What names a gradient: TID, version, local block, offset, and the UPDATE_APPLY that closed it. -/
structure GradId where
  tid : Nat
  ver : BitVec 16
  lb : Nat
  off : Nat
  closed : Option Nat
  deriving DecidableEq, Repr, Inhabited

def Grad.gid (g : Grad) : GradId := ⟨g.tid, g.ver, g.lb, g.off, g.closed⟩

def gradGet (s : State) (k : GradId) : Option Grad := s.grad.grads.find? (fun g => g.gid == k && g.lost.isNone)

def gradMap (k : GradId) (f : Grad → Grad) (s : State) : State :=
  { s with grad := { s.grad with grads := s.grad.grads.map (fun g => if g.gid = k ∧ g.lost = none then f g else g) } }

def gradDrop (k : GradId) (s : State) : State :=
  { s with grad := { s.grad with grads := s.grad.grads.filter (fun g => !(g.gid == k && g.lost.isNone)) } }

def gradWidth (s : State) (tid : Nat) : Nat := match tabGet s tid with | some t => t.width | none => 0

/-- Groups in use. -/
def gradUsed (s : State) : Nat := (s.grad.grads.map (fun g => g.parts.length * spanOf (gradWidth s g.tid))).sum

def gradCtr (g : GradState) : Nat → BitVec 32
  | 0 => g.spilled
  | 1 => g.restored
  | 2 => g.rowsSplit
  | 3 => g.notKept
  | _ => g.stalls

def setGradCtr (g : GradState) (v : BitVec 32) : Nat → GradState
  | 0 => { g with spilled := v }
  | 1 => { g with restored := v }
  | 2 => { g with rowsSplit := v }
  | 3 => { g with notKept := v }
  | _ => { g with stalls := v }

/-- Count on a counter of Table Grad-3. -/
def gradCount (k : Nat) (w : Who) (s : State) : State :=
  let c := gradCtr s.grad k
  let g := setGradCtr s.grad (satAdd c 1) k
  if satHits c 1 then satTask w { s with grad := { g with gradSat := g.gradSat ||| (1#6 <<< k) } } else { s with grad := g }

/-- No group and no slot is free (R183): what an expansion stops with. -/
def noRoom : Result := resultOf stNoBuffer 0

/-- A gradient whose slots cannot be written or read back is discarded, and the record names it and the slot (R146). -/
def loseGrad (g : Grad) (slots : List Nat) (s : State) : State :=
  let slot := (slots.find? (slotBad s)).getD ((slots.head?).getD 0)
  let det : Nat := if (slotPieces s slot).any (fun ps => ps.all (pieceUp s)) then 0x08 else 0x0A
  let idx := nextErrIdx s
  let s := if det = 0x08 then { s with mem := { s.mem with poisonCount := satAdd s.mem.poisonCount 1 } } else s
  let s := logErr { det := det, sev := 2, address := slotVa s slot, action := 0x07,
                    detail := leBytes 4 g.tid ++ leBytes 2 g.ver.toNat ++ leBytes 4 g.lb ++ leBytes 4 g.off } s
  gradMap g.gid (fun g => { g with parts := [], slots := [], lost := some (BitVec.ofNat 8 det, idx) }) s

/-- Write partial accumulators into slots, span by span. -/
def writeParts (span : Nat) : List Nat → List (List (F32 × F32)) → Act Unit
  | _, [] => return ()
  | slots, p :: t => do
    spillSums (slots.take span) p
    writeParts span (slots.drop span) t

def readParts (span w : Nat) : Nat → List Nat → Act (List (List (F32 × F32)))
  | 0, _ => return []
  | n + 1, slots => do
    let p ← restoreSums (slots.take span) w
    let rest ← readParts span w n (slots.drop span)
    return p :: rest

/-- A gradient's partial accumulators, from its groups or its slots. -/
def gradParts (g : Grad) (w : Nat) : Act (List (List (F32 × F32))) :=
  if g.slots.isEmpty then return g.parts else readParts (spanOf w) w (g.slots.length / max 1 (spanOf w)) g.slots

/-- An access to slots of a gradient, its own or those it is to take; where it stops, the gradient is lost. -/
def orLost {α : Type} (g : Grad) (slots : List Nat) (dflt : α) (a : Act α) : Act α := do
  let task := (← read).task
  let s ← get
  match a.go task s with
  | (.ok x, s) => set s; return x
  | (.error _, _) => set (loseGrad g (g.slots ++ slots) s); return dflt

/-- The least recently touched gradient of a kind. -/
def oldestGrad (s : State) (p : Grad → Bool) : Option Grad :=
  (s.grad.grads.filter p).foldl (fun best g => match best with
    | none => some g
    | some b => if g.touched < b.touched then some g else some b) none

/-- `n` slots of the LLS part, if so many are free. -/
def takeLlsSlots (n : Nat) (s : State) : Option (List Nat) :=
  let used := usedSlots s
  let l := firstFree used (llsSlots s) (used.length + n) 0 n
  if l.length = n then some l else none

/-- Move a gradient held in the LLS part to the HBM part. -/
def moveGrad (g : Grad) (slots : List Nat) : Act Unit := do
  let w := gradWidth (← get) g.tid
  orLost g slots () (do
    let ps ← gradParts g w
    writeParts (spanOf w) slots ps
    modify (gradMap g.gid (fun g => { g with slots := slots })))

/-- Free slots for a spilled gradient: the LLS part first, from which the least recently touched gradient moves on. -/
def gradSlots (n : Nat) : Nat → Act (Option (List Nat))
  | 0 => return takeSlots n (← get)
  | fuel + 1 => do
    let s ← get
    match takeLlsSlots n s with
    | some l => return some l
    | none =>
      match oldestGrad s (fun g => !g.slots.isEmpty && g.slots.all (fun k => decide (k < llsSlots s))) with
      | none => return takeSlots n s
      | some v => match takeHbmSlots v.slots.length s with
        | none => return takeSlots n s
        | some hs => do
          moveGrad v hs
          gradSlots n fuel

/-- Spill a gradient's groups, across every partial. -/
def spillGrad (g : Grad) (own : Who) : Act Unit := do
  let s ← get
  let w := gradWidth s g.tid
  match (← gradSlots (g.parts.length * spanOf w) (s.grad.grads.length + 1)) with
  | none => stop (.fail noRoom)
  | some slots =>
    orLost g slots () (do
      writeParts (spanOf w) slots g.parts
      modify (gradMap g.gid (fun g => { g with parts := [], slots := slots })))
    modify (gradCount 0 own)
    modify (spillTask own)

/-- Free groups until `n` more fit beside a gradient. -/
def gradRoom (n : Nat) (k : GradId) (own : Who) : Nat → Act Unit
  | 0 => stop (.fail noRoom)
  | fuel + 1 => do
    let s ← get
    if gradUsed s + n ≤ gradGroups then return ()
    else match oldestGrad s (fun g => !g.parts.isEmpty && g.gid != k) with
      | none => stop (.fail noRoom)
      | some v => do
        spillGrad v own
        gradRoom n k own fuel

/-- The open gradient of a row, in its groups: opened, or restored whole. -/
def readyGrad (k : GradId) (w : Nat) (own : Who) : Act Unit := do
  match gradGet (← get) k with
  | some g =>
    if g.slots.isEmpty then return ()
    else
      gradRoom g.slots.length k own (gradGroups + 1)
      orLost g [] () (do
        let ps ← gradParts g w
        modify (gradMap k (fun g => { g with parts := ps, slots := [] })))
      modify (gradCount 1 own)
      if (gradGet (← get) k).isNone then openNew
  | none => openNew
where
  openNew : Act Unit := do
    gradRoom (spanOf w) k own (gradGroups + 1)
    modify fun s => { s with grad := { s.grad with
      grads := s.grad.grads ++ [⟨k.tid, k.ver, k.lb, k.off, none, [zeroSums w], 0, 0, false, [], 0, none, []⟩] } }

/-- Split a row at its 4,097th contribution since it opened or combined (R180). One that finds no free group then is the row's one split
all the same: no partial opens and nothing is counted (log entry 97). -/
def splitGrad (k : GradId) (w : Nat) (own : Who) (s : State) : State :=
  match gradGet s k with
  | none => s
  | some g =>
    if g.split || g.since < 4096 then s
    else
      let n := min 15 ((gradGroups - gradUsed s) / max 1 (spanOf w))
      let s := gradMap k (fun g => { g with split := true, parts := g.parts ++ List.replicate n (zeroSums w) }) s
      if n = 0 then s else gradCount 2 own s

/-- Add one contribution of a scatter, by requester and task, to a row's open gradient (R176). Which partial of a split row takes it is
open. -/
def contribute (k : GradId) (weight : F32) (x : List F32) (giver : Nat × BitVec 32) (own : Who) : Act Unit := do
  readyGrad k x.length own
  modify (splitGrad k x.length own)
  let s ← get
  match gradGet s k with
  | none => return ()
  | some g =>
    let (c, s) := touch s
    let (d, s) := if g.parts.length ≤ 1 then (0, s) else draw s
    let at_ := if g.parts.length ≤ 1 then 0 else (Config.freeByte d).toNat % g.parts.length
    let sat := satHits g.count 1
    let s := if sat then satTask own { s with grad := { s.grad with gradSat := s.grad.gradSat ||| 32 } } else s
    set (gradMap k (fun g => { g with
      parts := g.parts.zipIdx.map (fun (p, i) => if i = at_ then p.zipWith poolStep (x.map (pmul weight)) else p)
      count := satAdd g.count 1
      since := g.since + 1
      touched := c
      givers := if g.givers.contains giver then g.givers else g.givers ++ [giver] }) s)

/-- Combine partials (R181). -/
def combineParts (ps : List (List (F32 × F32))) : List (F32 × F32) :=
  match ps with
  | [] => []
  | p :: _ => ps.foldl (fun acc q => acc.zipWith poolStep (q.map finalise)) (zeroSums p.length)

/-- The finalised gradient of a row at drain. -/
def drainedGrad (ps : List (List (F32 × F32))) : List F32 :=
  match ps with
  | [p] => p.map finalise
  | ps => (combineParts ps).map finalise

/-! ### Buckets at the primary (R176, R183, R407) -/

/-- GRAD_BUCKET arrives: a segment of a bucket. -/
def deliverGradBucket (h : Header) (payload : Bytes) : Act Unit :=
  modify fun s =>
    let task : BitVec 32 := BitVec.ofNat 32 (hTask h)
    let tag : BitVec 32 := BitVec.ofNat 32 (hTag h)
    if s.fab.discards.contains (hSrc h, task, tag) then s
    else
      let mine : Bucket → Bool := fun b => b.src == hSrc h && b.task == task && b.num == hf h 40 4
      let s := if s.grad.buckets.any mine then s else
        let b : Bucket := ⟨hSrc h, task, tag, hf h 32 3, BitVec.ofNat 16 (hf h 36 2), hf h 38 1, hf h 40 4, BitVec.ofNat 32 (hf h 44 4),
          hf h 50 2, 0, hf h 52 4, [], 0, false, false⟩
        { s with grad := { s.grad with buckets := s.grad.buckets ++ [b] } }
      let add : Bucket → Bucket := fun b => if mine b then { b with got := b.got + 1, bytes := b.bytes ++ payload } else b
      { s with grad := { s.grad with buckets := s.grad.buckets.map add } }

/-- The lists a bucket's bags meet here: those resent for its task, else those kept under its forward tag. -/
def bucketLists (s : State) (b : Bucket) : List Kept :=
  let own := s.hold.kept.filter (fun k => k.req == b.src && k.task == b.task && k.resent)
  if own.isEmpty then
    s.hold.kept.filter (fun k => k.req == b.src && k.tag == b.fwd && k.tid == b.tid && k.ver == b.ver && !k.resent) else own

def bucketRows (s : State) (b : Bucket) : List RowEnt := (bucketLists s b).flatMap (·.rows)

/-- A kept list whose slots cannot be read back is released, and its requester learns that it is not kept (R146, R171). -/
def loseKept (k : Kept) (s : State) : State :=
  sendTaskAck k.req k.task.toNat k.tag.toNat 0 (resultOf stNoBuffer 0)
    { s with hold := { s.hold with kept := s.hold.kept.filter (fun x => x != k) } }

/-- Kept lists, and what requesters keep of them, in slots of a memory that has gone: released, each with a record of its slot (R146). -/
def keptOffline (s : State) : State :=
  let down : List Nat → Option Nat := fun l => l.find? (slotDown s)
  let s := s.hold.kept.foldl (fun s k => match down k.slots with
    | some n => loseKept k (logErr { det := 0x0A, sev := 2, address := slotVa s n, action := 0x07 } s)
    | none => s) s
  s.hold.keptReq.foldl (fun s k => match down k.slots with
    | some n => keptReqMap k.task (fun k => { k with missing := true, slots := [] })
        (logErr { det := 0x0A, sev := 2, address := slotVa s n, action := 0x07 } s)
    | none => s) s

/-- Read the kept lists that a bucket names: those that cannot be read are lost, and the record of the last one is given. -/
def readKept : List Kept → Option (BitVec 16) → State → Option (BitVec 16) × State
  | [], r, s => (r, s)
  | k :: t, r, s =>
    match (keptRead k.slots).go none s with
    | (.ok true, s) => readKept t r s
    | (_, s) => readKept t (some (BitVec.ofNat 16 ((nextErrIdx s).toNat + 65535))) (loseKept k s)

/-- Mark the lists a bucket names as used (log entry 17). -/
def useKept (b : Bucket) (s : State) : State :=
  let ls := bucketLists s b
  { s with hold := { s.hold with kept := s.hold.kept.map (fun k => if ls.contains k then { k with used := true } else k) } }

def isBucket (b x : Bucket) : Bool := x.src == b.src && x.task == b.task && x.num == b.num

/-- What the events of a bucket serve. -/
def bucketWho (s : State) (b : Bucket) : Who :=
  match listTask s b.src b.task with
  | some id => .task id
  | none => .bucket b.src b.task b.num

/-- FMT 0 is FP32, FMT 1 is BF16. -/
def gradValues (fmt w : Nat) (b : Bytes) : List F32 :=
  if fmt = 0 then f32List w b else (unpackCodes 16 w b).map (fun x => BitVec.ofNat 32 (x * 65536))

def entryBytes (fmt w : Nat) : Nat := 4 + roundUp ((if fmt = 0 then 4 else 2) * w) 4

/-- The contributions of one entry: rows and weights. -/
def entryTerms (bag : Nat) (rows : List RowEnt) : List (RowEnt × F32) :=
  rows.flatMap (fun r => (r.terms.filter (fun t => t.bag == bag)).map (fun t => (r, t.weight)))

def contributeAll (b : Bucket) (x : List F32) (own : Who) : List (RowEnt × F32) → Act Unit
  | [] => return ()
  | (r, w) :: t => do
    contribute ⟨b.tid, b.ver, r.lb, r.off, none⟩ w x (b.src, b.task) own
    contributeAll b x own t

/-- Expand entries until the bytes end or storage does: bytes left, contributions added, and whether storage ended. An entry that runs
out of storage is rolled back whole, and tried again from its first term (log entry 98). -/
def expandEntries (b : Bucket) (w : Nat) (rows : List RowEnt) (own : Who) : Nat → Bytes → Nat → State → Bytes × Nat × Bool × State
  | 0, bytes, n, s => (bytes, n, false, s)
  | fuel + 1, bytes, n, s =>
    let k := entryBytes b.fmt w
    if bytes.length < k then ([], n, false, s)
    else
      let ts := entryTerms (leField bytes 0 4) rows
      match (contributeAll b (gradValues b.fmt w (bytes.drop 4)) own ts).go none s with
      | (.error _, _) => (bytes, n, true, s)
      | (.ok _, s) => expandEntries b w rows own fuel (bytes.drop k) (n + ts.length) s

/-- A queued bucket is given up, and its requester learns why. -/
def bucketFail (b : Bucket) (r : Result) (s : State) : State :=
  let s := { s with grad := { s.grad with buckets := s.grad.buckets.filter (fun x => x != b) } }
  let s := creditBack b.src false (bucketUnits (min b.len (b.got * 65536))) s
  sendTaskAck b.src b.task.toNat b.tag.toNat 0x11 r s

/-- BUCKET_EXPAND: the primary takes the next whole bucket from its queue. -/
def bucketExpand (s : State) : State :=
  match s.grad.buckets.find? (fun b => b.segs ≤ b.got) with
  | none => s
  | some b =>
    let w := gradWidth s b.tid
    let own := bucketWho s b
    let (lost, s) := readKept (bucketLists s b) none (useKept b s)
    let live := lost.isNone && ((tabGet s b.tid).bind (·.version b.ver)).isSome
    let (rest, n, stalled, s) :=
      if live then expandEntries b w (bucketRows s b) own (b.bytes.length + 1) b.bytes b.added s else ([], b.added, false, s)
    let s := countCmd 5 (n - b.added) own s
    if stalled then
      let s := if s.grad.stalled then s else gradCount 4 own s
      { s with grad := { s.grad with
        stalled := true
        buckets := s.grad.buckets.map (fun x => if isBucket b x then { x with bytes := rest, added := n } else x) } }
    else
      let flags : BitVec 24 := match s.grad.buckets.find? (isBucket b) with
        | some x => (if x.sat then 1 else 0) ||| (if x.spill then 2 else 0)
        | none => 0
      let s := progress { s with grad := { s.grad with stalled := false, buckets := s.grad.buckets.filter (fun x => !isBucket b x) } }
      let s := creditBack b.src false (bucketUnits b.len) s
      let r : Result := match lost with
        | some idx => rHw 0x0A idx
        | none => ⟨stOk, flags, 0, BitVec.ofNat 32 (min n (2 ^ 32 - 1))⟩
      sendTaskAck b.src b.task.toNat b.tag.toNat 0x11 r s

def execBucketExpand (s : State) : Host.Outcome State Fault Refusal := leaves s (bucketExpand s)

/-! ### GRAD_SCATTER at the requester -/

def scResent (t : Task) : Bool := pf t.pkt 32 8 != 0
def scRelease (t : Task) : Bool := pflag t.pkt 9
def scFmt (t : Task) : Nat := pf t.pkt 14 1
def scBucket (t : Task) : Nat := if pf t.pkt 56 4 = 0 then 262144 else pf t.pkt 56 4 * 1024

def gradScatterStep4 (_ : Byte) (p : Packet) : Checks :=
  let kib := pf p 56 4
  [highAddr p 32, misaligned p 32 16, highAddr p 40, misaligned p 40 16, highAddr p 48, misaligned p 48 16,
   bad (2 ≤ pf p 14 1 && pf p 14 1 < 12) 3 14, bad (12 ≤ pf p 14 1) 2 14, highAddr p 16, misaligned p 16 4,
   bad (pf p 24 4 % 4 != 0) 3 24, bad (pf p 32 8 = 0 && pf p 40 8 != 0) 3 40, bad (pf p 32 8 = 0 && pf p 48 8 != 0) 3 48,
   bad (pf p 32 8 != 0 && pf p 48 8 = 0) 3 48, bad (kib != 0 && (decide (kib < 4) || decide (4096 < kib) || kib % 4 != 0)) 3 56]

/-- Kept lists that a scatter names (R168). -/
def keptMatches (s : State) (t : Task) : List KeptReq :=
  s.hold.keptReq.filter (fun k => k.tid == pTid t.pkt && k.tag.toNat == pf t.pkt 28 4 && !k.released)

def rowBytesOf (fmt w : Nat) : Nat := (if fmt = 0 then 4 else 2) * w

/-- Whether the requester has no copy of what it keeps of a look-up, or can no longer read it back (R146, R171). -/
def keptReqLost (k : KeptReq) : Act Bool := do
  if k.missing then return true
  else if (← keptRead k.slots) then return false
  else
    modify (keptReqMap k.task (fun k => { k with missing := true, slots := [] }))
    return true

def gradScatterCheck (t : Task) : Act Unit := do
  let p := t.pkt
  let (tab, v) ← bindRecords t
  let l ← (if scResent t then (do let l ← readHeads t 32 40 48 2; return some l) else return none)
  let s ← get
  let bags := match l with
    | some l => (l.offset.map (·.count)).getD 0
    | none => ((keptMatches s t).head?.map (·.nb.length)).getD 0
  let fmt := scFmt t
  need [bad (pf p 24 4 < rowBytesOf fmt tab.width) 3 24]
  if !scResent t then
    match keptMatches s t with
    | [] => stop (.fail (rBadParam 5 28))
    | [k] =>
      need [bad (!k.complete) 6 28, bad (k.ver != v) 6 12]
      let lost ← keptReqLost k
      need [bad lost 6 32]
    | _ => stop (.fail (rBadParam 6 28))
  let sent := if (keptMatches s t).any (·.mean) && !scResent t then 0 else fmt
  need [bad (scBucket t < entryBytes sent tab.width) 3 56,
        bad (bags != 0 && decide (2 ^ 52 < pf p 16 8 + (bags - 1) * pf p 24 4 + rowBytesOf fmt tab.width)) 3 16]
  match keptMatches s t, scResent t with
  | [k], false => modify (keptReqMap k.task (fun k => { k with users := k.users ++ [t.id] }))
  | _, _ => return ()

def scatterRunOf (t : Task) : Option ScatterRun :=
  match t.phase with
  | .running (.scatter r) => some r
  | _ => none

def scatterMap (id : Nat) (f : ScatterRun → ScatterRun) (s : State) : State :=
  mapTask id (fun t => match t.phase with
    | .running (.scatter r) => { t with phase := .running (.scatter (f r)) }
    | _ => t) s

/-- Send a bucket, segment by segment. -/
def sendBucket (t : Task) (dst tid ver fmt num : Nat) (b : Bytes) (s : State) : State :=
  let segs := ceilDiv b.length 65536
  (List.range segs).foldl (fun s k =>
    sendMsg dst 0x20 t.id t.pkt.tag.toNat [(32, 3, tid), (36, 2, ver), (38, 1, fmt), (40, 4, num), (44, 4, pf t.pkt 28 4), (48, 2, k),
      (50, 2, segs), (52, 4, b.length)] ((b.drop (k * 65536)).take 65536) s) s

/-- Pack entries into buckets that none of them spans (R173). -/
def packBuckets (limit : Nat) : List Bytes → Bytes → List Bytes
  | [], cur => if cur.isEmpty then [] else [cur]
  | e :: t, cur =>
    if cur.isEmpty || cur.length + e.length ≤ limit then packBuckets limit t (cur ++ e) else cur :: packBuckets limit t e

/-- A bag's entry: its gradient as given, or scaled in FP32 by the reciprocal of n_b (R170). -/
def scatterEntry (t : Task) (w bag : Nat) (scale : Option Nat) (row : Bytes) : Bytes :=
  match scale with
  | none => leBytes 4 bag ++ padTo (roundUp row.length 4) row
  | some nb => leBytes 4 bag ++ f32Bytes ((gradValues (scFmt t) w row).map (fun x => pmul x (freciprocal (f32OfNat nb))))

/-- The rows of the bags that are sent. -/
def readBagRows (t : Task) (w : Nat) : List Nat → Act (List (Nat × Bytes))
  | [] => return []
  | b :: rest => do
    let n := rowBytesOf (scFmt t) w
    let a := pf t.pkt 16 8 + b * pf t.pkt 24 4
    let x ← readVa a n
    let r ← readBagRows t w rest
    return (b, x) :: r

def insertNat (a : Nat) : List Nat → List Nat
  | [] => [a]
  | b :: t => if a < b then a :: b :: t else if a = b then b :: t else b :: insertNat a t

def sortNats (l : List Nat) : List Nat := l.foldr insertNat []

/-- The primaries that keep lists of a look-up and have not been lost. -/
def keptPrimaries (k : KeptReq) (s : State) : List Nat := ((k.marks.map (·.2)).eraseDups).filter (fun h => !isLost s h)

/-- Send CANCEL for a task to holders: what they keep for it is let go of. -/
def letGo (task tag : Nat) (holders : List Nat) (s : State) : State :=
  (holders.filter (fun h => !isLost s h)).foldl (fun s h => sendMsg h 0x13 task tag [] [] s) s

/-- Resent terms are let go of where a scatter ends. -/
def dropResent (t : Task) (s : State) : State := letGo t.id t.pkt.tag.toNat t.sent s

def scatterResult (t : Task) (r : ScatterRun) (s : State) : State := finishOk t.id r.contributions (dropResent t s)

/-- Whether a scatter that matched kept lists still runs. -/
def keptBusy (k : KeptReq) (s : State) : Bool := k.users.any (fun u => (taskOf s u).any (fun x => !x.isDone))

/-- A scatter has done with kept lists of look-up `f`; where they are released and nobody uses them any more, the primaries free them
(R168). -/
def leaveKept (f id : Nat) (s : State) : State :=
  let s := keptReqMap f (fun k => { k with users := k.users.filter (· != id) }) s
  match s.hold.keptReq.find? (fun k => k.task == f) with
  | some k => if k.released && !keptBusy k s then dropKeptReq f (letGo f k.tag.toNat (keptPrimaries k s) s) else s
  | none => s

/-- A scatter with nothing outstanding ends, after the release it asked for (R168, R174): every primary acknowledges it. Where another
scatter still uses the lists, the CANCEL that asks for the acknowledgement names this scatter's own task, and the lists are freed when
the last of their scatters ends (log entry 17). -/
def scatterSettle (id : Nat) (s : State) : State :=
  match taskOf s id with
  | none => s
  | some t => match scatterRunOf t with
    | none => s
    | some r =>
      if !r.await.isEmpty || !r.releasing.isEmpty then s
      else match r.fwd with
        | none => scatterResult t r s
        | some f =>
          if !scRelease t then scatterResult t r (leaveKept f id s)
          else match s.hold.keptReq.find? (fun k => k.task == f) with
            | none => scatterResult t r s
            | some k =>
              let live := keptPrimaries k s
              let k := { k with users := k.users.filter (· != id), released := true }
              let s := keptReqMap f (fun _ => k) s
              let busy := keptBusy k s
              let s := letGo (if busy then id else f) (if busy then t.pkt.tag.toNat else k.tag.toNat) live s
              let s := if busy then s else dropKeptReq f s
              if live.isEmpty then scatterResult t r s else scatterMap id (fun r => { r with releasing := live }) s

/-- End a scatter early. -/
def endScatter (id : Nat) (res : Result) (s : State) : State :=
  match taskOf s id with
  | none => s
  | some t =>
    let run := scatterRunOf t
    let work := (run.map (·.contributions)).getD 0
    let holders := ((run.map (fun r => r.await.map (·.1))).getD [] ++ t.sent).eraseDups
    let s := match run.bind (·.fwd) with | some f => leaveKept f id s | none => s
    finishTask id { res with work := satAdd (0 : BitVec 32) work, dropped := satAdd (0 : BitVec 32) t.dropped } (letGo id t.pkt.tag.toNat holders s)

/-- Form the term lists of a resent scatter (R173): its windows, after the drops are counted. -/
def resentWindows (t : Task) (tab : Table) (v : Nat) : Act (List Window) := do
  let l ← readHeads t 32 40 48 2
  let (idx, ws, starts) ← readLists t l 2 []
  let n := l.index.count
  let f ← formWindows t tab v l.index.elem .primary true idx ws (bagWindows n starts).zipIdx []
  let tid := pTid t.pkt
  modify (countCmd 2 n (.task t.id))
  modify (countDropped t.id tid 0 f.missing ∘ countDropped t.id tid 1 f.range ∘ countDropped t.id tid 2 f.unmapped)
  return f.windows

/-- Bags and the primaries that hold a term of each. -/
def windowMarks (ws : List Window) : List (Nat × Nat) :=
  (ws.flatMap fun w => w.lists.flatMap fun l => l.2.flatMap fun r => r.terms.map fun x => (x.bag, l.1)).eraseDups

/-- Start a scatter: translate the rows it reads, send resent terms, then the buckets (R172, R173). -/
def scatterStart (t : Task) : Act Unit := do
  let (tab, v) ← bindVersion t
  let tid := pTid t.pkt
  let w := tab.width
  let s0 ← get
  let kept : Option KeptReq := if scResent t then none else s0.hold.keptReq.find? (fun k => k.users.contains t.id)
  let ws ← (if scResent t then resentWindows t tab v.toNat else return [])
  let mean := (kept.map (·.mean)).getD false
  let nbOf := fun (b : Nat) => countOf b ((kept.map (·.nb)).getD [])
  let all : List (Nat × Nat) := match kept with | some k => k.marks | none => windowMarks ws
  let marks := all.filter (fun m => !mean || nbOf m.1 != 0)
  let bags := sortNats (marks.map (·.1))
  let n := rowBytesOf (scFmt t) w
  translateNeeds t.ring t.pkt.tag.toNat (bags.flatMap (fun b => rangeNeeds (pf t.pkt 16 8 + b * pf t.pkt 24 4) n false 4 (b * pf t.pkt 24 4)))
  let rows ← readBagRows t w bags
  let primaries := sortNats (marks.map (·.2))
  match primaries.find? (isLost (← get)) with
  | some e => stop (.fail (rPeerLost e))
  | none => pure ()
  let mut await : List (Nat × Nat) := []
  for win in ws do
    for l in win.lists do
      modify (sendList t l.1 tid v.toNat (win.num % 65536) 6 0 l.2)
      modify (countCmd 3 l.2.length (.task t.id))
      modify (mapTask t.id fun t => { t with sent := if t.sent.contains l.1 then t.sent else t.sent ++ [l.1] })
      await := await ++ [(l.1, 6)]
  let fmt := if mean then 0 else scFmt t
  for p in primaries do
    let es := (rows.filter (fun x => marks.contains (x.1, p))).map (fun x => scatterEntry t w x.1 (if mean then some (nbOf x.1) else none) x.2)
    let bs := packBuckets (scBucket t) es []
    for (b, k) in bs.zipIdx do
      modify (sendBucket t p tid v.toNat fmt k b)
    await := await ++ List.replicate bs.length (p, 0x11)
  modify (setWork t.id (.scatter ⟨await, 0, scResent t, kept.map (·.task), []⟩))
  modify (scatterSettle t.id)

/-- Start a scatter; one that ends before it runs lets go of the lists it matched. -/
def startScatter (t : Task) (s : State) : State :=
  let s := runTask t.id (scatterStart t) (waitStarts s)
  match taskOf s t.id with
  | some u => match u.phase with
    | .done _ => (s.hold.keptReq.filter (fun k => k.users.contains t.id)).foldl (fun s k => leaveKept k.task t.id s) s
    | _ => s
  | none => s

def execGradScatter (ring : Nat) (p : Packet) (s : State) : Host.Outcome State Fault Refusal :=
  leaves s (acceptPacket 0x30 gradScatterStep4 (beginTask gradScatterCheck startScatter) ring p s)

/-- A scatter whose release every primary has acknowledged ends. -/
def scatterReleased (id : Nat) (s : State) : State :=
  match taskOf s id with
  | none => s
  | some t => match scatterRunOf t with
    | some r => if scRelease t && r.await.isEmpty && r.releasing.isEmpty then scatterResult t r s else s
    | none => s

/-- A TASK_ACK for a scatter: a term list stored, a bucket added, or a release acknowledged. -/
def scatterAck (src id kind : Nat) (r : Result) (s : State) : State :=
  match (taskOf s id).bind scatterRunOf with
  | none => s
  | some _ =>
    if kind = 0x10 then scatterReleased id (scatterMap id (fun x => { x with releasing := x.releasing.filter (· != src) }) s)
    else if !statusDone r.status then endScatter id r s
    else
      let s := ackFlags id r s
      let s := if kind = 6 then countDropped id (pTid (((taskOf s id).map (·.pkt)).getD default)) 2 r.dropped.toNat s else progress s
      scatterSettle id (scatterMap id (fun x => { x with
        await := eraseOne (fun a => a == (src, kind)) x.await
        contributions := if kind = 0x11 then x.contributions + r.work.toNat else x.contributions }) s)

/-- A primary has let go of kept lists of look-up `f`. -/
def releaseAck (src f : Nat) (s : State) : State :=
  let hit : Task → Bool := fun t => (scatterRunOf t).any (fun r => r.fwd == some f && r.releasing.contains src)
  match s.cmd.tasks.find? hit with
  | none => s
  | some t =>
    let s := scatterMap t.id (fun r => { r with releasing := r.releasing.filter (· != src) }) s
    scatterReleased t.id s

/-- An engine has been declared lost (R207, R168). -/
def scatterLost (eid id : Nat) (s : State) : State :=
  match (taskOf s id).bind scatterRunOf with
  | none => s
  | some r =>
    if r.await.any (fun a => a.1 == eid) then endScatter id (rPeerLost eid) s
    else if r.releasing.contains eid then
      scatterReleased id (scatterMap id (fun r => { r with releasing := r.releasing.filter (· != eid) }) s)
    else s

/-! ### GRAD_FLUSH (R185) -/

def gradFlushStep4 (_ : Byte) (p : Packet) : Checks := [bad (2 ≤ pf p 14 1) 2 14]

def gradFlushCheck (t : Task) : Act Unit := do
  let _ ← bindRecords t

/-- Combine one split row, where it lies. -/
def flushGrad (k : GradId) (w : Nat) : Act Bool := do
  match gradGet (← get) k with
  | none => return false
  | some g =>
    let n := if g.slots.isEmpty then g.parts.length else g.slots.length / max 1 (spanOf w)
    if n ≤ 1 then return false
    else orLost g [] false (do
      let one := combineParts (← gradParts g w)
      if g.slots.isEmpty then
        modify (gradMap k (fun g => { g with parts := [one], since := 0, split := false }))
      else
        spillSums (g.slots.take (spanOf w)) one
        modify (gradMap k (fun g => { g with slots := g.slots.take (spanOf w), since := 0, split := false }))
      return true)

def flushAll (w : Nat) : List GradId → Nat → Act Nat
  | [], n => return n
  | k :: t, n => do
    let b ← flushGrad k w
    flushAll w t (if b then n + 1 else n)

/-- Whether a gradient belongs to a task that has ended. -/
def leftClosed (s : State) (g : Grad) : Bool :=
  match g.closed with
  | some id => match taskOf s id with | some t => t.isDone | none => true
  | none => false

/-- Gradients of a version that no running UPDATE_APPLY drains: open, or left closed by one that ended (R185). -/
def openGrads (s : State) (tid : Nat) (v : BitVec 16) : List Grad :=
  s.grad.grads.filter (fun g => g.tid == tid && g.ver == v && g.lost.isNone && (g.closed.isNone || leftClosed s g))

/-- End a flush whose scatters have ended. -/
def flushSettle (id : Nat) (s : State) : State :=
  match taskOf s id with
  | none => s
  | some t => match t.phase with
    | .running (.gradFlush waits) =>
      if waits.any (fun k => (taskOf s k).any (fun u => !u.isDone)) then s
      else
        let (tid, v) := t.bind.getD (0, 0)
        runTask id (do
          let n ← flushAll (gradWidth s tid) ((openGrads s tid v).map (·.gid)) 0
          modify (finishOk id n)) s
    | _ => s

def flushSweep (s : State) : State := (s.cmd.tasks.map (·.id)).foldl (fun s id => flushSettle id s) s

/-- Run a flush in its turn. -/
def runFlush (t : Task) (s : State) : State :=
  let (tid, v) := t.bind.getD (0, 0)
  if pf t.pkt 14 1 = 1 then
    let mine : Grad → Bool := fun g => g.tid == tid && g.ver == v
    let n := (s.grad.grads.filter (fun g => mine g && g.lost.isNone)).length
    finishOk t.id n { s with grad := { s.grad with grads := s.grad.grads.filter (fun g => !mine g) } }
  else
    let waits := (s.cmd.tasks.filter (fun u => decide (u.id < t.id) && u.op == 0x30 && u.bind == t.bind && !u.isDone)).map (·.id)
    flushSettle t.id (setWork t.id (.gradFlush waits) s)

def startFlush (t : Task) (s : State) : State := serially runFlush t s

def execGradFlush (ring : Nat) (p : Packet) (s : State) : Host.Outcome State Fault Refusal :=
  leaves s (acceptPacket 0x31 gradFlushStep4 (beginTask gradFlushCheck startFlush) ring p s)

end Sys2Proof.Machine
end

