-- ==== Sys2Proof/Machine/Cuc.lean ====
section
/-! DEFINITION. Channel update cells: UPDATE_APPLY and its rows (R186 to R201), rows of other engines (R194), and
UPDATE_PROGRAM_LOAD (R225 to R227). -/

namespace Sys2Proof.Machine

/-! ### Closing and reopening gradients (R187, R188) -/

/-- Give a gradient to an UPDATE_APPLY, or open it again; it merges with the gradient of the same row that is there already (R188, R192):
the accumulators of one join those of the other as further partials (log entry 99). -/
def relabelGrad (k : GradId) (dest : Option Nat) : Act Unit := do
  let s ← get
  match gradGet s k, gradGet s { k with closed := dest } with
  | some g, some o =>
    if k.closed = dest then return ()
    else
      let w := gradWidth s k.tid
      let a ← orLost g [] [] (gradParts g w)
      let b ← orLost o [] [] (gradParts o w)
      modify (gradDrop o.gid)
      modify (gradMap k (fun g => { g with
        closed := dest, parts := a ++ b, slots := [], since := g.since + o.since, split := g.split || o.split
        count := satAdd g.count o.count.toNat, givers := (g.givers ++ o.givers).eraseDups }))
      tryCatch (gradRoom 0 { k with closed := dest } .nobody (gradGroups + 1)) fun _ => return ()
  | some _, none => modify (gradMap k (fun g => { g with closed := dest }))
  | none, _ => return ()

def relabelAll (dest : Option Nat) : List GradId → Act Unit
  | [] => return ()
  | k :: t => do relabelGrad k dest; relabelAll dest t

/-- Close a version's gradients for an UPDATE_APPLY: the open ones, and those an earlier one left closed (R187, R192). -/
def closeGrads (id tid : Nat) (v : BitVec 16) : Act Unit := do
  let s ← get
  let hit : Grad → Bool := fun g => g.tid == tid && g.ver == v && (g.closed.isNone || leftClosed s g)
  relabelAll (some id) ((s.grad.grads.filter (fun g => hit g && g.lost.isNone)).map (·.gid))
  modify fun s => { s with grad := { s.grad with
    grads := s.grad.grads.map (fun g => if hit g ∧ g.lost ≠ none then { g with closed := some id } else g) } }

/-- Reopen what an UPDATE_APPLY closed. -/
def reopenGrads (id : Nat) (s : State) : State :=
  let s := ((relabelAll none ((s.grad.grads.filter (fun g => g.closed == some id)).map (·.gid))).go none s).2
  { s with grad := { s.grad with grads := s.grad.grads.map (fun g => if g.closed = some id then { g with closed := none } else g) } }

def closedBy (s : State) (id : Nat) : List Grad := s.grad.grads.filter (fun g => g.closed == some id && g.lost.isNone)

/-! ### One row in a CUC (R190, R195 to R198) -/

/-- The random bits of element i of a row (R198). -/
def stoBits (tid r seed step i : Nat) : Nat :=
  let m := 2 ^ 64
  let h := (tid * 2 ^ 40 ||| r) ^^^ (seed * 2 ^ 32 ||| step)
  let h := (h + (i + 1) * 0x9e3779b97f4a7c15) % m
  let h := ((h ^^^ h / 2 ^ 30) * 0xbf58476d1ce4e5b9) % m
  let h := ((h ^^^ h / 2 ^ 27) * 0x94d049bb133111eb) % m
  (h ^^^ h / 2 ^ 31) / 2 ^ 48

/-- The rounding of a packet's update for global row r. -/
def updateRounding (p : Packet) (r : Nat) : Rounding :=
  if pf p 14 1 = 0 then rneAll else fun i => divSto (stoBits (pTid p) r (pf p 32 4) (pf p 16 4) i)

/-- The slots of a record behind its master: a mode's elements, and the rest. -/
def recSlot (mode w : Nat) (b : Bytes) : List F32 × Bytes :=
  if mode = 0 then ([], b) else if mode = 1 then (f32List 1 b, b.drop 4) else (f32List w b, b.drop (4 * w))

/-- Run an update over a record: the record and the working copy to be written. -/
def cucStep (tab : Table) (prog : Program) (p : Packet) (rnd : Rounding) (g : List F32) (rec : Bytes) : Bytes × Bytes :=
  let w := tab.width
  let step := pf p 16 4
  let last := leField rec 0 4
  let upd := leField rec 4 4
  let (a, rest) := recSlot tab.stateA w (rec.drop (16 + 4 * w))
  let (b, _) := recSlot tab.stateB w rest
  let m := f32List w (rec.drop 16)
  let user : F32 := BitVec.ofNat 32 (leField rec 12 4)
  let params : List F32 := [f32OfNat step, BitVec.ofNat 32 (pf p 20 4), BitVec.ofNat 32 (pf p 24 4), BitVec.ofNat 32 (pf p 28 4),
    f32OfNat last, f32OfNat upd, f32OfNat ((step + 2 ^ 32 - last) % 2 ^ 32), user, f32OfNat w]
  let c := runProgram prog ⟨g, m, a, b, tab.consts, params, w⟩ user
  let enc := encodeRow tab.wcFmt w rnd c.m
  let upd := min (upd + 1) (2 ^ 32 - 1)
  let nonfinite := (c.m ++ c.a ++ c.b).any (fun x => !f32IsFinite x)
  let flags := (if nonfinite then 1 else 0) + (if upd = 2 ^ 32 - 1 then 2 else 0) + (if enc.sat then 4 else 0)
  (leBytes 4 step ++ leBytes 4 upd ++ leBytes 2 flags ++ [0, 0] ++ leBytes 4 c.user.toNat ++ f32Bytes c.m ++ f32Bytes c.a ++ f32Bytes c.b,
   enc.bytes)

/-! ### UPDATE_APPLY -/

def updateRunOf (t : Task) : Option UpdateRun :=
  match t.phase with
  | .running (.update u) => some u
  | _ => none

def updateMap (id : Nat) (f : UpdateRun → UpdateRun) (s : State) : State :=
  mapTask id (fun t => match t.phase with
    | .running (.update u) => { t with phase := .running (.update (f u)) }
    | _ => t) s

def updateApplyStep4 (_ : Byte) (p : Packet) : Checks := [bad (2 ≤ pf p 14 1) 2 14]

/-- The slot of the program a packet runs. -/
def updateSlot (p : Packet) (tab : Table) : Nat := if pf p 36 2 = 0xFFFF then tab.prog else pf p 36 2

/-- Checks of Table Grad-5 and R222; at acceptance the gradients close (R187). -/
def updateApplyCheck (t : Task) : Act Unit := do
  let (tab, v) ← bindRecords t
  let slot := updateSlot t.pkt tab
  let s ← get
  need [bad (slot = 0xFFFF) 3 36, bad (progOf s slot).isNone 5 36,
        bad (match progOf s slot with | some q => !progFits tab.stateA tab.stateB q | none => false) 6 36]
  if s.xl.overflow then stop (.fail (rBusy 9))
  closeGrads t.id (pTid t.pkt) v

/-- The pages of a row's record and working copy. -/
def updateNeeds (tab : Table) (v : Nat) (g : Grad) : List Need :=
  ((rangeNeeds (tab.recAddr v g.lb g.off) (recSize tab.stateA tab.stateB tab.width) true 6 0) ++
   (rangeNeeds (tab.wcAddr v g.lb g.off) tab.wcStrideB true 6 0)).map (fun n => { n with off := 0 })

/-- The end of an UPDATE_APPLY that needs a page of host memory (R356). -/
def hostTarget (inj : Bool) (va : Nat) : Act Unit := do
  let idx ← logAct { det := 0x0C, sev := 2, address := va, action := 7, injected := inj }
  stop (.fail (rHw 0x0C idx))

/-- Translated pages must lie in device memory (R356). -/
def deviceNeeds : List Need → Act Unit
  | [] => return ()
  | n :: t => do
    let x ← demand n.va n.write
    match x.place with
    | .host _ _ => hostTarget false n.va
    | _ => deviceNeeds t

/-- End an UPDATE_APPLY with no row left: a failure, a lost gradient, or success. -/
def updateSettle (id : Nat) (s : State) : State :=
  match (taskOf s id).bind updateRunOf with
  | none => s
  | some u =>
    if !u.await.isEmpty then s
    else match u.failed with
      | some (st, d) => finishTask id ⟨st, d, 0, BitVec.ofNat 32 u.updated⟩ s
      | none =>
        if !(closedBy s id).isEmpty then s
        else match s.grad.grads.find? (fun g => g.closed == some id) with
          | some g =>
            let (det, idx) := g.lost.getD (0x0A, 0)
            let r : Result := { rHw det.toNat idx with work := BitVec.ofNat 32 u.updated }
            finishTask id r { s with grad := { s.grad with grads := s.grad.grads.filter (fun g => g.closed != some id) } }
          | none => finishOk id u.updated s

/-- Translate every page, then wait for the rows (R188, R189). -/
def updateStart (t : Task) : Act Unit := do
  let (tab, v) ← bindVersion t
  let needs := (closedBy (← get) t.id).flatMap (updateNeeds tab v.toNat)
  translateNeeds t.ring t.pkt.tag.toNat needs
  if (← injectedAct 0x0C 0) then hostTarget true ((needs.head?.map (·.va)).getD 0)
  deviceNeeds needs
  let prog := (progOf (← get) (updateSlot t.pkt tab)).getD []
  modify (setWork t.id (.update ⟨prog, [], [], 0, none⟩))
  modify (updateSettle t.id)

def runUpdate (t : Task) (s : State) : State :=
  match (updateStart t).go (some t.id) s with
  | (.ok _, s) => s
  | (.error (.mig va w), s') => stopFrom t.id (.mig va w) s s'
  | (.error x, s') => reopenGrads t.id (stopFrom t.id x s s')

def startUpdate (t : Task) (s : State) : State := serially runUpdate t s

def execUpdateApply (ring : Nat) (p : Packet) (s : State) : Host.Outcome State Fault Refusal :=
  leaves s (acceptPacket 0x32 updateApplyStep4 (beginTask updateApplyCheck startUpdate) ring p s)

/-! ### CUC_ROW_UPDATE -/

/-- The global block whose entry names this engine as valid primary at a local block (R198). -/
def globalBlock (tab : Table) (v lb : Nat) : List Nat → Act (Option Nat)
  | [] => return none
  | b :: t => do
    let e ← tryCatch (do let x ← readVa (tab.mapAddr v b) 32; return some x) fun x => match x with
      | .mig va w => throw (.mig va w)
      | _ => return none
    let own := (ownEid (← get)).toNat
    match e with
    | some x => if crcHolds x && (mapEntOf x).role 0 == some (own, lb) then return some b else globalBlock tab v lb t
    | none => globalBlock tab v lb t

/-- The global row number of a drained row (R198); it matters under stochastic rounding alone. -/
def globalRow (p : Packet) (tab : Table) (v : Nat) (g : Grad) : Act Nat := do
  if pf p 14 1 = 0 then return 0
  else
    let b ← globalBlock tab v g.lb (List.range tab.nBlocks)
    return (b.getD g.lb) * 2 ^ tab.sb + g.off

/-- Two writes of which both or neither take place (R192). -/
def bothOrNone (a : Act Unit) : Act Unit := do
  let s ← get
  tryCatch a fun x => do set s; throw x

/-- Whether the host holds none of the lines of pieces; those it holds are asked for (R391). -/
def claimPieces (ps : List (Place × Nat)) : Act Bool := do
  let (ok, s) := claimLines (pieceLines ps) (← get)
  set s
  return ok

/-- Read-modify-write of a record in a CUC of this engine, and its working copy. Lines that the host holds are asked for first, and the
row is given to the CUC again once they are back: no line of the record is written before all of them can be (R189, R194, R201). -/
def updateLocal (t : Task) (tab : Table) (v : Nat) (prog : Program) (g : Grad) (grad : List F32) : Act Unit := do
  let rec_ := tab.recAddr v g.lb g.off
  let wc := tab.wcAddr v g.lb g.off
  let n := recSize tab.stateA tab.stateB tab.width
  let ps ← xlateRange (rangeFuel n) rec_ n true
  let qs ← xlateRange (rangeFuel tab.wcStrideB) wc tab.wcStrideB true
  if !(← claimPieces (ps ++ qs)) then return ()
  let old ← readVa rec_ n
  let r ← globalRow t.pkt tab v g
  let (rec, copy) := cucStep tab prog t.pkt (updateRounding t.pkt r) grad old
  let copy := padTo tab.wcStrideB copy
  bothOrNone (do writeVa rec_ rec; writeVa wc copy)
  modify (bermTake g.tid (v % 4) wc copy)
  modify (markDirty g.tid (v % 4) g.lb)
  modify (gaugeRecords 1)
  modify (gradDrop g.gid)
  modify (updateMap t.id (fun u => { u with updated := u.updated + 1 }))

/-- The row's record lies in another engine's memory: G goes to the CUC there, the packet ahead of the first row (Table Fab-4). -/
def updateRemote (t : Task) (tab : Table) (v eid recFpa : Nat) (u : UpdateRun) (g : Grad) (grad : List F32) : Act Unit := do
  if isLost (← get) eid then stop (.fail (rPeerLost eid))
  let wc ← demand (tab.wcAddr v g.lb g.off) true
  let wcFpa := match wc.at (tab.wcAddr v g.lb g.off) with | .dev a => a | _ => 0
  let own := (ownEid (← get)).toNat
  if !u.told.contains eid then
    modify (sendMsg eid 0x34 t.id t.pkt.tag.toNat [(32, 2, t.ring), (34, 2, own)] (packetBytes t.op t.pkt))
  modify (sendMsg eid 0x21 t.id t.pkt.tag.toNat [(32, 8, recFpa), (40, 8, wcFpa), (48, 2, updateSlot t.pkt tab), (50, 2, tab.width)]
    (f32Bytes grad))
  modify (updateMap t.id (fun u => { u with
    told := if u.told.contains eid then u.told else u.told ++ [eid]
    await := u.await ++ [(eid, g.lb, g.off)] }))

/-- Drain one row (R189, R195). -/
def drainRow (t : Task) (u : UpdateRun) (g : Grad) : Act Unit := do
  let (tab, v) ← bindVersion t
  let ps ← orLost g [] [] (gradParts g tab.width)
  if ps.isEmpty then return ()
  else
    let x ← demand (tab.recAddr v.toNat g.lb g.off) true
    let grad := drainedGrad ps
    match x.at (tab.recAddr v.toNat g.lb g.off) with
    | .dev a =>
      let s ← get
      if homeEid s a = (ownEid s).toNat then updateLocal t tab v.toNat u.program g grad
      else updateRemote t tab v.toNat (homeEid s a) a u g grad
    | _ => hostTarget false (tab.recAddr v.toNat g.lb g.off)

/-- Why an update stops, as status and detail. -/
def stopCode (id : Nat) (x : Stop) (s : State) : (Byte × BitVec 24) × State :=
  match x with
  | .fail r => ((r.status, r.detail), s)
  | .poison idx => (((rHw 0x08 idx).status, (rHw 0x08 idx).detail), s)
  | .mig _ _ => ((stHw, 0), s)
  | .fault va cause lvl w e =>
    let (ring, tag) := ringTag (some id) s
    let (r, s) := raiseFault (some id) ring tag ⟨va, w, 6, 0⟩ cause lvl e [] s
    ((r.status, r.detail), s)

/-- CUC_ROW_UPDATE. -/
def cucRowUpdate (id lb off : Nat) (s : State) : State :=
  match taskOf s id with
  | none => s
  | some t => match updateRunOf t, (closedBy s id).find? (fun g => g.lb == lb && g.off == off) with
    | some u, some g =>
      if u.failed.isSome || u.await.any (fun a => a.2.1 == lb && a.2.2 == off) then s
      else match (drainRow t u g).go (some id) s with
        | (.ok _, s) => updateSettle id s
        | (.error (.mig va w), s') => stopFrom id (.mig va w) s s'
        | (.error x, s) =>
          let (c, s) := stopCode id x s
          updateSettle id (updateMap id (fun u => { u with failed := some c }) s)
    | _, _ => s

def execCucRowUpdate (task localBlock offset : Nat) (s : State) : Host.Outcome State Fault Refusal :=
  leaves s (cucRowUpdate task localBlock offset s)

/-- A remote CUC has updated the oldest row sent to it, or failed to. -/
def updateAck (src id : Nat) (r : Result) (s : State) : State :=
  match taskOf s id with
  | none => s
  | some t => match updateRunOf t with
    | none => s
    | some u =>
      match u.await.find? (fun a => a.1 == src), t.bind with
      | some a, some (tid, v) =>
        let s := updateMap id (fun u => { u with await := eraseOne (· == a) u.await }) s
        let s := if statusDone r.status then
            markDirty tid (v.toNat % 4) a.2.1 (gradDrop ⟨tid, v, a.2.1, a.2.2, some id⟩ (updateMap id (fun u => { u with updated := u.updated + 1 }) s))
          else updateMap id (fun u => { u with failed := u.failed.orElse fun _ => some (r.status, r.detail) }) s
        updateSettle id s
      | _, _ => s

/-- An UPDATE_APPLY meets a failure from outside, or loses an engine it waits for (R192). -/
def updateFail (r : Result) (eid : Option Nat) (id : Nat) (s : State) : State :=
  updateSettle id (updateMap id (fun u => { u with
    failed := u.failed.orElse fun _ => some (r.status, r.detail)
    await := u.await.filter (fun a => some a.1 != eid) }) s)

def updateLost (eid id : Nat) (s : State) : State :=
  match (taskOf s id).bind updateRunOf with
  | some u => if u.await.any (fun a => a.1 == eid) then updateFail (rPeerLost eid) (some eid) id s else s
  | none => s

/-! ### UPDATE_ROW arrives -/

/-- The packet of a remote UPDATE_APPLY arrives (Table Fab-4, type 0x21). -/
def keepRemote (src : Nat) (task : BitVec 32) (p : Packet) (s : State) : State :=
  { s with grad := { s.grad with
      remote := s.grad.remote.filter (fun u => !(u.src == src && u.task == task)) ++ [⟨src, task, p⟩] } }

/-- Update a record that this engine homes; false where the host holds lines of it or of its working copy. The message carries no row
number, so under stochastic rounding it is open, but one and the same for one record (R199). -/
def updateForeign (h : Header) (tab : Table) (p : Packet) (prog : Program) (payload : Bytes) : Act Bool := do
  let n := recSize tab.stateA tab.stateB tab.width
  if !(← claimPieces [(.dev (hf h 32 8), n), (.dev (hf h 40 8), tab.wcStrideB)]) then return false
  let old ← readPlace (.dev (hf h 32 8)) n
  let r := (Config.foreignRow (hSrc h) (pTid p) (hf h 32 8)).toNat
  let (rec, copy) := cucStep tab prog p (updateRounding p r) (f32List tab.width payload) old
  bothOrNone (do
    writePlace (.dev (hf h 32 8)) rec
    writePlace (.dev (hf h 40 8)) (padTo tab.wcStrideB copy))
  modify (gaugeRecords 1)
  return true

/-- A row waits for lines that the host holds. -/
def rowLands (h : Header) (tab : Table) (payload : Bytes) (s : State) : State :=
  let ls := linesOf (hf h 32 8) (recSize tab.stateA tab.stateB tab.width) ++ linesOf (hf h 40 8) tab.wcStrideB
  let held := ls.filter (fun k => s.host.backInv.any (fun b => b.line == k))
  { s with host := { s.host with landings := s.host.landings ++ [⟨held, .row h payload⟩] } }

/-- UPDATE_ROW arrives at a record's home. -/
def deliverUpdateRow (h : Header) (payload : Bytes) : Act Unit := do
  let s ← get
  let answer := fun (r : Result) => (modify (ackFailure (hSrc h) (hTask h) (hTag h) 0x11 r) : Act Unit)
  match s.grad.remote.find? (fun u => u.src == hSrc h && u.task.toNat == hTask h) with
  | none => answer (rBadParam 5 8)
  | some u => match tabGet s (pTid u.pkt), progOf s (hf h 48 2) with
    | some tab, some prog =>
      onBehalf (hSrc h) (hTask h) (hTag h) (do
          if (← updateForeign h tab u.pkt prog payload) then modify (sendTaskAck (hSrc h) (hTask h) (hTag h) 0x11 ⟨stOk, 0, 0, 1⟩)
          else modify (rowLands h tab payload))
        answer
    | _, _ => answer (rBadParam 5 8)

/-! ### UPDATE_PROGRAM_LOAD (R225 to R227) -/

def programLoadStep4 (_ : Byte) (p : Packet) : Checks :=
  let slot := pf p 8 2
  [bad ((decide (0x100 ≤ slot) && decide (slot < 0x8000)) || decide (0x8006 ≤ slot)) 3 8,
   bad (0x8000 ≤ slot && slot < 0x8006) 6 8, bad (2 ≤ pf p 10 1) 2 10] ++
  (if pf p 10 1 = 0 then [highAddr p 12, misaligned p 12 4, bad (pf p 20 2 = 0 || 64 < pf p 20 2) 3 20] else [])

/-- CUC numbers of this engine (R354). -/
def cucNumbers (s : State) : List Nat := List.range (128 + 4 * s.fuses.lpCount)

/-- Whether every CUC takes an image: the first that does not, by injection. -/
def imageTaken : List Nat → Act (Option Nat)
  | [] => return none
  | k :: t => do
    if (← injectedAct 0x0D k) then return some k else imageTaken t

/-- A slot that a defined table names, or a running UPDATE_APPLY has bound. -/
def slotBound (s : State) (slot : Nat) : Bool :=
  s.tab.tables.any (fun e => e.2.prog == slot) ||
  s.cmd.tasks.any (fun t => t.op == 0x32 && !t.isDone && t.origin.isNone &&
    (match tabGet s (pTid t.pkt) with | some tab => updateSlot t.pkt tab == slot | none => false))

/-- UPDATE_PROGRAM_LOAD; what it loads is in its slot from its completion on (R223). -/
def programLoad (t : Task) : Act Unit := do
  let p := t.pkt
  let slot := pf p 8 2
  let s ← get
  let loading := s.cmd.tasks.any (fun u => u.op == 0x33 && decide (u.id < t.id) && (match u.phase with | .done r => statusDone r.status | _ => true))
  if pf p 10 1 = 0 then
    let n := pf p 20 2
    need [bad (progOf s slot).isSome 6 8, bad (2 ^ 52 < pf p 12 8 + 4 * n) 3 12]
    if loading then stop (.fail (rBusy 3))
    let b ← orFault t.ring p.tag.toNat ⟨pf p 12 8, false, 8, 0⟩ [] (orCrc 6 (readVa (pf p 12 8) (4 * n)))
    judgeCrc (pf p 24 4 == (crc32c b).toNat) 6
    let prog := imageWords n b
    match progFails prog with
    | some (k, reason) => stop (.fail (rBadParam reason (128 + k)))
    | none =>
      match (← imageTaken (cucNumbers s)) with
      | some k =>
        let idx ← logAct { det := 0x0D, sev := 2, phys := k, action := 7, injected := true }
        stop (.fail (rHw 0x0D idx))
      | none =>
        modify (mapTask t.id (fun t => { t with block := b }))
        modify (finishOk t.id n)
  else
    match smapGet s.tab.progs slot with
    | none => stop (.fail (rBadParam 6 8))
    | some prog =>
      need [bad (slotBound s slot) 6 8]
      if loading then stop (.fail (rBusy 3))
      modify fun s => { s with tab := { s.tab with progs := smapDel s.tab.progs slot } }
      modify (finishOk t.id prog.length)

def execUpdateProgramLoad (ring : Nat) (p : Packet) (s : State) : Host.Outcome State Fault Refusal :=
  leaves s (acceptPacket 0x33 programLoadStep4 (beginWhole programLoad) ring p s)

end Sys2Proof.Machine
end

