-- ==== Sys2Proof/Machine/Atomic.lean ====
section
/-! DEFINITION. Far and near atomic adds: ATOMIC_ADD, groups at their homes, near requests (R202 to R206, R388 to R395). -/

namespace Sys2Proof.Machine

/-! ### Groups -/

/-- A group of adds to one 64 B line: where the line lies, and (element, addend) pairs. -/
structure AddGroup where
  link : Option Nat
  line : Nat
  adds : List (Nat × F32)
  deriving DecidableEq, Repr, Inhabited

/-- Put an element's add into the last group if it is of the same line. -/
def pushAdd (gs : List AddGroup) (link : Option Nat) (a : Nat) (x : F32) : List AddGroup :=
  match gs.getLast? with
  | some g =>
    if g.link = link ∧ g.line = a / 64 then gs.dropLast ++ [{ g with adds := g.adds ++ [(a % 64 / 4, x)] }]
    else gs ++ [⟨link, a / 64, [(a % 64 / 4, x)]⟩]
  | none => [⟨link, a / 64, [(a % 64 / 4, x)]⟩]

/-- The groups of a target's pieces. -/
def addGroups : List (Place × Nat) → List F32 → List AddGroup → List AddGroup
  | [], _, gs => gs
  | (p, n) :: t, xs, gs =>
    let gs := ((xs.take (n / 4)).zipIdx).foldl (fun gs (x, k) =>
      match p with
      | .dev a => pushAdd gs none (a + 4 * k) x
      | .host l a => pushAdd gs (some l) (a + 4 * k) x
      | .scratch _ => gs) gs
    addGroups t (xs.drop (n / 4)) gs

/-- Add to elements of a line, each with one rounding (R204). -/
def addLine (b : Bytes) (adds : List (Nat × F32)) : Bytes :=
  adds.foldl (fun b (k, x) => patch b (4 * k) (leBytes 4 (padd (BitVec.ofNat 32 (leField b (4 * k) 4)) x).toNat)) b

def AddGroup.mask (g : AddGroup) : BitVec 16 := g.adds.foldl (fun m (k, _) => m ||| (1#16 <<< k)) 0

/-- The 16 addends of a line, +0 where there is none. -/
def AddGroup.addends (g : AddGroup) : List F32 :=
  (List.range 16).map (fun k => ((g.adds.find? (fun a => a.1 == k)).map (·.2)).getD 0)

def maskedAdds (mask : BitVec 16) (xs : List F32) : List (Nat × F32) :=
  ((List.range 16).filter (fun k => mask.getLsbD k)).map (fun k => (k, (xs[k]?).getD 0))

/-! ### The predictor (R395) -/

def predictIdx (fpa : Nat) : Nat :=
  let l := fpa / 64
  (l ^^^ (l / 2 ^ 10) ^^^ (l / 2 ^ 20) ^^^ (l / 2 ^ 30)) % 1024

def predictCtr (s : State) (k : Nat) : BitVec 2 := (smapGet s.host.predictor k).getD 1

/-- Count toward far, or toward near. -/
def predict (fpa : Nat) (far : Bool) (s : State) : State :=
  let k := predictIdx fpa
  let c := predictCtr s k
  let c := if far then satAdd c 1 else if c = 0 then 0 else c - 1
  { s with host := { s.host with predictor := smapSet s.host.predictor k c } }

/-! ### Applying groups -/

def nearSets : Nat := 64

/-- Hold a line in the near-add cache; its set's oldest line makes way (log entry 18). -/
def nearHold (l : NearLine) (s : State) : State :=
  let others := s.host.near.filter (fun x => !(x.line == l.line && x.link == l.link))
  let same := others.filter (fun x => x.line % nearSets == l.line % nearSets)
  let s := match same.head? with
    | some v => if 16 ≤ same.length then evictNear v.line v.link s else s
    | none => s
  { s with host := { s.host with near := (s.host.near.filter (fun x => !(x.line == l.line && x.link == l.link))) ++ [l] } }

/-- Apply a group in the near-add cache (R393), and count its adds (R67). -/
def nearApply (g : AddGroup) (w : Who) : Act Unit := do
  let s ← get
  let b ← (match s.host.near.find? (fun x => x.line == g.line && x.link == g.link) with
    | some x => return x.data
    | none => readPlace (match g.link with | some l => .host l (g.line * 64) | none => .dev (g.line * 64)) 64)
  modify (nearHold ⟨g.line, g.link, addLine b g.adds, true⟩)
  modify (countCmd 6 g.adds.length w)

/-- Apply a group at its home, this engine, under one lock of the line (R204), and count its adds (R67). -/
def farApply (g : AddGroup) (w : Who) : Act Unit := do
  let b ← readDev (g.line * 64) 64
  let n := addLine b g.adds
  for (k, _) in g.adds do
    writeDev (g.line * 64 + 4 * k) ((n.drop (4 * k)).take 4)
  modify (countCmd 6 g.adds.length w)

/-! ### Runs -/

def atomicRunOf (t : Task) : Option AtomicRun :=
  match t.phase with
  | .running (.atomic a) => some a
  | _ => none

def atomicMap (id : Nat) (f : AtomicRun → AtomicRun) (s : State) : State :=
  mapTask id (fun t => match t.phase with
    | .running (.atomic a) => { t with phase := .running (.atomic (f a)) }
    | _ => t) s

/-- A task whose groups have all been answered ends. -/
def atomicSettle (id : Nat) (s : State) : State :=
  match (taskOf s id).bind atomicRunOf with
  | none => s
  | some a =>
    if !a.await.isEmpty || s.host.nearReqs.any (fun r => r.task == id && r.origin.isNone) then s
    else match a.failed with
      | some (st, d) => finishTask id ⟨st, d, 0, BitVec.ofNat 32 a.added⟩ s
      | none => finishOk id a.added s

def atomicFail (c : Byte × BitVec 24) (id : Nat) (s : State) : State :=
  atomicMap id (fun a => { a with failed := a.failed.orElse fun _ => some c }) s

/-- Apply a group for a task; a poisoned line spoils only its own group (Table Mem-6). -/
def applyFor (id : Nat) (g : AddGroup) (a : Act Unit) : Act Unit :=
  tryCatch (do
      a
      modify (atomicMap id (fun r => { r with added := r.added + g.adds.length }))
      modify progress)
    fun x => match x with
      | .mig va w => throw (.mig va w)
      | x => do
        let (c, s) := stopCode id x (← get)
        set (atomicFail c id s)

/-- Queue a group: a near request, or one in the home's queue. -/
def queueGroup (task : Nat) (origin : Option (Nat × Nat × Nat)) (g : AddGroup) (nacks : Nat) (s : State) : State :=
  { s with host := { s.host with
      nearReqs := s.host.nearReqs ++ [⟨s.host.nextReq, task, origin, g.line, g.mask, g.addends, nacks⟩], nextReq := s.host.nextReq + 1 } }

/-- The host's hold of a line. -/
def hostHolds (s : State) (line : Nat) : Option DirLine := s.host.dir.find? (fun d => d.line == line)

/-- Send a group to its home in another engine (Table Fab-4). -/
def sendGroup (id tag home : Nat) (g : AddGroup) (s : State) : State :=
  sendMsg home 0x22 id tag [(32, 8, g.line * 64), (40, 2, g.mask.toNat)] (f32Bytes g.addends)
    (atomicMap id (fun a => { a with await := a.await ++ [(home, g.line, g.adds.length)] }) s)

/-- Near requests of a task are given up. -/
def dropReqs (id : Nat) (s : State) : State :=
  { s with host := { s.host with nearReqs := s.host.nearReqs.filter (fun r => !(r.task == id && r.origin.isNone)) } }

/-- End a task that has a group for a line whose home is lost (R206). -/
def needHome (id home : Nat) : Act Unit := do
  let s ← get
  if isLost s home then
    let added := (((taskOf s id).bind atomicRunOf).map (·.added)).getD 0
    modify (dropReqs id)
    stop (.fail { rPeerLost home with work := BitVec.ofNat 32 added })

/-- A far add: here, queued behind the host's copy, or at another engine. -/
def farGroup (t : Task) (g : AddGroup) : Act Unit := do
  let s ← get
  let a := g.line * 64
  let home := homeEid s a
  needHome t.id home
  if home = (ownEid s).toNat then
    match hostHolds s g.line with
    | some d => modify (queueGroup t.id none g 16 ∘ backInvalidate d [] ∘ predict a true)
    | none =>
      applyFor t.id g (farApply g (.task t.id))
      modify (predict a (s.host.nearReqs.any (fun r => r.line == g.line && decide (16 ≤ r.nacks))))
  else
    let (d, s) := draw s
    set (sendGroup t.id t.pkt.tag.toNat home g (predict a ((Config.freeByte d).getLsbD 0) s))

/-- A near add: won at once where nobody else holds the line and its home is here; else the request waits. -/
def nearGroup (t : Task) (g : AddGroup) : Act Unit := do
  let s ← get
  match g.link with
  | some _ => applyFor t.id g (nearApply g (.task t.id))
  | none =>
    needHome t.id (homeEid s (g.line * 64))
    if (hostHolds s g.line).isSome then modify (queueGroup t.id none g 1)
    else if homeEid s (g.line * 64) = (ownEid s).toNat then
      applyFor t.id g (nearApply g (.task t.id))
      modify (predict (g.line * 64) false)
    else modify (queueGroup t.id none g 0)

/-- Which path a group takes (R394), under the mode that its task bound (R46, R63). -/
def groupFar (c : TaskCfg) (s : State) (g : AddGroup) : Bool :=
  match g.link with
  | some _ => false
  | none =>
    let a := g.line * 64
    fpaModule a != ownModule s ||
    (let m := bitsNat c.cohCtl 0 2
     m == 2 || (m == 0 && decide (2 ≤ predictCtr s (predictIdx a))))

def runGroups (t : Task) : List AddGroup → Act Unit
  | [] => return ()
  | g :: rest => do
    if groupFar t.cfg (← get) g then farGroup t g else nearGroup t g
    runGroups t rest

/-! ### ATOMIC_ADD -/

def atInline (p : Packet) : Bool := pflag p 8
def atCount (p : Packet) : Nat := pf p 24 4
def atFmt (p : Packet) : Nat := pf p 28 1

def atomicAddStep4 (_ : Byte) (p : Packet) : Checks :=
  let n := atCount p
  let f := atFmt p
  [misaligned p 8 4, bad (2 ^ 52 ≤ pf p 8 8 || 2 ^ 52 < pf p 8 8 + 4 * n) 3 8,
   bad (!atInline p && pf p 16 8 % (if f = 1 then 2 else 4) != 0) 4 16, bad (!atInline p && decide (2 ^ 52 ≤ pf p 16 8)) 3 16,
   bad (atInline p && pf p 16 8 != 0) 3 16, bad (!atInline p && (n == 0 || decide (2 ^ 24 < n))) 3 24,
   bad (atInline p && (n == 0 || decide (5 < n))) 3 24,
   bad ((decide (2 ≤ f) && decide (f < 12)) || (atInline p && f != 0)) 3 28, bad (12 ≤ f) 2 28] ++
  (if atInline p then ((List.range 5).filter (fun k => decide (n ≤ k))).map (fun k => bad (pf p (32 + 4 * k) 4 != 0) 1 (32 + 4 * k)) else [])

/-- Elements of a target of `n` that a source of `m` bytes overlaps. -/
def overlapped (dst n src m : Nat) : List Nat :=
  (List.range n).filter (fun k => decide (src < dst + 4 * k + 4) && decide (dst + 4 * k < src + m))

/-- Target elements in an overlap with the source are undefined (R203): free before their add, and their addends free (log entry 84). -/
def freeOverlap (dst : Nat) (ks : List Nat) (xs : List F32) : Act (List F32) := do
  modify fun s => ks.foldl (fun s k => freeVa (dst + 4 * k) 4 s) s
  let (ys, s) := xs.zipIdx.foldl (fun (ys, s) (x, k) =>
    if ks.contains k then
      let (d, s) := draw s
      (ys ++ [(Config.freeWord d).setWidth 32], s)
    else (ys ++ [x], s)) (([] : List F32), ← get)
  set s
  return ys

/-- The bytes of a source element. -/
def atSize (p : Packet) : Nat := if atFmt p = 1 then 2 else 4

/-- The source stays below 2^52 (R519). -/
def atomicAddCheck (t : Task) : Act Unit :=
  need [bad (!atInline t.pkt && decide (2 ^ 52 < pf t.pkt 16 8 + atCount t.pkt * atSize t.pkt)) 3 16]

/-- Translate both ranges, read the addends, and run the groups (R203). -/
def atomicStart (t : Task) : Act Unit := do
  let p := t.pkt
  let n := atCount p
  let dst := pf p 8 8
  let src := pf p 16 8
  let size := atSize p
  translateNeeds t.ring p.tag.toNat
    ((if atInline p then [] else rangeNeeds src (n * size) false 4 0) ++ rangeNeeds dst (4 * n) true 5 0)
  let xs ← (if atInline p then return (List.range n).map (fun k => BitVec.ofNat 32 (pf p (32 + 4 * k) 4))
    else do let b ← readVa src (n * size); return gradValues (atFmt p) n b)
  let ps ← xlateRange (rangeFuel (4 * n)) dst (4 * n) true
  let both := if atInline p then [] else overlapped dst n src (n * size)
  let xs ← (if both.isEmpty then return xs else freeOverlap dst both xs)
  modify (setWork t.id (.atomic ⟨[], 0, none⟩))
  runGroups t (addGroups ps xs [])
  modify (atomicSettle t.id)

def startAtomic (t : Task) (s : State) : State := runTask t.id (atomicStart t) s

def execAtomicAdd (ring : Nat) (p : Packet) (s : State) : Host.Outcome State Fault Refusal :=
  leaves s (acceptPacket 0x34 atomicAddStep4 (beginTask atomicAddCheck startAtomic) ring p s)

/-! ### Groups of other engines, and answers -/

/-- Answer a group (Table Fab-4). -/
def sendDone (dst task tag line status : Nat) (s : State) : State :=
  sendMsg dst 0x23 task tag [(32, 8, line * 64), (40, 1, status)] [] s

/-- Apply another engine's group here, and answer it. -/
def applyForeign (src task tag : Nat) (g : AddGroup) : Act Unit :=
  onBehalf src task tag (do
      farApply g .nobody
      modify (sendDone src task tag g.line 0))
    (fun r => modify (sendDone src task tag g.line r.status.toNat))

/-- ATOMIC_GROUP arrives at a home; it queues while the host holds the line (R388). -/
def deliverAtomicGroup (h : Header) (payload : Bytes) : Act Unit := do
  let g : AddGroup := ⟨none, hf h 32 8 / 64, maskedAdds (BitVec.ofNat 16 (hf h 40 2)) (f32List 16 payload)⟩
  match hostHolds (← get) g.line with
  | some d => modify (queueGroup (hTask h) (some (hSrc h, hTask h, hTag h)) g 16 ∘ backInvalidate d [])
  | none => applyForeign (hSrc h) (hTask h) (hTag h) g

/-- ATOMIC_DONE arrives: one group has been applied, or its line failed. -/
def deliverAtomicDone (h : Header) (_ : Bytes) : Act Unit :=
  modify fun s =>
    let id := hTask h
    let line := hf h 32 8 / 64
    let hit : Nat × Nat × Nat → Bool := fun x => x.1 == hSrc h && x.2.1 == line
    match (taskOf s id).bind atomicRunOf with
    | none => s
    | some a =>
      match a.await.find? hit with
      | none => s
      | some (_, _, n) =>
        let st : Byte := BitVec.ofNat 8 (hf h 40 1)
        let s := atomicMap id (fun a => { a with await := eraseOne hit a.await }) (progress s)
        if statusDone st then atomicSettle id (atomicMap id (fun a => { a with added := a.added + n }) s)
        else
          let (d, s) := draw s
          let detail : BitVec 24 :=
            if st = stHw then BitVec.ofNat 24 (0x08 * 65536 + (Config.freeWord d).toNat % 65536) else (Config.freeWord d).setWidth 24
          atomicSettle id (atomicFail (st, detail) id s)

/-- The group of a queued request. -/
def NearReq.group (r : NearReq) : AddGroup := ⟨none, r.line, maskedAdds r.mask r.addends⟩

def dropReq (id : Nat) (s : State) : State := { s with host := { s.host with nearReqs := s.host.nearReqs.filter (fun r => r.id != id) } }

/-- A near request enters the home's queue, as a far add (R389). -/
def turnFar (r : NearReq) : Act Unit := do
  modify fun s => { s with host := { s.host with toFar := satAdd s.host.toFar 1 } }
  modify (predict (r.line * 64) true)
  let s ← get
  let home := homeEid s (r.line * 64)
  needHome r.task home
  if home = (ownEid s).toNat then
    match hostHolds s r.line with
    | some d => modify (queueGroup r.task none r.group 16 ∘ backInvalidate d [])
    | none => applyFor r.task r.group (farApply r.group (.task r.task))
  else
    let tag := match taskOf s r.task with | some t => t.pkt.tag.toNat | none => 0
    modify (sendGroup r.task tag home r.group)

/-- A near request wins its line. -/
def winNear (r : NearReq) : Act Unit := do
  applyFor r.task r.group (nearApply r.group (.task r.task))
  modify (predict (r.line * 64) (r.nacks != 0))

/-- NEAR_RETRY: the request is answered again, with NACK or with the line. -/
def nearRetry (id : Nat) (nacked : Bool) (s : State) : State :=
  match s.host.nearReqs.find? (fun r => r.id == id) with
  | none => s
  | some r =>
    if 16 ≤ r.nacks then s
    else if nacked && r.nacks + 1 < 16 then
      { s with host := { s.host with nearReqs := s.host.nearReqs.map (fun x => if x.id = id then { x with nacks := x.nacks + 1 } else x) } }
    else
      match hostHolds s r.line, nacked with
      | some d, false => backInvalidate d [] s
      | _, _ =>
        match (if nacked then turnFar r else winNear r).go (some r.task) (dropReq id s) with
        | (.ok _, s) => atomicSettle r.task s
        | (.error x, s') => stopFrom r.task x s s'

def execNearRetry (request : Nat) (nacked : Bool) (s : State) : Host.Outcome State Fault Refusal := leaves s (nearRetry request nacked s)

/-- Groups in the home's queue for a line run once the host has let go of it. -/
def runQueued (line : Nat) (s : State) : State :=
  (s.host.nearReqs.filter (fun r => r.line == line && decide (16 ≤ r.nacks))).foldl (fun s r =>
    let a := match r.origin with
      | some (src, task, tag) => applyForeign src task tag r.group
      | none => applyFor r.task r.group (farApply r.group (.task r.task))
    match a.go (if r.origin.isNone then some r.task else none) (dropReq r.id s) with
    | (.ok _, s) => if r.origin.isNone then atomicSettle r.task s else s
    | (.error _, _) => s) s

/-- A home has been declared lost (R206). -/
def atomicLost (eid id : Nat) (s : State) : State :=
  match (taskOf s id).bind atomicRunOf with
  | some a =>
    let reqs := s.host.nearReqs.filter (fun r => r.task == id && r.origin.isNone && homeEid s (r.line * 64) == eid)
    if a.await.any (fun x => x.1 == eid) || !reqs.isEmpty then
      finishTask id { rPeerLost eid with work := BitVec.ofNat 32 a.added }
        (dropReqs id s)
    else s
  | none => s

end Sys2Proof.Machine
end

