-- ==== Sys2Proof/Machine/TimeSync.lean ====
section
/-! DEFINITION. Fabric Time: announcements, discipline, holdover, TIME_CTL and the pulse per second (R433 to R444). -/

namespace Sys2Proof.Machine

def ppsEnabled (s : State) : Bool := s.regs.ftimeCtl.getLsbD 16
def holdoverMs (s : State) : Nat := bitsNat s.regs.ftimeCtl 32 16

/-! ### Time neighbours (R436) -/

/-- An engine's time neighbours: EID, and the fabric port of a far module's agent. -/
def timeNeighbours (s : State) : List (Nat × Option Nat) :=
  if isAgent s then
    (moduleOthers s).map (fun e => (e, none)) ++
    (s.fab.ports.filter (fun p => p.2.up && bitsNat p.2.entry 48 16 == partitionOf s)).map (fun p => (p.2.farAgent, some p.1))
  else match s.fab.otherAgent with
    | some k => [(eidOf (ownModule s) k, none)]
    | none => []

/-- Send a time message to a neighbour, a far agent's on its port. -/
def sendTime (n : Nat × Option Nat) (ty : Nat) (ext : List (Nat × Nat × Nat)) (s : State) : State :=
  if isLost s n.1 then s
  else match n.2 with
    | none => sendLoose n.1 ty ext s
    | some p =>
      if s.rep.failed || !fabEnabled s then s
      else
        let h := newHeader n.1 ty 0 0 0 ext 0 s
        { s with fab := { s.fab with nextMsg := s.fab.nextMsg + 1, sent := s.fab.sent ++ [(p, h, [])] } }

/-- The neighbour of an EID. -/
def neighbourOf (s : State) (eid : Nat) : Option (Nat × Option Nat) := (timeNeighbours s).find? (fun n => n.1 == eid)

/-! ### Announcements (R437) -/

/-- TIME_ANNOUNCE_PERIOD: every 125 ms each engine announces the best grandmaster it knows. -/
def execTimeAnnouncePeriod (s : State) : Host.Outcome State Fault Refusal :=
  let (gm, prio, steps) :=
    if s.time.gmPrio < 255 then (s.time.gmEid, s.time.gmPrio, s.time.steps) else ((ownEid s).toNat, 255, 0)
  leaves s ((timeNeighbours s).foldl (fun s n =>
    sendTime n 0x40 [(32, 8, (now s).toNat), (40, 2, gm), (42, 1, prio), (43, 1, steps)] s) (elect s))

/-- TIME_ANNOUNCE arrives. -/
def deliverTimeAnnounce (h : Header) (_ : Bytes) : Act Unit :=
  modify fun s =>
    if (neighbourOf s (hSrc h)).isNone || 32 ≤ hf h 43 1 then s
    else
      let a : Announce := ⟨hSrc h, hf h 40 2, hf h 42 1, hf h 43 1, tick s⟩
      elect (onTime (fun t => { t with announces := t.announces.filter (fun x => x.src != a.src) ++ [a] }) s)

/-- ANNOUNCE_EXPIRE: an announcement not renewed within 375 ms is forgotten. -/
def announceExpire (src : Nat) (s : State) : State :=
  match s.time.announces.find? (fun a => a.src == src) with
  | some a =>
    if usSince s a.at_ < 375000 then s
    else
      let s1 := onTime (fun t => { t with announces := t.announces.filter (fun x => x.src != src) }) s
      elect (if s1.time.parent = some src then enterHoldover s1 else s1)
  | none => s

def execAnnounceExpire (src : Eid) (s : State) : Host.Outcome State Fault Refusal := leaves s (announceExpire src.toNat s)

/-! ### Synchronisation (R438) -/

/-- TIME_SYNC_PERIOD: every 2^−10 s a parent sends TIME_SYNC to each neighbour that is not its own parent. -/
def execTimeSyncPeriod (s : State) : Host.Outcome State Fault Refusal :=
  leaves s (((timeNeighbours s).filter (fun n => s.time.parent != some n.1)).foldl (fun s n =>
    let (q, last) := match s.time.egress.find? (fun e => e.1 == n.1) with
      | some e => (e.2.1, e.2.2)
      | none => (0, 0)
    let s := sendTime n 0x41 [(32, 8, last.toNat), (40, 4, q.toNat)] s
    onTime (fun t => { t with egress := t.egress.filter (fun e => e.1 != n.1) ++ [(n.1, q + 1, now s)] }) s) s)

/-- TIME_DELAY_REQ arrives: answer with the ingress stamp. -/
def deliverTimeDelayReq (h : Header) (_ : Bytes) : Act Unit :=
  modify fun s => match neighbourOf s (hSrc h) with
    | some n => sendTime n 0x43 [(32, 8, (now s).toNat), (40, 4, hf h 40 4)] s
    | none => s

/-- TIME_DELAY_RESP arrives: one more delay value, in units of 2^−33 s. -/
def deliverTimeDelayResp (h : Header) (_ : Bytes) : Act Unit :=
  modify fun s => match s.time.delayReq, s.time.lastPair with
    | some (q, t3), some (t1, t2) =>
      if s.time.parent != some (hSrc h) || q.toNat != hf h 40 4 then s
      else
        let d : Int := ((hf h 32 8 : Int) - t3.toNat) + (t2 - t1)
        onTime (fun t => { t with delayReq := none, delays := (t.delays ++ [d]).drop (t.delays.length + 1 - 8) }) s
    | _, _ => s

/-! ### Discipline (R439, R440) -/

/-- The signed result of a division rounded to nearest, halves upward. -/
def roundDiv (a b : Int) : Int := (2 * a + b) / (2 * b)

def clampTrim (x : Int) : Int := max (-(2 ^ 23)) (min (2 ^ 23 - 1) x)

/-- FTIME is stepped: no pulse, and what the step passes reaches its point (R443, R444). -/
def stepTime (t : BitVec 96) (s : State) : State :=
  let s := onTime (fun x => { x with ftime := t, stepped := true, ppsOut := false, ppsSec := bits t 64 32 }) s
  timePassed (onTime (fun x => { x with delayReq := none }) (acquire (loseLock s)))

/-- `i` for a trim, in units of 2^−40 ns. -/
def integOf (trim : Int) : Int := -(trim * 1819 * 2 ^ 40) / 1000000

/-- Count an offset toward lock: sixteen within ±8 ns set it, four in a row beyond ±10 ns clear it. -/
def judgeOffset (o40 : Int) (s : State) : State :=
  let near := decide (o40.natAbs ≤ 8 * 2 ^ 40)
  let far := decide (10 * 2 ^ 40 < o40.natAbs)
  let s := onTime (fun t => { t with good := if near then t.good + 1 else 0, bad := if far then t.bad + 1 else 0 }) s
  if 16 ≤ s.time.good then onTime (fun t => { t with lock := true }) s
  else if 4 ≤ s.time.bad then loseLock s
  else s

/-- One pass of the loop on an offset in units of 2^−40 ns. -/
def servo (o40 : Int) (s : State) : State :=
  let ns := o40 / 2 ^ 40
  let s := onTime (fun t => { t with offset := BitVec.ofInt 8 (max (-127) (min 127 ns)) }) s
  if 1000 * 2 ^ 40 < o40.natAbs then
    let d := o40 * 2 ^ 64 / (1000000000 * 2 ^ 40)
    onTime (fun t => { t with integ := 0 }) (stepTime (s.time.ftime - BitVec.ofInt 96 d) s)
  else
    let i := s.time.integ + o40 / 64
    let trim := clampTrim (roundDiv (-(o40 / 8 + i) * 1000000) (1819 * 2 ^ 40))
    judgeOffset o40 (onTime (fun t => { t with integ := i, trim := BitVec.ofInt 24 trim }) s)

/-- The end of acquiring: the rate over 16 syncs moves trim; a rate or a trim that the spec's form cannot hold is left open. -/
def acquired (l : List (Int × Int)) (s : State) : State :=
  let a := (l.head?).getD (0, 0)
  let b := (l.getLast?).getD (0, 0)
  let d1 := b.1 - a.1
  let d2 := b.2 - a.2
  let old := trimInt s.time.trim
  let new := old + roundDiv (-(d2 - d1) * 2 ^ 29) d1
  let (t, s) :=
    if d1 = 0 || new < -(2 ^ 23) || 2 ^ 23 ≤ new then
      let (d, s) := draw s
      ((Config.freeWord d).setWidth 24, s)
    else (BitVec.ofInt 24 new, s)
  onTime (fun x => { x with trim := t, integ := integOf (trimInt t), acquire := none }) s

/-- A pair of stamps (t1, t2) of one sync is complete. -/
def pairDone (t1 t2 : Int) (s : State) : State :=
  let s := onTime (fun t => { t with lastPair := some (t1, t2) }) s
  match s.time.acquire with
  | some l =>
    let l := l ++ [(t1, t2)]
    if 17 ≤ l.length then acquired l s else onTime (fun t => { t with acquire := some l }) s
  | none =>
    let n := s.time.delays.length
    if n = 0 then s
    else servo ((2 * n * (t2 - t1) - s.time.delays.sum) * 1000000000 * 2 ^ 8 / (2 * n)) s

/-- TIME_SYNC arrives from the parent. -/
def deliverTimeSync (h : Header) (_ : Bytes) : Act Unit :=
  modify fun s =>
    if s.time.parent != some (hSrc h) then s
    else
      let q : BitVec 32 := BitVec.ofNat 32 (hf h 40 4)
      let last := s.time.lastSync
      let t2 := now s
      let s := onTime (fun t => { t with lastSync := some (q, t2), syncCount := t.syncCount + 1, syncAt := tick s }) s
      let s := if s.time.syncCount % 16 != 0 then s
        else match neighbourOf s (hSrc h) with
          | none => s
          | some n =>
            let r := s.time.nextReq
            onTime (fun t => { t with delayReq := some (r, now s), nextReq := r + 1 }) (sendTime n 0x42 [(40, 4, r.toNat)] s)
      match last with
      | some (q0, t20) => if q0 + 1 = q then pairDone (hf h 32 8) t20.toNat s else s
      | none => s

/-! ### Holdover (R441) -/

/-- HOLDOVER_ENTER: 8 sync intervals without a TIME_SYNC of the parent. -/
def execHoldoverEnter (s : State) : Host.Outcome State Fault Refusal :=
  leaves s (if s.time.parent.isSome && decide (7812 ≤ usSince s s.time.syncAt) then
           enterHoldover (onTime (fun t => { t with
             announces := t.announces.filter (fun a => some a.src != t.parent) }) s)
         else s)

/-- HOLDOVER_EXPIRE: holdover_ms have passed, and lock clears. -/
def execHoldoverExpire (s : State) : Host.Outcome State Fault Refusal :=
  leaves s (match s.time.holdSince with
    | some t => if s.time.holdover && decide (holdoverMs s * 1000 ≤ usSince s t) then loseLock s else s
    | none => s)

/-! ### Pulse per second (R444) -/

/-- PPS_RISE: the seconds field has just advanced. -/
def execPpsRise (s : State) : Host.Outcome State Fault Refusal :=
  leaves s (if ppsEnabled s && timeLocked s && decide (s.time.ftime.toNat % 2 ^ 64 < edgeStep s) && bits s.time.ftime 64 32 != s.time.ppsSec
         then onTime (fun t => { t with ppsOut := true, ppsSec := bits t.ftime 64 32 }) s else s)

/-- PPS_FALL: the fraction has reached 0x2000_0000. -/
def execPpsFall (s : State) : Host.Outcome State Fault Refusal :=
  leaves s (if 0x20000000 ≤ bitsNat (now s) 0 32 then onTime (fun t => { t with ppsOut := false }) s else s)

/-! ### TIME_CTL (R442, Table Clk-8) -/

def timeCtlStep4 (_ : Byte) (p : Packet) : Checks :=
  let a := pf p 8 1
  [bad (5 ≤ a) 2 8] ++
  (if a = 0 then [highAddr p 16, misaligned p 16 8] else []) ++
  (if a = 2 then [bad (2 ^ 24 ≤ pf p 16 8) 1 16] else []) ++
  (if a = 3 then [bad (2 ^ 8 ≤ pf p 16 8) 1 16] else []) ++
  (if a = 4 then [bad (2 ≤ pf p 16 8) 1 16] else [])

/-- SOL_FTIME_CTL changes: priorities are judged again, and a disabled pulse ends. -/
def setFtimeCtl (v : Word) (s : State) : State :=
  let s := { s with regs := { s.regs with ftimeCtl := v } }
  elect (if v.getLsbD 16 then s else onTime (fun t => { t with ppsOut := false }) s)

/-- The whole of TIME_CTL. -/
def timeCtl (t : Task) : Act Unit := do
  let p := t.pkt
  let s ← get
  let v := pf p 16 8
  match pf p 8 1 with
  | 0 => orFault t.ring p.tag.toNat ⟨v, true, 8, 0⟩ [] (writeVa v (leBytes 8 (now s).toNat))
  | 1 =>
    need [bad s.time.parent.isSome 6 8]
    modify (stepTime (BitVec.ofNat 96 (v * 2 ^ 32)))
  | 2 =>
    need [bad s.time.parent.isSome 6 8]
    modify (onTime (fun t => { t with trim := BitVec.ofNat 24 v }))
  | 3 => modify (setFtimeCtl (setBits s.regs.ftimeCtl 0 8 v))
  | _ => modify (setFtimeCtl (setBits s.regs.ftimeCtl 16 1 v))
  modify (finishOk t.id 0)

def execTimeCtl (ring : Nat) (p : Packet) (s : State) : Host.Outcome State Fault Refusal :=
  leaves s (acceptPacket 0x71 timeCtlStep4 (beginNow timeCtl) ring p s)

end Sys2Proof.Machine
end

