-- ==== Sys2Proof/Machine/Rings.lean ====
section
/-! DEFINITION. The commands of spec/02 that act on rings: NOP, HELLO, QUERY, FENCE, RING_CONFIG and the doorbell (R27 to R38,
R50, R55 to R57, R65 to R67, R515). -/

namespace Sys2Proof.Machine

/-! ### NOP -/

def startNop (t : Task) (s : State) : State := finishOk t.id 0 s

def execNop (ring : Nat) (p : Packet) (s : State) : Host.Outcome State Fault Refusal :=
  leaves s (acceptPacket 0x00 noStep4 (beginTask noCheck startNop) ring p s)

/-! ### HELLO -/

/-- The offered version bytes. -/
def offers (p : Packet) : List Byte := (List.range (min 8 (pf p 8 1))).map (fun k => BitVec.ofNat 8 (pf p (9 + k) 1))

/-- The first offered version that the engine implements. -/
def chosen (p : Packet) : Option Byte := (offers p).find? implementedVersion

def helloStep4 (_ : Byte) (p : Packet) : Checks :=
  let n := pf p 8 1
  [bad (n = 0 || 8 < n) 3 8] ++
  ((List.range 8).map (fun k => bad (n ≤ k && pf p (9 + k) 1 != 0) 1 (9 + k))) ++ [highAddr p 24]

/-- The capability block (Table Cmd-18). -/
def capBlock (driver : Nat) (s : State) : Bytes :=
  withCrc (fields 252 [(0, 2, (ownEid s).toNat), (2, 1, s.fuses.build.toNat), (3, 1, s.fuses.step.toNat),
    (4, 4, s.boot.fwVersion.toNat), (8, 1, 3), (9, 1, 0x10), (10, 1, 0x11), (11, 1, 0x20), (12, 1, s.fuses.lpCount),
    (16, 8, driver), (24, 2, 16384), (26, 2, 4096), (28, 4, 65536), (32, 4, 65536), (36, 2, 4096), (38, 1, 4), (39, 1, 64)])

/-- A version is chosen, and the capability pages translate. -/
def helloCheck (t : Task) : Act Unit := do
  let p := t.pkt
  match chosen p with
  | none => stop (.fail (resultOf stBadVersion (p.version.toNat * 65536 + t.proto.toNat * 256 + 0x20)))
  | some _ =>
    let cap := pf p 24 8
    if cap != 0 then
      need [bad (2 ^ 52 < cap + 256) 3 24]
      translateNeeds t.ring p.tag.toNat (rangeNeeds cap 256 true 8 0)

/-- At its acceptance a HELLO binds its ring to the version chosen, from the next packet on, and leaves its driver_id there
(R56, R57): before its pages are translated, unless its checks or a full fault collector turn it away (log entry 92). -/
def helloBind (id : Nat) (s : State) : State :=
  match taskOf s id with
  | none => s
  | some t =>
    match chosen t.pkt with
    | none => s
    | some v =>
      if s.xl.overflow || (pf t.pkt 24 8 != 0 && decide (2 ^ 52 < pf t.pkt 24 8 + 256)) then s
      else ringSet t.ring { ringGet s t.ring with proto := v, driver := BitVec.ofNat 64 (pf t.pkt 32 8) } s

def startHello (t : Task) (s : State) : State :=
  let p := t.pkt
  let cap := pf p 24 8
  runTask t.id (do
    if cap != 0 then writeVa cap (capBlock (pf p 32 8) (← get))
    let v := (chosen p).getD 0
    modify (mapTask t.id fun t =>
      let r := okResult t (if cap = 0 then 0 else 256) false false
      setResult (if r.status = stOk then { r with detail := BitVec.ofNat 24 (v.toNat * 65536) } else r) t)) s

def execHello (ring : Nat) (p : Packet) (s : State) : Host.Outcome State Fault Refusal :=
  leaves s (acceptPacket 0x01 helloStep4 (fun id s => beginTask helloCheck startHello id (helloBind id s)) ring p s)

/-! ### QUERY -/

def queryLen (c : Nat) : Nat := if c = 1 ∨ c = 4 then 256 else 64

/-- Whether a class does not allow an object ID. -/
def queryIdBad (c id : Nat) : Bool :=
  match c with
  | 1 | 4 | 6 => id != 0
  | 2 => decide (2 ^ 24 ≤ id)
  | 3 => decide (16384 ≤ id)
  | _ => decide (4096 ≤ id)

def queryStep4 (_ : Byte) (p : Packet) : Checks :=
  let c := pf p 8 2
  [bad (c = 0 || 6 < c) 2 8, bad (queryIdBad c (pf p 12 4)) 3 12, highAddr p 16, misaligned p 16 16,
   bad (pf p 24 4 < queryLen c) 3 24]

/-- Table Rows-8. -/
def tableBlock (tid : Nat) (t : Table) : Bytes :=
  withCrc (fields 60 [(0, 3, tid), (3, 1, df t.desc 3 1), (4, 8, t.rowsN), (12, 2, t.width), (14, 1, t.wcFmt), (15, 1, t.sb),
    (16, 4, t.missing.toNat), (20, 4, t.range.toNat), (24, 4, t.unmapped.toNat), (28, 1, t.sat.toNat), (32, 4, t.recStrideB),
    (36, 4, t.wcStrideB), (40, 4, t.nBlocks)])

/-- Table Cmd-24. -/
def ringBlock (n : Nat) (s : State) : Bytes :=
  let r := ringGet s n
  let created := (smapGet s.cmd.rings n).isSome
  let body := fields 60 [(0, 2, n), (2, 1, ringStateCode r.st), (3, 1, if n = 0 then 3 else r.cls.toNat), (4, 1, r.prio.toNat),
    (5, 1, r.proto.toNat), (8, 4, r.sqHead.toNat), (12, 4, r.sqTail.toNat), (16, 4, r.cqTail.toNat), (20, 4, r.cqHead.toNat),
    (24, 4, (ringTasks s n).length), (28, 4, r.completions.toNat), (32, 2, r.rateFloor.toNat), (34, 2, r.msix.toNat),
    (36, 2, r.irqCoalesce.toNat), (38, 2, r.ringFlags.toNat), (40, 1, r.errCause.toNat)]
  withCrc (if created || n = 0 then body else fields 60 [(0, 2, n)])

/-- Table Cmd-25 with R151, Table Grad-3 and Table Berm-5. -/
def counterBlock (s : State) : Bytes :=
  let c := s.cmd
  let h := s.hold
  let g := s.grad
  let b := s.berm
  withCrc (fields 252 [(0, 8, c.fastAccepted.toNat), (8, 8, c.fwAccepted.toNat), (16, 8, c.indices.toNat),
    (24, 8, c.rowsSent.toNat), (32, 8, c.partials.toNat), (40, 8, c.contributions.toNat), (48, 8, c.farAdds.toNat),
    (56, 8, c.records.toNat), (64, 4, h.spilled.toNat), (68, 4, h.restored.toNat), (72, 4, h.early.toNat), (76, 1, h.poolSat.toNat),
    (80, 4, g.spilled.toNat), (84, 4, g.restored.toNat), (88, 4, g.rowsSplit.toNat), (92, 4, g.notKept.toNat),
    (96, 4, g.stalls.toNat), (100, 1, g.gradSat.toNat), (104, 4, b.hits.toNat), (108, 4, b.misses.toNat),
    (112, 4, b.specFills.toNat), (116, 4, b.specUnused.toNat), (120, 4, b.evictions.toNat), (124, 4, b.promotions.toNat),
    (128, 4, b.demotions.toNat), (132, 4, b.pinRefused.toNat), (136, 4, b.bypasses.toNat), (140, 4, b.specSkipped.toNat),
    (144, 2, b.sat.toNat), (146, 1, b.size), (147, 1, b.share), (148, 4, b.threshold.toNat), (152, 2, b.retired.toNat),
    (160, 1, c.sat64.toNat)])

/-- Whether a task is a running transfer of a stream. -/
def transferOf (n : Nat) (t : Task) : Option TransferRun :=
  match t.phase with
  | .running (.transfer r) => if r.stream = n then some r else none
  | _ => none

def runningTransfer (s : State) (n : Nat) : Option (Task × TransferRun) :=
  s.cmd.tasks.findSome? (fun t => (transferOf n t).map (fun r => (t, r)))

/-- Table Stream-7. A disarmed stream still gives what its last transfers left; what it was armed with reads zero (log entry 106). -/
def streamBlock (n : Nat) (s : State) : Bytes :=
  match smapGet s.strm.streams n with
  | none =>
    match smapGet s.strm.past n with
    | none => withCrc (fields 60 [(0, 2, n)])
    | some x => withCrc (fields 60 [(0, 2, n), (3, 1, if x.transferSat then 2 else 0), (5, 1, x.lastStatus.toNat),
        (24, 4, x.transfers.toNat), (28, 4, x.tilesDone.toNat), (32, 8, x.waits.toNat)])
  | some x =>
    let st := if x.disarming.isSome then 3 else if (runningTransfer s n).isSome then 2 else 1
    let log2 := bitsNat x.desc 32 8
    withCrc (fields 60 [(0, 2, n), (2, 1, st), (3, 1, (if x.persistent then 1 else 0) + (if x.transferSat then 2 else 0)),
      (4, 1, if log2 = 0 then 16 else log2), (5, 1, x.lastStatus.toNat), (8, 8, x.src), (16, 8, x.dst), (24, 4, x.transfers.toNat),
      (28, 4, x.tilesDone.toNat), (32, 8, x.waits.toNat)])

/-- R474. -/
def errBlock (s : State) : Bytes :=
  let r := s.rep
  withCrc (leBytes 4 r.prod.toNat ++ leBytes 4 r.cons.toNat ++ leBytes 2 r.sev0.toNat ++ leBytes 2 r.sev1.toNat ++
    leBytes 2 r.sev2.toNat ++ leBytes 2 r.lost.toNat ++ leBytes 32 r.fired.toNat ++ zeroBytes 12)

/-- The block of a QUERY on a ring: class 1 gives the driver_id of that ring's last HELLO (R57, log entry 91). -/
def queryBlock (ring : Nat) (p : Packet) (s : State) : Bytes :=
  let id := pf p 12 4
  match pf p 8 2 with
  | 1 => capBlock (ringGet s ring).driver.toNat s
  | 2 => match tabGet s id with | some t => tableBlock id t | none => []
  | 3 => ringBlock id s
  | 4 => counterBlock s
  | 5 => streamBlock id s
  | _ => errBlock s

def queryCheck (t : Task) : Act Unit := do
  let p := t.pkt
  let n := queryLen (pf p 8 2)
  need [bad (pf p 8 2 = 2 && (tabGet (← get) (pf p 12 4)).isNone) 5 12, bad (2 ^ 52 < pf p 16 8 + n) 3 16]
  if pf p 8 2 = 2 then modify fun s => mapTask t.id (fun t => { t with block := queryBlock t.ring p s }) s
  translateNeeds t.ring p.tag.toNat (rangeNeeds (pf p 16 8) n true 8 0)

/-- The block is captured now; where its table has been deleted since the acceptance, as it was then. -/
def startQuery (t : Task) (s : State) : State :=
  runTask t.id (do
    let b := queryBlock t.ring t.pkt (← get)
    let b := if b.isEmpty then t.block else b
    writeVa (pf t.pkt 16 8) b
    modify (finishOk t.id b.length)) s

def execQuery (ring : Nat) (p : Packet) (s : State) : Host.Outcome State Fault Refusal :=
  leaves s (acceptPacket 0x02 queryStep4 (beginTask queryCheck startQuery) ring p s)

/-! ### FENCE -/

def fenceStep4 (_ : Byte) (p : Packet) : Checks := [bad (2 ≤ pf p 8 1) 2 8]

/-- The tasks in a fence's scope that were accepted before it and have not completed. -/
def fenceScope (t : Task) (s : State) : List Nat :=
  (s.cmd.tasks.filter (fun u => decide (u.id < t.id) && u.origin.isNone && (pf t.pkt 8 1 == 1 || u.ring == t.ring))).map (·.id)

def startFence (t : Task) (s : State) : State :=
  let w := fenceScope t s
  if w.isEmpty then finishOk t.id 0 s else setWork t.id (.fence w w.length) s

def execFence (ring : Nat) (p : Packet) (s : State) : Host.Outcome State Fault Refusal :=
  leaves s (acceptPacket 0x03 fenceStep4 (beginTask noCheck startFence) ring p s)

/-- Fences whose tasks have all completed end. -/
def fenceSweep (s : State) : State :=
  s.cmd.tasks.foldl (fun s t => match t.phase with
    | .running (.fence w n) =>
      if w.all (fun k => (taskOf s k).isNone) then finishOk t.id n s else s
    | _ => s) s

/-! ### RING_CONFIG -/

def rcRing (p : Packet) : Nat := pf p 8 2

/-- Addresses, the class and the version byte are judged under every action (R6, R519), but for the version byte 0x00 of a packet
that creates no ring (log entry 89). -/
def ringConfigStep4 (proto : Byte) (p : Packet) : Checks :=
  let cls := pf p 36 1
  let create := pf p 10 1 == 0
  [bad (rcRing p = 0 || 16383 < rcRing p) 3 8, bad (4 ≤ pf p 10 1) 2 10, highAddr p 12, highAddr p 20, highAddr p 28,
   bad (4 ≤ cls || (cls = 1 && proto != 0x20)) 2 36,
   bad (!implementedVersion (BitVec.ofNat 8 (pf p 38 1)) && (create || pf p 38 1 != 0)) 2 38] ++
  (if !create then [] else
    [bad (pf p 11 1 < 6 || 16 < pf p 11 1) 3 11, misaligned p 12 4096, misaligned p 20 4096, misaligned p 28 8, bad (cls = 3) 3 36,
     bad (7 < pf p 37 1 || (cls != 2 && pf p 37 1 != 0)) 3 37, bad (2047 < pf p 40 2) 3 40, bad (192 < pf p 44 2 || (cls != 2 && pf p 44 2 != 0)) 3 44])

/-- The ring that a create builds. -/
def createdRing (p : Packet) : Ring :=
  { Ring.blank with
    sqBase := BitVec.ofNat 64 (pf p 12 8), cqBase := BitVec.ofNat 64 (pf p 20 8), cqWb := BitVec.ofNat 64 (pf p 28 8)
    depthLog2 := BitVec.ofNat 8 (pf p 11 1), cls := BitVec.ofNat 8 (pf p 36 1), prio := BitVec.ofNat 8 (pf p 37 1)
    proto := BitVec.ofNat 8 (pf p 38 1), msix := BitVec.ofNat 16 (pf p 40 2), irqCoalesce := BitVec.ofNat 16 (pf p 42 2)
    rateFloor := BitVec.ofNat 16 (pf p 44 2), ringFlags := BitVec.ofNat 16 (pf p 46 2) }

/-- Translations of the pages of a range, each page or declared run once. -/
def collectXlats : List Need → List Xlat → Act (List Xlat)
  | [], acc => return acc
  | n :: t, acc => do
    let x ← demand n.va n.write
    let x := { x with locked := false }
    collectXlats t (if acc.any (fun y => y.va == x.va && y.lg == x.lg) then acc else acc ++ [x])

/-- The pages of a ring's queues and its cq_wb. -/
def queueNeeds (r : Ring) : List Need :=
  rangeNeeds r.sqBase.toNat (64 * ringDepth r) false 7 0 ++ rangeNeeds r.cqBase.toNat (32 * ringDepth r) true 7 0 ++
  (if r.cqWb = 0 then [] else rangeNeeds r.cqWb.toNat 8 true 8 0)

/-- The sum of the rate floors of the enabled priority rings. -/
def floorSum (s : State) : Nat :=
  ((s.cmd.rings.filter (fun e => e.2.st == .enabled && e.2.cls == 2)).map (fun e => e.2.rateFloor.toNat)).sum

/-- Entries in use in the ring translation store. -/
def storeUsed (s : State) : Nat := (s.xl.ringStore.map (fun e => e.2.length)).sum

def setRingStore (n : Nat) (l : List Xlat) (s : State) : State :=
  { s with xl := { s.xl with ringStore := if l.isEmpty then smapDel s.xl.ringStore n else smapSet s.xl.ringStore n l } }

/-- A draining ring whose tasks have all completed is disabled, and the task that drained it completes (R35). -/
def drainEnd (n : Nat) (s : State) : State :=
  let r := ringGet s n
  if r.st != .draining then s
  else if (ringTasks s n).any (fun t => some t.id != r.drainTask) then s
  else
    let head := if r.drainReset then r.sqTail else r.sqHead
    let s := setRingStore n [] (ringSet n { r with st := .disabled, sqHead := head, drainTask := none, drainReset := false } s)
    match r.drainTask with
    | some id => finishOk id 0 s
    | none => s

/-- Stop acceptance on a ring and drain it. -/
def startDrain (n : Nat) (task : Option Nat) (reset : Bool) (s : State) : State :=
  drainEnd n (ringSet n { ringGet s n with st := .draining, drainTask := task, drainReset := reset } s)

def ringConfigWhole (t : Task) : Act Unit := do
  let p := t.pkt
  let n := rcRing p
  let s ← get
  let r := ringGet s n
  match pf p 10 1 with
  | 0 =>
    let c := createdRing p
    need [bad (r.st != .disabled) 6 8, bad (2 ^ 52 < c.sqBase.toNat + 64 * ringDepth c) 3 12,
          bad (2 ^ 52 < c.cqBase.toNat + 32 * ringDepth c) 3 20]
    modify (finishOk t.id 0 ∘ ringSet n c)
  | 1 =>
    let used := storeUsed s - ((smapGet s.xl.ringStore n).getD []).length
    let full := match ((collectXlats (queueNeeds r) []).go none s).1 with
      | .ok xs => decide (65536 < used + xs.length)
      | .error _ => false
    need [bad (!(r.st == .disabled || r.st == .error) || r.depthLog2 = 0) 6 8, bad full 3 10,
          bad (r.cls = 2 && 192 < floorSum s + r.rateFloor.toNat) 3 44]
    translateNeeds n 0xFFFFFFFF (queueNeeds r)
    let xs ← collectXlats (queueNeeds r) []
    modify (finishOk t.id 0 ∘ ringSet n { r with st := .enabled, discard := false, sinceIrq := 0 } ∘ setRingStore n xs)
  | 2 =>
    need [bad (!(r.st == .enabled || r.st == .error)) 6 8]
    modify (startDrain n (some t.id) false ∘ setWork t.id (.ringDrain n))
  | _ =>
    need [bad (r.st == .draining) 6 8]
    if r.st = .disabled then
      modify (finishOk t.id 0 ∘ setRingStore n [] ∘ ringSet n { r with sqHead := r.sqTail })
    else modify (startDrain n (some t.id) true ∘ setWork t.id (.ringDrain n))

def execRingConfig (ring : Nat) (p : Packet) (s : State) : Host.Outcome State Fault Refusal :=
  leaves s (acceptPacket 0x08 ringConfigStep4 (beginNow ringConfigWhole) ring p s)

/-- RING_DRAIN_END. -/
def execRingDrainEnd (ring : Nat) (s : State) : Host.Outcome State Fault Refusal := leaves s (drainEnd ring s)

/-! ### The doorbell -/

def doorbellOffset (n : Nat) : Nat := 0x20000 + 8 * n

/-- DOORBELL_WRITE: `size` bytes written to SOL_DB[n] (R30, R31, R376, R515). -/
def doorbellWrite (n size : Nat) (value : Word) (s : State) : State :=
  if s.boot.inReset then s
  else
    let (inj, s) := injectAt 0x1A 0 s
    if size != 8 || inj then logErr { det := 0x1A, sev := 0, address := doorbellOffset n, injected := inj } s
    else if !writesLive s then misuse (doorbellOffset n) s
    else
      let r := ringGet s n
      let tail : BitVec 32 := value.setWidth 32
      let head : BitVec 32 := bits value 32 32
      let cqBad := decide (ringDepth r < (r.cqTail - head).toNat)
      let log := logErr { det := 0x02, sev := if r.st = .enabled then 2 else 0, phys := n, address := doorbellOffset n, ring := n }
      match r.st with
      | .disabled => misuse (doorbellOffset n) s
      | .enabled =>
        if cqBad || ringDepth r < (tail - r.sqHead).toNat then ringIrq n (ringError n 1 (log s))
        else { s with cmd := { s.cmd with rings := smapSet s.cmd.rings n { r with
          sqTail := tail
          cqHead := head
          behind := (s.host.waiting.filter (·.data.isSome)).map (·.id)
          behindLines := (s.host.backInv.filter (fun b => !b.write.isEmpty)).map (·.line) } } }
      | _ =>
        if cqBad then log s
        else { s with cmd := { s.cmd with rings := smapSet s.cmd.rings n { r with cqHead := head } } }

def execDoorbellWrite (ring size : Nat) (value : Word) (s : State) : Host.Outcome State Fault Refusal :=
  leaves s (doorbellWrite ring size value s)

end Sys2Proof.Machine
end

