-- ==== Sys2Proof/Machine/Paging.lean ====
section
/-! DEFINITION. Walks ahead (R321 to R324), invalidation (R329 to R331), the fault collector's queue (R339 to R342, R522), advice
(R345), page migration (R346 to R348) and pointer conversion (R343). -/

namespace Sys2Proof.Machine

/-! ### Ranges -/

/-- The checks of start and length that PT_INVALIDATE, MEM_ADVISE and MEM_MIGRATE share; `zero` says whether length zero names the
whole space (R329, R345, R346). -/
def rangeChecks (zero : Bool) (p : Packet) : Checks :=
  let a := pf p 8 8
  let n := pf p 16 8
  [highAddr p 8, misaligned p 8 65536, bad (zero && n == 0 && a != 0) 3 8,
   bad ((!zero && n == 0) || n % 65536 != 0 || decide (2 ^ 52 < a + n)) 3 16]

/-- The 15 other engines of the module. -/
def moduleRest (s : State) : List Nat :=
  ((List.range 16).filter (fun k => k != ownSlot s)).map (eidOf (ownModule s))

/-- Name an engine as lost unless one was declared lost before it (R419). -/
def firstLost (s : State) (a : Option Nat) (eid : Nat) : Option Nat :=
  match a with
  | none => some eid
  | some x => if s.fab.lost.idxOf eid < s.fab.lost.idxOf x then some eid else some x

/-! ### XLATE_PREFETCH and speculative walks (R321, R322, R324) -/

def prefetchStep4 (_ : Byte) (p : Packet) : Checks :=
  [highAddr p 8, misaligned p 8 65536, bad (pf p 16 8 = 0 || 2 ^ 52 < pf p 8 8 + pf p 16 8) 3 16]

def prefetchCheck (t : Task) : Act Unit := do
  let n := pf t.pkt 24 2
  need [bad (n != 0xFFFF && (streamGet (← get) n).isNone) 6 24]

def prefetchRunOf (t : Task) : Option PrefetchRun :=
  match t.phase with
  | .running (.prefetch r) => some r
  | _ => none

/-- Walks outstanding on a budget. -/
def budgetUsed (s : State) (id : Nat) (stream : Option Nat) : Nat :=
  (s.xl.walks.filter (fun w => if stream.isSome then w.stream == stream else w.task == some id && w.stream.isNone)).length

/-- Issue as many of a prefetch's walks as walkers and its budget allow. -/
def prefetchIssue (id : Nat) : Nat → PrefetchRun → State → PrefetchRun × State
  | 0, r, s => (r, s)
  | fuel + 1, r, s =>
    if r.stop ≤ r.next then (r, s)
    else if (tlbFind s r.next).isSome then prefetchIssue id fuel { r with next := r.next + 65536 } s
    else if 32 < s.xl.walks.length || 8 ≤ budgetUsed s id r.stream then (r, s)
    else
      prefetchIssue id fuel { r with next := r.next + 65536 }
        { s with xl := { s.xl with
          walks := s.xl.walks ++ [⟨s.xl.nextWalk, r.next, false, true, some id, r.stream, none⟩], nextWalk := s.xl.nextWalk + 1 } }

/-- Go on with a prefetch; it completes after its last walk. -/
def prefetchGo (id : Nat) (s : State) : State :=
  match (taskOf s id).bind prefetchRunOf with
  | none => s
  | some r =>
    let (r, s) := prefetchIssue id ((r.stop - r.next) / 65536 + 1) r s
    if r.stop ≤ r.next && !s.xl.walks.any (fun w => w.task == some id) then finishOk id r.count s
    else setWork id (.prefetch r) s

def prefetchSweep (s : State) : State := (s.cmd.tasks.map (·.id)).foldl (fun s id => prefetchGo id s) s

def startPrefetch (t : Task) (s : State) : State :=
  let n := pf t.pkt 24 2
  prefetchGo t.id (setWork t.id (.prefetch ⟨pf t.pkt 8 8, pf t.pkt 8 8 + pf t.pkt 16 8, if n = 0xFFFF then none else some n, 0⟩) s)

def execXlatePrefetch (ring : Nat) (p : Packet) (s : State) : Host.Outcome State Fault Refusal :=
  leaves s (acceptPacket 0x50 prefetchStep4 (beginTask prefetchCheck startPrefetch) ring p s)

def dropWalk (id : Nat) (s : State) : State := { s with xl := { s.xl with walks := s.xl.walks.filter (fun w => w.id != id) } }

/-- A prefetched page counts as newly translated. -/
def prefetchCount (w : Walk) (s : State) : State :=
  match w.task with
  | some id => match (taskOf s id).bind prefetchRunOf with
    | some r => setWork id (.prefetch { r with count := r.count + 1 }) s
    | none => s
  | none => s

/-- A speculative walk is made: it fills the cache, waits at MIG, or fails silently. -/
def specWalked (w : Walk) (s : State) : State :=
  match (walkPt w.va).go w.task s with
  | (.ok (.leaf x mig), s) =>
    if mig then { s with xl := { s.xl with walks := s.xl.walks.map (fun k => if k.id = w.id then { k with mig := some (tick s) } else k) } }
    else
      let fresh := (tlbFind s w.va).isNone
      let s := tlbInsert x (dropWalk w.id s)
      if fresh then prefetchCount w s else s
  | (_, s) => dropWalk w.id s

/-- WALK_COMPLETE: a speculative walk ends. -/
def walkComplete (id : Nat) (s : State) : State :=
  match s.xl.walks.find? (fun w => w.id == id) with
  | some w => if w.spec && w.mig.isNone then prefetchSweep (specWalked w s) else s
  | none => s

def execWalkComplete (walk : Nat) (s : State) : Host.Outcome State Fault Refusal := leaves s (walkComplete walk s)

/-! ### PT_INVALIDATE (R329, R330, R380) -/

/-- Host-held lines reached at addresses of a range; length zero names every address. -/
def heldIn (start len : Nat) (d : DirLine) : Bool := len == 0 || (decide (start ≤ d.va) && decide (d.va < start + len))

/-- Back-invalidate the host's lines of a range: which they are. -/
def takeBack (start len : Nat) (s : State) : List Nat × State :=
  ((s.host.dir.filter (heldIn start len)).map (·.line), backInvalidateWhere (heldIn start len) s)

/-- Ask the module's other engines to drop translations: those asked, and the first lost one. -/
def sendDrops (id tag start len cause : Nat) : List Nat → State → List Nat × Option Nat × State
  | [], s => ([], none, s)
  | e :: t, s =>
    if isLost s e then
      let (a, l, s) := sendDrops id tag start len cause t s
      (a, firstLost s l e, s)
    else
      let s := sendMsg e 0x52 id tag [(32, 8, start), (40, 8, len), (48, 1, cause)] [] s
      let (a, l, s) := sendDrops id tag start len cause t s
      (e :: a, l, s)

def dropRunOf (t : Task) : Option DropRun :=
  match t.phase with
  | .running (.invalidate r) => some r
  | _ => none

/-- Go on with an invalidate: translations are dropped once the host's lines are back, and the task ends once every engine in scope
has dropped its own. -/
def invalidateGo (id : Nat) (s : State) : State :=
  match taskOf s id with
  | none => s
  | some t => match dropRunOf t with
    | none => s
    | some r =>
      let (r, s) :=
        if r.dropped || !r.lines.isEmpty then (r, s)
        else
          let (n, s) := tlbDrop r.start r.len (bumpGen s)
          let (a, l, s) := if r.wide then sendDrops id t.pkt.tag.toNat r.start r.len 0 (moduleRest s) s else ([], none, s)
          ({ r with dropped := true, count := n, await := a, lost := l }, s)
      if r.dropped && r.await.isEmpty then
        match r.lost with
        | some e => finishTask id (rPeerLost e) s
        | none => finishOk id r.count s
      else setWork id (.invalidate r) s

def invalidateStep4 (_ : Byte) (p : Packet) : Checks := rangeChecks true p ++ [bad (2 ≤ pf p 24 1) 2 24]

def startInvalidate (t : Task) (s : State) : State :=
  let p := t.pkt
  let (lines, s) := takeBack (pf p 8 8) (pf p 16 8) s
  invalidateGo t.id (setWork t.id (.invalidate ⟨pf p 8 8, pf p 16 8, pf p 24 1 == 1, lines, false, [], 0, none⟩) s)

def execPtInvalidate (ring : Nat) (p : Packet) (s : State) : Host.Outcome State Fault Refusal :=
  leaves s (acceptPacket 0x54 invalidateStep4 (beginTask noCheck startInvalidate) ring p s)

/-! ### Page migration (R346 to R348) -/

def migrateStep4' (_ : Byte) (p : Packet) : Checks :=
  rangeChecks false p ++ [bad (pf p 24 1 = 3) 3 24, bad (3 < pf p 24 1) 2 24]

/-- Where the entry lies that a walk of an address ends at, its level and the entry; none where the walk reaches no leaf. -/
def leafFrom (va : Nat) : Nat → Nat → Act (Option (Nat × Nat × Word))
  | lvl, base => do
    let idx := va / 2 ^ levelLg lvl % 512
    match (← readPte (base + 8 * idx)) with
    | none => return none
    | some e =>
      if !pteV e || bitsNat e 60 4 != pteCheck e || pteMalformed lvl idx e then return none
      else if pteLeaf e then return some (base + 8 * idx, lvl, e)
      else match lvl with
        | 0 => return none
        | n + 1 => leafFrom va n (pteFrame e)

def leafOf (va : Nat) : Act (Option (Nat × Nat × Word)) := do
  let r := (cfgOf (← get) (← read).task).ptRoot
  if !r.getLsbD 0 then return none else leafFrom va 3 (bitsNat r 12 44 * 4096)

/-- Whether a placement region targets a byte of a page. -/
def placedPage (s : State) (va : Nat) : Bool :=
  s.host.regions.any (fun e => decide (e.2.target < va + 65536) && decide (va < e.2.target + e.2.len))

/-- A range that MEM_MIGRATE refuses holds a larger page, or a page that a placement region targets (R346). -/
def rangeBarred : Nat → Nat → Act Bool
  | 0, _ => return false
  | n + 1, va => do
    if placedPage (← get) va then return true
    else match (← leafOf va) with
      | some (_, lvl, _) => if lvl != 0 then return true else rangeBarred n (va + 65536)
      | none => rangeBarred n (va + 65536)

def migrateCheck' (t : Task) : Act Unit := do
  let p := t.pkt
  let barred ← rangeBarred (pf p 16 8 / 65536) (pf p 8 8)
  need [bad barred 6 8, bad (!t.cfg.migPools.getLsbD 0) 6 24]

def poolHead (s : State) (t : Nat) : Nat := bitsNat s.regs.migHead (16 * t) 16
def poolTail (s : State) (t : Nat) : Nat := bitsNat s.regs.migTail (16 * t) 16

/-- The head slot of a tier's pool, in the pools that the task bound (R46, R63). -/
def poolSlot (c : TaskCfg) (s : State) (t : Nat) : Nat := bitsNat c.migPools 17 39 * 2 ^ 17 + t * 32768 + poolHead s t % 4096 * 8

/-- Take the pool's head slot, leaving an entry in it. -/
def poolPut (t : Nat) (e : Word) : Act Unit := do
  let s ← get
  writeDev (poolSlot (cfgOf s (← read).task) s t) (leBytes 8 e.toNat)
  modify fun s => { s with regs := { s.regs with migHead := setBits s.regs.migHead (16 * t) 16 (poolHead s t + 1) } }

/-- An entry with V clear, its other bits as they were. -/
def clearV (e : Word) : Word := e &&& ~~~(1#64)

/-- The next frame offered to a tier that may be used; entries that may not are given back. -/
def nextFrame (t : Nat) : Nat → Act (Option Word)
  | 0 => return none
  | fuel + 1 => do
    let s ← get
    if poolHead s t = poolTail s t then return none
    else
      let e := BitVec.ofNat 64 (leNat (← readDev (poolSlot (cfgOf s (← read).task) s t) 8))
      let ok := pteV e && bitsNat e 60 4 == pteCheck e && !pteMalformed 0 (pteFrame e / 65536) e && pteLeaf e &&
        placeTier (pteBase e) == t
      if ok then return some e
      else
        poolPut t (clearV e)
        nextFrame t fuel

/-- Pages that stay where they are: of a ring's held queues, or of the spillway (R346). Those of the module's other engines are
not this engine's state: whether one of them holds the page is open. -/
def pageHeld (s : State) (va : Nat) : Bool × State :=
  let own := (s.xl.ringStore.flatMap (·.2)).any (fun x => x.overlaps va 65536) ||
    (s.xl.spillStore.any (fun x => x.overlaps va 65536))
  if own || s.fab.liveSlots.isEmpty then (own, s)
  else
    let (d, s) := draw s
    ((Config.freeByte d).getLsbD 0, s)

def moveRunOf (t : Task) : Option MoveRun :=
  match t.phase with
  | .running (.memMigrate r) => some r
  | _ => none

/-- The leaf that a page is given: its frame, HOST and link from the pool, its own W (R347). -/
def movedLeaf (leaf frame : Word) : Word :=
  let e := setBits (setBits (setBits frame 60 4 0) 6 1 0) 8 4 0
  sealPte (setBits e 2 1 (if pteW leaf then 1 else 0))

/-- Find the next page to move, set MIG in its leaf and take it from every cache. -/
def pageStart (t : Task) : Nat → MoveRun → Act MoveRun
  | 0, r => return { r with next := r.stop }
  | fuel + 1, r => do
    let tier := pf t.pkt 24 1
    if r.stop ≤ r.next then return r
    else
      let skip := { r with next := r.next + 65536 }
      match (← leafOf r.next) with
      | none => pageStart t fuel skip
      | some (a, lvl, e) =>
        if lvl != 0 || pteMig e || placeTier (pteBase e) == tier then pageStart t fuel skip
        else
          let (held, s) := pageHeld (← get) r.next
          set s
          if held then pageStart t fuel skip
          else match (← nextFrame tier 65536) with
            | none =>
              modify fun s => { s with xl := { s.xl with poolEmpty := true } }
              return { r with next := r.stop }
            | some f =>
              writeDev a (leBytes 8 (sealPte (e ||| (1#64 <<< 6))).toNat)
              let s ← get
              let (lines, s) := takeBack r.next 65536 s
              let (_, s) := tlbDrop r.next 65536 s
              let (wait, lost, s) := sendDrops t.id t.pkt.tag.toNat r.next 65536 1 (moduleRest s) s
              set s
              match lost with
              | some x =>
                writeDev a (leBytes 8 e.toNat)
                stop (.fail (rPeerLost x))
              | none => return { r with next := r.next + 65536, page := some ⟨r.next, a, e, f⟩, lines := lines, await := wait }

/-- Near adds made at a place reach memory there (R330, R393). -/
def nearWrite (p : Place) (n : Nat) (s : State) : State :=
  match p with
  | .dev a => (linesOf a n).foldl (fun s l => evictNear l none s) s
  | .host k a => (linesOf a n).foldl (fun s l => evictNear l (some k) s) s
  | .scratch _ => s

/-- Copy a page, give it its new frame, and give the old one to the pool. -/
def pageMove (t : Task) (r : MoveRun) (g : PageMove) : Act MoveRun := do
  let tier := pf t.pkt 24 1
  modify (nearWrite (pteBase g.leaf) 65536)
  let b ← readPlace (pteBase g.leaf) 65536
  writePlace (pteBase g.frame) b
  writeDev g.leafAt (leBytes 8 (movedLeaf g.leaf g.frame).toNat)
  poolPut tier (clearV g.leaf)
  return { r with page := none, moved := r.moved + 1 }

/-- A page whose move cannot go on keeps its leaf. -/
def pageBack (g : PageMove) (s : State) : State := writeDevLines g.leafAt (leBytes 8 g.leaf.toNat) s

/-- Go on with a MEM_MIGRATE as far as it can go. -/
def moveGo (t : Task) : Nat → MoveRun → Act Unit
  | 0, r => modify (setWork t.id (.memMigrate r))
  | fuel + 1, r => do
    match r.page with
    | some g =>
      if !r.lines.isEmpty || !r.await.isEmpty then modify (setWork t.id (.memMigrate r))
      else
        let r ← tryCatch (pageMove t r g) fun x => do modify (pageBack g); throw x
        moveGo t fuel r
    | none =>
      let r ← pageStart t ((r.stop - r.next) / 65536 + 1) r
      if r.page.isNone then modify (finishOk t.id r.moved) else moveGo t fuel r

def moveStep (id : Nat) (s : State) : State :=
  match taskOf s id with
  | none => s
  | some t => match moveRunOf t with
    | none => s
    | some r => runTask id (moveGo t (2 * ((r.stop - r.next) / 65536) + 3) r) s

/-- At its start SOL_PT_GEN rises at every engine of the module: the first XLATE_DROP of a task bumps it (log entry 19). -/
def startMemMigrate (t : Task) (s : State) : State :=
  let p := t.pkt
  let (_, lost, s) := sendDrops t.id p.tag.toNat (pf p 8 8) 65536 1 (moduleRest s) (bumpGen s)
  match lost with
  | some e => finishTask t.id (rPeerLost e) s
  | none => moveStep t.id (setWork t.id (.memMigrate ⟨pf p 8 8, pf p 8 8 + pf p 16 8, none, [], [], 0⟩) s)

def execMemMigrate (ring : Nat) (p : Packet) (s : State) : Host.Outcome State Fault Refusal :=
  leaves s (acceptPacket 0x52 migrateStep4' (beginTask migrateCheck' startMemMigrate) ring p s)

/-- An engine of the module has been lost while a MEM_MIGRATE waited for it. -/
def moveLost (eid id : Nat) (s : State) : State :=
  match (taskOf s id).bind moveRunOf with
  | none => s
  | some r =>
    if r.await.contains eid then
      finishTask id (rPeerLost eid) (match r.page with | some g => pageBack g s | none => s)
    else s

/-! ### What a task of the module awaits -/

/-- An engine has dropped the translations a task named; how many of its own entries, nothing tells (log entry 19). -/
def dropAcked (id eid : Nat) (s : State) : State :=
  match taskOf s id with
  | none => s
  | some t => match t.phase with
    | .running (.invalidate r) =>
      if !r.await.contains eid then s
      else
        let (d, s) := draw s
        invalidateGo id (setWork id (.invalidate { r with await := r.await.erase eid, count := r.count + (Config.freeWord d).toNat % 16385 }) s)
    | .running (.memMigrate r) =>
      if s.fab.kept.any (fun m => m.dst == eid && hTyp m.header == 0x52 && hTask m.header == id) then s
      else moveStep id (setWork id (.memMigrate { r with await := r.await.erase eid }) s)
    | .running (.resolve a n) =>
      if s.fab.kept.any (fun m => m.dst == eid && hTyp m.header == 0x52 && hTask m.header == id) then s
      else
        let a := a.erase eid
        if a.isEmpty then settleOrigin id (finishOk id n s) else setWork id (.resolve a n) s
    | _ => s

/-- A host line that tasks wait for has come back. -/
def linesBack (line : Nat) (s : State) : State :=
  s.cmd.tasks.foldl (fun s t => match t.phase with
    | .running (.invalidate r) =>
      if r.lines.contains line then invalidateGo t.id (setWork t.id (.invalidate { r with lines := r.lines.erase line }) s) else s
    | .running (.memMigrate r) =>
      if r.lines.contains line then moveStep t.id (setWork t.id (.memMigrate { r with lines := r.lines.erase line }) s) else s
    | .running (.configCommit lines n) =>
      if !lines.contains line then s
      else if (lines.erase line).isEmpty then finishOk t.id n s
      else setWork t.id (.configCommit (lines.erase line) n) s
    | _ => s) s

/-- An engine of the module has been lost while a PT_INVALIDATE or FAULT_RESOLVE waited for it. -/
def dropLost (eid id : Nat) (s : State) : State :=
  match taskOf s id with
  | none => s
  | some t => match t.phase with
    | .running (.invalidate r) =>
      if r.await.contains eid then
        invalidateGo id (setWork id (.invalidate { r with await := r.await.erase eid, lost := firstLost s r.lost eid }) s)
      else s
    | .running (.resolve a _) => if a.contains eid then settleOrigin id (finishTask id (rPeerLost eid) s) else s
    | _ => s

/-- XLATE_DROP arrives from an engine of the module. -/
def deliverXlateDrop (h : Header) (_ : Bytes) : Act Unit :=
  modify fun s =>
    let cause := hf h 48 1
    let s := if cause = 2 then s else (takeBack (hf h 32 8) (hf h 40 8) s).2
    let s := if cause = 0 || (cause = 1 && hFseq h = 0) then bumpGen s else s
    (tlbDrop (hf h 32 8) (hf h 40 8) s).2

/-! ### Advice (R345) -/

def adviseStep4 (_ : Byte) (p : Packet) : Checks :=
  let c := pf p 24 1
  let tier := pf p 25 1
  rangeChecks false p ++
  [bad (4 ≤ c) 2 24, bad ((c = 0 && tier != 0) || ((c = 1 || c = 2) && decide (2 < tier)) || (c = 3 && tier != 3)) 3 25]

/-- What is left of an advice outside a range. -/
def adviceOutside (start len : Nat) (a : Advice) : List Advice :=
  let left := if a.start < start then [{ a with len := min a.len (start - a.start) }] else []
  let right := if start + len < a.start + a.len then
    [{ a with start := max a.start (start + len), len := a.start + a.len - max a.start (start + len) }] else []
  left ++ right

/-- The ranges held once advice on a range is taken. -/
def advised (p : Packet) (l : List Advice) : List Advice :=
  let l := l.flatMap (adviceOutside (pf p 8 8) (pf p 16 8))
  if pf p 24 1 = 0 then l else l ++ [⟨pf p 8 8, pf p 16 8, pf p 24 1, pf p 25 1⟩]

def adviseCheck (t : Task) : Act Unit := do
  need [bad (64 < (advised t.pkt (← get).xl.advice).length) 3 16]

/-- KEEP advice holds an entry. -/
def keepAdvised (s : State) (x : Xlat) : Bool :=
  match adviceAt s 1 x.va with | some a => a.tier == placeTier x.place | none => false

/-- Lock the entries that KEEP advice holds, 8 in a set and 4,096 in all at most; those locked before come first. -/
def relock (s : State) : State :=
  let kept := (s.xl.tlb.filter (fun x => x.locked && keepAdvised s x)) ++ (s.xl.tlb.filter (fun x => !x.locked && keepAdvised s x))
  let locks := kept.foldl (fun (l : List Xlat) x =>
    if l.length < 4096 ∧ (l.filter (·.set == x.set)).length < 8 then l ++ [x] else l) []
  let f : Xlat → Xlat := fun x => { x with locked := locks.any (fun y => y.va == x.va && y.lg == x.lg) }
  { s with xl := { s.xl with tlb := s.xl.tlb.map f } }

def startAdvise (t : Task) (s : State) : State :=
  finishOk t.id (pf t.pkt 16 8 / 65536) (relock { s with xl := { s.xl with advice := advised t.pkt s.xl.advice } })

def execMemAdvise (ring : Nat) (p : Packet) (s : State) : Host.Outcome State Fault Refusal :=
  leaves s (acceptPacket 0x51 adviseStep4 (beginTask adviseCheck startAdvise) ring p s)

/-! ### The fault queue (R339 to R341, R522) -/

/-- FAULT_BATCH_CLOSE: 10 µs have passed since the open batch opened. -/
def execFaultBatchClose (s : State) : Host.Outcome State Fault Refusal := leaves s (closeBatch 3 s)

def fcBase (s : State) : Nat := bitsNat s.regs.fcQueue 17 35 * 2 ^ 17

/-- The slot the next batch goes to. -/
def fcSlot (s : State) : Nat := s.xl.prod.toNat % 2 ^ fcQlog2 s

/-- A slot is free once consumed, its batch resolved. -/
def fcFree (s : State) : Bool :=
  decide ((s.xl.prod - s.xl.cons).toNat < 2 ^ fcQlog2 s) && !s.xl.written.any (fun w => w.2.1 == some (fcSlot s))

/-- The task entries of a record by die slot, then by arrival. -/
def entriesBySlot (l : List (BitVec 128)) : List (BitVec 128) :=
  (List.range 16).flatMap (fun k => l.filter (fun e => bitsNat e 0 8 == k))

/-- The records of a batch with their first entries' indices. -/
def batchRecs : List FRec → Nat → List Bytes
  | [], _ => []
  | r :: t, k => recBytes r k :: batchRecs t (k + r.tasks.length)

/-- A batch's task entries as bytes. -/
def batchEntries (b : Batch) : Bytes := b.recs.flatMap (fun r => (entriesBySlot r.tasks).flatMap (fun e => leBytes 16 e.toNat))

/-- The engines a batch names, each of which drops every record's page. -/
def batchEngines (b : Batch) : BitVec 16 := b.recs.foldl (fun m (r : FRec) => m ||| r.engines) 0

/-- The header of Table Xlate-5. -/
def batchHead (b : Batch) (s : State) : Bytes :=
  withCrc (fields 252 [(0, 3, b.seq), (4, 2, b.recs.length), (6, 2, batchTasks b), (8, 1, b.close),
    (10, 2, (batchEngines b).toNat), (12, 2, ownModule s), (16, 8, b.opened.toNat),
    (24, 8, b.closed.toNat), (32, 4, (crc32c (batchEntries b)).toNat)])

/-- The parts of a batch, by offset in its slot (R341). -/
def batchParts (b : Batch) (s : State) : List (Nat × Bytes) :=
  [(0, batchHead b s), (0x100, (batchRecs b.recs 0).flatten), (0x8100, batchEntries b)]

/-- Whether bytes at a place can be written: its site answers, and no line written in part is poisoned. -/
def canWrite (s : State) (x : Place × Nat) : Bool :=
  pieceUp s x && (match x.1 with
    | .dev a => (linesOf a x.2).all (fun l => !s.mem.poison.contains l || (decide (a ≤ l * 64) && decide (l * 64 + 64 ≤ a + x.2)))
    | _ => true)

/-- Write the parts of a batch through the queue's translations; none where a byte cannot reach its slot. -/
def placeBatch (va : Nat) : List (Nat × Bytes) → State → Option State
  | [], s => some s
  | (off, b) :: t, s =>
    match storePieces s.xl.fcStore 4 (va + off) b.length with
    | none => none
    | some ps =>
      if !ps.all (canWrite s) then none
      else match (writePieces ps b).go none s with
        | (.ok _, s) => placeBatch va t s
        | (.error _, _) => none

/-- FAULT_BATCH_WRITE: the oldest waiting batch goes to a free slot. -/
def faultBatchWrite (s : State) : State :=
  match s.xl.waiting with
  | [] => s
  | b :: rest =>
    if fcQlog2 s = 0 || !fcFree s then s
    else
      let slot := fcSlot s
      let va := fcBase s + slot * 2 ^ 17
      match placeBatch va (batchParts b s) s with
      | none =>
        if s.xl.slotFail then s
        else
          let up := match storePieces s.xl.fcStore 4 va (2 ^ 17) with | some ps => ps.all (pieceUp s) | none => true
          logErr { det := if up then 0x08 else 0x0A, sev := 0, address := va } { s with xl := { s.xl with slotFail := true } }
      | some s =>
        raiseEvent 0 { s with xl := { s.xl with
          waiting := rest
          written := s.xl.written ++ [(b.seq, some slot, b)]
          prod := s.xl.prod + 1
          lastSeq := b.seq
          overflow := s.xl.overflow && decide (4 < rest.length)
          slotFail := false } }

def execFaultBatchWrite (s : State) : Host.Outcome State Fault Refusal := leaves s (faultBatchWrite s)

/-! ### FAULT_RESOLVE (R342) -/

/-- Distinct tasks that a batch lists. -/
def distinctTasks (b : Batch) : Nat := ((b.recs.flatMap (·.tasks)).map entryKey).eraseDups.length

/-- Drop a batch's pages here and at every engine that faulted on them: the engines asked, and the first lost one. -/
def dropPages (t : Task) : List FRec → State → List Nat × Option Nat × State
  | [], s => ([], none, s)
  | r :: rest, s =>
    let who := (List.range 16).filter (fun k => r.engines.getLsbD k && k != ownSlot s)
    let s := if r.engines.getLsbD (ownSlot s) then (tlbDrop r.va 65536 s).2 else s
    let (a, l, s) := sendDrops t.id t.pkt.tag.toNat r.va 65536 2 (who.map (eidOf (ownModule s))) s
    let (a', l', s) := dropPages t rest s
    ((a ++ a').eraseDups, l.elim l' (fun x => firstLost s l' x), s)

/-- The collector takes the batch that a FAULT_RESOLVE names: from here on it counts as resolved. -/
def resolveTake (t : Task) : Act Batch := do
  let q := pf t.pkt 8 3
  let s ← get
  match s.xl.written.find? (fun w => w.1 == q) with
  | none => stop (.fail (rBadParam 5 8))
  | some (_, _, b) =>
    set { s with xl := { s.xl with written := eraseOne (fun w => w.1 == q) s.xl.written } }
    return b

/-- Resolve a batch at the collector. -/
def resolveBatch (t : Task) (b : Batch) : Act Unit := do
  let (a, l, s) := dropPages t (b.recs.map (fun r => { r with engines := batchEngines b })) (← get)
  set s
  match l with
  | some e => stop (.fail (rPeerLost e))
  | none => modify (if a.isEmpty then finishOk t.id (distinctTasks b) else setWork t.id (.resolve a (distinctTasks b)))

/-- FAULT_RESOLVE at its acceptance, where this engine is the collector. -/
def resolveCheck (t : Task) : Act Unit := do
  let s ← get
  match collectorSlot s with
  | none => stop (.fail (rBadParam 5 8))
  | some k =>
    if k = ownSlot s then
      let b ← resolveTake t
      modify fun s => { s with xl := { s.xl with resolving := s.xl.resolving ++ [(t.id, b)] } }

/-- FAULT_RESOLVE goes on: at the collector itself, or it passes to the module's collector. -/
def startResolve (t : Task) (s : State) : State :=
  runTask t.id (do
    let s ← get
    match s.xl.resolving.find? (·.1 == t.id), collectorSlot s with
    | some (_, b), _ =>
      set { s with xl := { s.xl with resolving := s.xl.resolving.filter (·.1 != t.id) } }
      resolveBatch t b
    | none, none => stop (.fail (rBadParam 5 8))
    | none, some k =>
      if k = ownSlot s then
        let b ← resolveTake t
        resolveBatch t b
      else
        let dst := eidOf (ownModule s) k
        if isLost s dst then stop (.fail (rPeerLost dst))
        modify (sendMsg dst 0x34 t.id t.pkt.tag.toNat [(32, 2, t.ring), (34, 2, (ownEid s).toNat)] (packetBytes 0x53 t.pkt))
        modify (setWork t.id (.forwarded dst))) s

def execFaultResolve (ring : Nat) (p : Packet) (s : State) : Host.Outcome State Fault Refusal :=
  leaves s (acceptPacket 0x53 noStep4 (beginTask resolveCheck startResolve) ring p s)

/-- A FAULT_RESOLVE that another engine of the module accepted arrives. -/
def resolveForwarded (h : Header) (p : Packet) : Act Unit := do
  let s ← get
  let id := s.cmd.nextTask
  let t : Task := { newTask id (hf h 32 2) 0x53 p 0x20 (liveCfg s) with origin := some (hSrc h, BitVec.ofNat 32 (hTask h)) }
  set { s with cmd := { s.cmd with nextTask := id + 1, tasks := s.cmd.tasks ++ [t] } }
  tryCatch (do let b ← resolveTake t; resolveBatch t b) fun x => modify (stopTask id x)
  modify (settleOrigin id)

/-! ### Records of other engines (R337, R339) -/

/-- The record that a FAULT_RECORD message carries. -/
def recordOf (b : Bytes) : FRec :=
  { va := leField b 0 8, cause := leField b 8 1, level := leField b 9 1, access := leField b 10 1
    engines := BitVec.ofNat 16 (leField b 12 2), entry := BitVec.ofNat 64 (leField b 24 8), ftime := BitVec.ofNat 64 (leField b 32 8)
    remoteEid := leField b 48 2, remoteBatch := leField b 52 3, tasks := [BitVec.ofNat 128 (leField b 64 16)] }

/-- FAULT_RECORD arrives at the collector. -/
def deliverFaultRecord (_ : Header) (payload : Bytes) : Act Unit := modify fun s => (collect (recordOf payload) s).2

/-- The REMOTE record of a fault that another engine met for a task of this one. The notice names no page: it is open. -/
def remoteRecord (t : Task) (h : Header) (s : State) : FRec × State :=
  let (d, s) := draw s
  ({ va := (Config.freeWord d).toNat % 2 ^ 52 / 65536 * 65536
     cause := 6
     level := 0xFF
     access := (Config.freeByte d).toNat % 4
     engines := 1#16 <<< ownSlot s
     entry := 0
     ftime := now s
     remoteEid := hf h 36 2
     remoteBatch := hf h 32 3
     tasks := [taskEntry (ownSlot s) 6 t.ring t.pkt.tag.toNat 0 1] }, s)

/-! ### SOL_XLATE_REQ (R343) -/

def pageCode (lg : Nat) : Nat := (lg - 16) / 9

/-- A walk that writes no record: what it would have logged is dropped. -/
def noRecord (before after : State) : State :=
  { after with rep := { before.rep with inj := after.rep.inj }, cmd := before.cmd, regs := before.regs, mem := { after.mem with dev := before.mem.dev } }

/-- Convert an address into SOL_XLATE_RESULT; a walk that meets MIG keeps the conversion busy. -/
def convert (value : Word) (s : State) : State :=
  let va := bitsNat value 0 52
  let page := va / 65536 * 65536
  let write := value.getLsbD 63
  let put : Word → State → State := fun w s => { s with xl := { s.xl with xlateResult := w, convert := none } }
  let give : Xlat → Word := fun x =>
    match x.at va with
    | .dev a => BitVec.ofNat 64 (pageCode x.lg * 2 ^ 60 + a)
    | .host _ a => BitVec.ofNat 64 (2 ^ 62 + pageCode x.lg * 2 ^ 60 + a)
    | .scratch a => BitVec.ofNat 64 (pageCode x.lg * 2 ^ 60 + a)
  let refuse : Nat → Word := fun c => BitVec.ofNat 64 (c % 16 * 2 ^ 56)
  let settle : Xlat → State → State := fun x s => if write && !x.w then put (refuse 2) s else put (give x) s
  match tlbFind s va with
  | some x => settle x s
  | none =>
    match (walkPt va).go none s with
    | (.ok (.leaf x mig), s') =>
      let s := noRecord s s'
      if !mig then settle x (tlbInsert x s)
      else if migExpired s page then put (refuse 5) s
      else waitMig none page write { s with xl := { s.xl with xlateResult := 1#64 <<< 63, convert := some value } }
    | (.ok (.bad c _ _ _ _), s') => put (refuse c) (noRecord s s')
    | (.error _, s') =>
      let (d, s) := draw (noRecord s s')
      put (refuse ((Config.freeByte d).toNat % 15 + 1)) s

/-- XLATE_REQ: a write while a conversion is in progress is discarded. -/
def execXlateReq (value : Word) (s : State) : Host.Outcome State Fault Refusal :=
  leaves s (guardWrite 0x1538 (fun s => if s.xl.convert.isSome then s else convert value s) s)

end Sys2Proof.Machine
end

