-- ==== Sys2Proof/Machine/Sites.lean ====
section
/-! DEFINITION. Memory sites (R349 to R351, R517), rows past their threshold (R358), the thermal governor (R359 to R365) and stack
repair at bring-up (R366). -/

namespace Sys2Proof.Machine

/-! ### Sites that go offline (R349, R517) -/

/-- The site of one of the engine's units, as the fabric physical address of its first byte. -/
def unitFpa (s : State) (u : Nat) : Nat :=
  let f := s.fuses
  fpaAt (ownModule s) (([f.hbm0Site, f.hbm1Site, f.lp0Site, f.lp1Site, f.lp2Site])[u]?.getD 0x7F) 0

/-- The units that fail together: a stack alone, or every package behind the M-die. -/
def failUnits (s : State) (u : Nat) : List Nat := if u < 2 then [u] else (List.range s.fuses.lpCount).map (· + 2)

/-- Whether a place lies in one of some units. -/
def inUnits (s : State) (us : List Nat) : Place → Bool
  | .dev a => match ownUnit s a with | some u => us.contains u | none => false
  | _ => false

/-- A ring loses its queues or its context: error state, with cause 3 for a host link and 4 for a memory site (R66, R370, R517). -/
def ringCut (cause : Byte) (discard : Bool) (n : Nat) (s : State) : State :=
  let r := ringGet s n
  if r.st = .disabled then s
  else ringSet n { r with st := .error, errCause := cause, discard := r.discard || discard } s

/-- Every ring whose held translations meet a condition. -/
def ringsBehind (p : Place → Bool) (s : State) : List Nat :=
  (s.cmd.rings.map Prod.fst).filter (fun n => (ringXlats s n).any (fun x => p x.place))

/-- SITE_OFFLINE: a stack, or the M-die path, is lost. -/
def siteOffline (u : Nat) (s : State) : State :=
  let us := failUnits s u
  if !us.any (unitOnline s) then s
  else
    let s := { s with mem :=
      if u < 2 then { s.mem with hbmOnline := s.mem.hbmOnline &&& ~~~(1#2 <<< u), hbmLost := s.mem.hbmLost ||| (1#2 <<< u) }
      else { s.mem with lpOnline := 0, lpLost := true } }
    let s := if u = 0 then { s with gov := { s.gov with t0 := 0xFF, fails0 := 0 } }
             else if u = 1 then { s with gov := { s.gov with t1 := 0xFF, fails1 := 0 } } else s
    let s := bumpGen s
    let s := { s with xl := { s.xl with tlb := s.xl.tlb.filter (fun x => !inUnits s us x.place) } }
    let rct := rctBase s != 0 && inUnits s us (.dev (rctBase s))
    let cut := if rct then s.cmd.rings.map Prod.fst else ringsBehind (inUnits s us) s
    let s := cut.foldl (fun s n => ringCut 4 true n s) s
    let idx := nextErrIdx s
    let s := { s with mem := { s.mem with offlineIdx := us.foldl (fun m k => smapSet m k idx) s.mem.offlineIdx } }
    keptOffline (logErr { det := 0x0A, sev := 2, phys := u, address := unitFpa s u, action := 9 } s)

def execSiteOffline (unit : Nat) (s : State) : Host.Outcome State Fault Refusal := leaves s (siteOffline unit s)

/-! ### Bring-up -/

/-- MEMORY_TRAINED: the stacks, the packages, or both have trained; packages come online with it. -/
def memoryTrained (hbmRate lpRate : Nat) (s : State) : State :=
  let s := if hbmRate = 0 then s else { s with mem := { s.mem with hbmTrained := true, hbmRate := BitVec.ofNat 8 hbmRate } }
  if lpRate = 0 then s
  else { s with mem := { s.mem with
    lpRate := BitVec.ofNat 16 lpRate
    lpOnline := if s.mem.lpLost then s.mem.lpOnline else BitVec.ofNat 3 (2 ^ s.fuses.lpCount - 1) } }

def execMemoryTrained (hbmRate lpRate : Nat) (s : State) : Host.Outcome State Fault Refusal := leaves s (memoryTrained hbmRate lpRate s)

/-- The hbm_online bits of a write of SOL_MEM_CTL (Table Mem-3): 1 brings a trained stack online that has not been lost. -/
def bringOnline (value : Word) (s : State) : State :=
  if !s.mem.hbmTrained then s
  else { s with mem := { s.mem with hbmOnline := s.mem.hbmOnline ||| (bits value 0 2 &&& ~~~s.mem.hbmLost) } }

/-! ### Rows past their corrected-error threshold (R358, R463) -/

/-- HBM_ROW_CE_REPORT: one record per row. -/
def hbmRowCe (stack pc bank row : Nat) (s : State) : State :=
  let (inj, s) := injectAt 0x09 (64 * stack + pc) s
  let key := (stack, pc, bank, row)
  if s.mem.ceRows.contains key && !inj then s
  else
    let s := if inj then s else { s with mem := { s.mem with ceRows := s.mem.ceRows ++ [key] } }
    logErr { det := 0x09, sev := 0, phys := 64 * stack + pc, address := unitFpa s stack, injected := inj,
             detail := [BitVec.ofNat 8 stack, BitVec.ofNat 8 pc, BitVec.ofNat 8 bank, 0] ++ leBytes 4 row } s

def execHbmRowCeReport (stack pc bank row : Nat) (s : State) : Host.Outcome State Fault Refusal :=
  leaves s (hbmRowCe stack pc bank row s)

/-! ### The governor (R359 to R363) -/

/-- a / b in FP32 for finite operands, b not zero. -/
def fdiv (a b : F32) : F32 := f32Round (f32Sign a != f32Sign b) (f32Mag a) (f32Mag b)

/-- The floor of a finite value. -/
def floorInt (x : F32) : Int := f32Int x / 2 ^ 149

/-- An integer over a power of two, as FP32. -/
def f32Frac (n d : Nat) : F32 := f32Round false n d

/-- A stack's temperature limit less 5 (R359, R361). -/
def tcritOf (t : Option Nat) : Nat := t.getD 100 - 5

def hardEff (s : State) : Nat := min (bitsNat s.regs.govCtl 0 8) (min (tcritOf s.fuses.tcrit0) (tcritOf s.fuses.tcrit1))

/-- The busy floors F: enabled priority rings that hold an accepted, incomplete task. -/
def busyFloors (s : State) : Nat :=
  ((s.cmd.rings.filter (fun e => e.2.st == .enabled && e.2.cls == 2 && !(ringTasks s e.1).isEmpty)).map (fun e => e.2.rateFloor.toNat)).sum

/-- One stack's reading (R360): its last good value, its failed updates in a row, what the governor takes, and the record of a
failure. -/
def readStack (k : Nat) (t : Option Nat) (last : Byte) (fails h : Nat) (s : State) : Byte × Nat × Option Nat × State :=
  if !s.mem.hbmOnline.getLsbD k then (0xFF, 0, none, s)
  else
    let (inj, s) := injectAt 0x17 k s
    match t, inj with
    | some v, false => (BitVec.ofNat 8 v, 0, some v, s)
    | _, _ =>
      let s := logErr { det := 0x17, sev := 0, phys := k, injected := inj } { s with gov := { s.gov with sensor := true } }
      let fails := fails + 1
      (last, fails, if 10 < fails then some h else if last = 0xFF then none else some last.toNat, s)

/-- The higher of two readings. -/
def hotter : Option Nat → Option Nat → Option Nat
  | some a, some b => some (max a b)
  | some a, none => some a
  | none, b => b

/-- The loop of R362 outside region c: the fraction before the floors, and the integrator it would leave. -/
def govLoop (s : State) (t : Nat) (p : F32) : Int × F32 :=
  let soft := bitsNat s.regs.govCtl 8 8
  let ceil := bitsNat s.regs.govCtl 16 16
  let c := f32Frac (if ceil = 0 then 360 else ceil) 2
  let idle := f32Frac (bitsNat s.regs.govGain 32 16) 2
  let ki := f32Frac (bitsNat s.regs.govGain 16 16) 4096
  let kp := f32Frac (bitsNat s.regs.govGain 0 16) 256
  let x := fsub (f32OfNat t) (f32OfNat soft)
  let iNew := if t < soft then 0 else fmin (fadd s.gov.integ (fmul ki x)) (fsub c idle)
  let pt := if t < soft then c else fsub (fsub c (fmul kp x)) iNew
  let a : Int := if flt idle p then floorInt (fdiv (fmul (f32OfNat s.gov.allowed.toNat) (fsub pt idle)) (fsub p idle)) else 256
  (min (max a 8) 256, iNew)

/-- GOV_UPDATE: the allowed fraction is computed anew. -/
def govUpdate (t0 t1 : Option Nat) (s : State) : State :=
  let h := hardEff s
  let (v0, n0, r0, s) := readStack 0 t0 s.gov.t0 s.gov.fails0 h s
  let (v1, n1, r1, s) := readStack 1 t1 s.gov.t1 s.gov.fails1 h s
  let (t, s) := match hotter r0 r1 with
    | some t => (t, s)
    | none => let (d, s) := draw s; ((Config.freeByte d).toNat, s)
  let p := f32Frac s.gauge.pTotal.toNat 64
  let soft := bitsNat s.regs.govCtl 8 8
  let f := busyFloors s
  let put := fun (region a : Nat) (i : F32) (s : State) =>
    { s with gov := { s.gov with
      integ := i, allowed := BitVec.ofNat 9 a, region := BitVec.ofNat 2 region, t0 := v0, t1 := v1, fails0 := n0, fails1 := n1
      power := BitVec.ofNat 16 (s.gauge.pTotal.toNat / 32), freeboard := BitVec.ofInt 8 ((h : Int) - t), hardEff := BitVec.ofNat 8 h
      throttled := if a < 256 then satAdd s.gov.throttled 1 else s.gov.throttled } }
  if h ≤ t then
    let a := max 8 (s.gov.allowed.toNat / 2)
    let s := put 2 a s.gov.integ { s with gov := { s.gov with hard := true } }
    if a = 8 then raiseEvent 2 { s with gov := { s.gov with atMin := true } } else s
  else
    let (a, i) := govLoop s t p
    let region := if t < soft then 0 else 1
    if a < f then
      put region f (if t < soft then 0 else s.gov.integ) { s with gov := { s.gov with overridden := true } }
    else put region a.toNat i s

def execGovUpdate (t0 t1 : Option Nat) (s : State) : Host.Outcome State Fault Refusal := leaves s (govUpdate t0 t1 s)

/-- MR4_READ: the packages' refresh-rate field. -/
def execMr4Read (highest : Bool) (s : State) : Host.Outcome State Fault Refusal :=
  leaves s (if highest && s.mem.lpOnline != 0 then { s with gov := { s.gov with lpHot := true } } else s)

/-- The rules of R364 on a threshold, target and ceiling, without P_idle. -/
def policyChecks (hard soft ceil : Nat) : List (Bool × Nat) :=
  [(hard < 70 || 95 < hard, 8), (soft < 40 || hard ≤ soft, 9), (ceil != 0 && (ceil < 80 || 360 < ceil), 12)]

def ceilOf (ceil : Nat) : Nat := if ceil = 0 then 360 else ceil

def govPolicyStep4 (_ : Byte) (p : Packet) : Checks :=
  (policyChecks (pf p 8 1) (pf p 9 1) (pf p 12 2)).map (fun c => bad c.1 3 c.2)

def govPolicyCheck (t : Task) : Act Unit := do
  need [bad (ceilOf (pf t.pkt 12 2) ≤ bitsNat (← get).regs.govGain 32 16) 3 12]

/-- The three fields are set together. -/
def startGovPolicy (t : Task) (s : State) : State :=
  let p := t.pkt
  finishOk t.id 0 { s with regs := { s.regs with
    govCtl := BitVec.ofNat 64 (pf p 12 2 * 2 ^ 16 + pf p 9 1 * 2 ^ 8 + pf p 8 1) } }

/-- GOV_POLICY: it takes effect at its acceptance (R364). -/
def govPolicyWhole (t : Task) : Act Unit := do
  govPolicyCheck t
  modify (startGovPolicy t)

def execGovPolicy (ring : Nat) (p : Packet) (s : State) : Host.Outcome State Fault Refusal :=
  leaves s (acceptPacket 0x70 govPolicyStep4 (beginNow govPolicyWhole) ring p s)

/-! ### Stack repair at bring-up (R366) -/

/-- A write of SOL_HBM_PPR: its fields are stored, a reserved op aside (R6), and start begins the operation, which an online
stack refuses. -/
def pprWrite (value : Word) (s : State) : State :=
  if s.mem.pprBusy then s
  else
    let kept := if 2 ≤ bitsNat value 56 3 then setBits value 56 3 (bitsNat s.regs.hbmPpr 56 3) else value
    let s := { s with regs := { s.regs with hbmPpr := kept &&& 0x0FFFFFFFFC000000 } }
    if !value.getLsbD 63 then s
    else
      let stack := bitsNat value 59 1
      if 2 ≤ bitsNat value 56 3 then { s with mem := { s.mem with pprResult := 3 } }
      else if s.mem.hbmOnline.getLsbD stack then { s with mem := { s.mem with pprResult := 2 } }
      else { s with mem := { s.mem with pprBusy := true } }

/-- HBM_PPR_COUNT_SPARES. -/
def execHbmPprCountSpares (value : Word) (s : State) : Host.Outcome State Fault Refusal :=
  leaves s (guardWrite 0x170 (pprWrite value) s)

/-- HBM_PPR_REPAIR. -/
def execHbmPprRepair (value : Word) (s : State) : Host.Outcome State Fault Refusal :=
  leaves s (guardWrite 0x170 (pprWrite value) s)

/-- HBM_PPR_DONE: the port reports how the operation ended. Which bytes of the stack a repaired row holds, and so what it clears,
the spec does not say. -/
def hbmPprDone (result spares : Nat) (s : State) : State :=
  if !s.mem.pprBusy then s
  else { s with mem := { s.mem with
    pprBusy := false, pprResult := BitVec.ofNat 2 result, pprSpares := BitVec.ofNat 8 (min spares 255) } }

def execHbmPprDone (result spares : Nat) (s : State) : Host.Outcome State Fault Refusal := leaves s (hbmPprDone result spares s)

end Sys2Proof.Machine
end

