-- ==== Sys2Proof/Machine/HostPath.lean ====
section
/-! DEFINITION. Host links (R369 to R371), the host window (R377 to R380), the placement aperture (R381 to R387), and the lines the
host holds (R388 to R392). -/

namespace Sys2Proof.Machine

/-! ### Links -/

/-- HOST_LINK_UP: a link trains; in a mode the engine does not support, or once lost, it stays down. -/
def hostLinkUp (link width rate : Nat) (s : State) : State :=
  match s.host.links[link]? with
  | none => s
  | some k =>
    if k.lost || !(width == 4 || width == 3) || !(rate == 6 || rate == 5) then s
    else { s with host := { s.host with
      links := s.host.links.set link ⟨true, false, BitVec.ofNat 4 width, BitVec.ofNat 4 rate⟩ } }

def execHostLinkUp (link width rate : Nat) (s : State) : Host.Outcome State Fault Refusal := leaves s (hostLinkUp link width rate s)

/-! ### Back-invalidate responses (R391) -/

/-- Write bytes that a back-invalidate held back. -/
def heldWrite (w : Nat × Bytes) (s : State) : State := clearPoison w.1 w.2.length (rawWriteDev w.1 w.2 s)

/-- Reads of SOL_PLACE_FENCE that wait for nothing more return, oldest first (R386). -/
def fenceSweep' : Nat → State → State
  | 0, s => s
  | fuel + 1, s =>
    match s.host.fenceReads with
    | [] :: rest =>
      fenceSweep' fuel { s with host := { s.host with
        fenceReads := rest, fence := s.host.fence + 1, readData := some (leBytes 8 (s.host.fence + 1).toNat) } }
    | _ => s

/-- What follows a write whose lines the host has given back. -/
def runDeed (d : Deed) (s : State) : State :=
  match d with
  | .culvert id => culvertDone id s
  | .hop owner task tag unit sem => hopDone owner task tag unit sem s
  | .row h payload => ((deliverUpdateRow h payload).go none s).2

/-- A line is back: the deeds that wait for no further line are done, oldest first. -/
def landingSweep (line : Nat) (s : State) : State :=
  let ls := s.host.landings.map (fun l => { l with lines := l.lines.filter (· != line) })
  let s := { s with host := { s.host with landings := ls.filter (fun l => !l.lines.isEmpty) } }
  (ls.filter (fun l => l.lines.isEmpty)).foldl (fun s l => runDeed l.deed s) s

/-- The host has given a line back: modified data is written first, then what waited for it. -/
def lineReturned (line : Nat) (data : Option Bytes) (s : State) : State :=
  match s.host.backInv.find? (fun b => b.line == line) with
  | none => s
  | some b =>
    let s := match data with
      | some d => heldWrite (line * 64, padTo 64 d) s
      | none => s
    let s := b.write.foldl (fun s w => heldWrite w s) s
    let s := { s with host := { s.host with
      backInv := s.host.backInv.filter (fun b => b.line != line)
      dir := s.host.dir.filter (fun d => d.line != line)
      fenceReads := s.host.fenceReads.map (fun l => l.erase line) } }
    fenceSweep' s.host.fenceReads.length (linesBack line (landingSweep line (runQueued line s)))

/-! ### The host window (R377, R378) -/

def hwinBase (s : State) : Nat := bitsNat s.regs.hwinCtl 25 27 * 2 ^ 25

/-- The directory's sets and ways; which set a line falls in is the engine's own choice (log entry 20). -/
def dirSets : Nat := 32768
def dirWays : Nat := 16

/-- An access that fails under R378: its counter, and one record in each millisecond. -/
def hwinFail (offset : Nat) (write inj : Bool) (cause : Option Nat) (s : State) : State :=
  let s := { s with host :=
    if write then { s.host with droppedWr := satAdd s.host.droppedWr 1 }
    else { s.host with poisonRd := satAdd s.host.poisonRd 1, readData := none } }
  let due := match s.host.hwinLog with | some t => decide (1000 ≤ usSince s t) | none => true
  if !due then s
  else
    let (c, s) := match cause with
      | some c => (BitVec.ofNat 8 c, s)
      | none => let (d, s) := draw s; (Config.freeByte d, s)
    logErr { det := 0x14, sev := 0, address := offset, detail := [c], injected := inj }
      { s with host := { s.host with hwinLog := some (tick s) } }

/-- Let the host hold a line: a directory entry, where the line's home is here. -/
def holdLine (line link va : Nat) (s : State) : State :=
  if homeEid s (line * 64) != (ownEid s).toNat || s.host.dir.any (fun d => d.line == line) then s
  else { s with host := { s.host with dir := s.host.dir ++ [⟨line, link, ownSlot s, va⟩] } }

/-- The entry that must go before a line can be recorded for a link: the line's own, where another link holds it, since a home serves
one holder at a time (R388); else the oldest of a full set. -/
def dirVictim (line link : Nat) (s : State) : Option DirLine :=
  if homeEid s (line * 64) != (ownEid s).toNat then none
  else match s.host.dir.find? (fun d => d.line == line) with
    | some d => if d.link = link then none else some d
    | none =>
      let same := s.host.dir.filter (fun d => d.line % dirSets == line % dirSets)
      if dirWays ≤ same.length then same.head? else none

/-- The line of a place in device memory. -/
def lineOf : Place → Option Nat
  | .dev a => some (a / 64)
  | _ => none

/-- A host write to a line: the host's own copy over the same link stays, every other copy goes. -/
def hostWriteLine (link a : Nat) (b : Bytes) (s : State) : State :=
  match s.host.dir.find? (fun d => d.line == a / 64) with
  | some d => if d.link = link then heldWrite (a, b) (evictNear (a / 64) none s) else writeDevLine a b s
  | none => writeDevLine a b s

/-- Serve an access that has been translated. -/
def hwinServe (link va : Nat) (p : Place) (len : Nat) (data : Option Bytes) : Act Unit := do
  match p with
  | .dev a =>
    needSite a
    match data with
    | some b => modify fun s => (splitLines b.length a b).foldl (fun s x => hostWriteLine link x.1 x.2 s) s
    | none =>
      modify fun s => (linesOf a len).foldl (fun s k => evictNear k none s) s
      let b ← readDev a len
      modify fun s =>
        let s := (linesOf a len).foldl (fun s k => holdLine k link (va / 64 * 64 + (k - a / 64) * 64) s) s
        { s with host := { s.host with readData := some b } }
  | _ => return ()

/-- One host access through the window, under its number. -/
def hostAccess (id link offset len : Nat) (data : Option Bytes) (s : State) : State :=
  let write := data.isSome
  let n := match data with | some b => b.length | none => len
  let (inj, s) := injectAt 0x14 0 s
  if inj || !s.regs.hwinCtl.getLsbD 0 || (write && !s.regs.hwinCtl.getLsbD 1) then hwinFail offset write inj none s
  else
    let va := hwinBase s + offset
    match (demand va write).go none s with
    | (.error (.mig v _), _) =>
      waitMig none v write { s with host := { s.host with waiting := s.host.waiting ++ [⟨id, some v, none, link, offset, len, data⟩] } }
    | (.error (.fault _ c _ _ _), s) => hwinFail offset write false (some c) s
    | (.error _, s) => hwinFail offset write false none s
    | (.ok x, s) =>
      match x.at va with
      | .dev a =>
        if fpaModule a != ownModule s then hwinFail offset write false none s
        else
          let lines := linesOf a n
          match lines.find? (fun k => s.host.backInv.any (fun b => b.line == k)) with
          | some k => { s with host := { s.host with waiting := s.host.waiting ++ [⟨id, none, some k, link, offset, len, data⟩] } }
          | none =>
            match if write then none else lines.findSome? (fun k => dirVictim k link s) with
            | some d =>
              let s := if lines.contains d.line then s else { s with host := { s.host with dirEvict := satAdd s.host.dirEvict 1 } }
              let s := backInvalidate d [] s
              { s with host := { s.host with waiting := s.host.waiting ++ [⟨id, none, some d.line, link, offset, len, data⟩] } }
            | none =>
              match (hwinServe link va (.dev a) len data).go none s with
              | (.ok _, s) => s
              | (.error (.poison _), s) => { s with host := { s.host with readData := none } }
              | (.error _, s) => hwinFail offset write false none s
      | _ => hwinFail offset write false none s

/-- HOST_WINDOW_ACCESS: a read of `len` bytes, or a write of bytes, at an offset of the engine's window. -/
def hostWindowAccess (link offset len : Nat) (data : Option Bytes) (s : State) : State :=
  if s.boot.inReset || !linkUp s link || 2 ^ 31 ≤ offset then s
  else hostAccess s.host.nextReq link offset len data { s with host := { s.host with nextReq := s.host.nextReq + 1 } }

def execHostWindowAccess (link offset len : Nat) (data : Option Bytes) (s : State) : Host.Outcome State Fault Refusal :=
  leaves s (hostWindowAccess link offset len data s)

/-- Host accesses that waited for something are made again, oldest first. -/
def hostResume (p : HostReq → Bool) (s : State) : State :=
  let go := s.host.waiting.filter p
  let s := { s with host := { s.host with waiting := s.host.waiting.filter (fun r => !p r) } }
  go.foldl (fun s r => hostAccess r.id r.link r.offset r.len r.data s) s

/-! ### Loss of a link (R370) -/

def onLink (l : Nat) : Place → Bool
  | .host k _ => k == l
  | _ => false

/-- HOST_LINK_LOST. Writes and accesses that waited for the host's copies behind the link go on; the link's own accesses and the
near-held lines of its memory are gone. -/
def hostLinkLost (l : Nat) (s : State) : State :=
  if !linkUp s l then s
  else
    let s := { s with host := { s.host with
      links := s.host.links.set l ⟨false, true, 0, 0⟩
      near := s.host.near.filter (fun x => x.link != some l)
      waiting := s.host.waiting.filter (fun r => r.link != l) } }
    let s := logErr { det := 0x13, sev := 2, phys := l, address := l, action := 9 } s
    let lines := (s.host.backInv.filter (fun b => b.link == l)).map (·.line)
    let s := lines.foldl (fun s k => lineReturned k none s) s
    let s := { s with host := { s.host with dir := s.host.dir.filter (fun d => d.link != l) } }
    let s := hostResume (fun r => match r.line with | some k => lines.contains k | none => false) s
    (ringsBehind (onLink l) s).foldl (fun s n => ringCut 3 true n s) s

def execHostLinkLost (link : Nat) (s : State) : Host.Outcome State Fault Refusal := leaves s (hostLinkLost link s)

/-- HOST_SNOOP: the host takes a line from the near-add cache. -/
def execHostSnoop (link line : Nat) (s : State) : Host.Outcome State Fault Refusal := leaves s (evictNear line (some link) s)

/-- BIRSPI_RECEIVE: the host answers a back-invalidate, with the line's data where it had changed it. -/
def birspi (link line : Nat) (data : Option Bytes) (s : State) : State :=
  if s.host.backInv.any (fun b => b.line == line && b.link == link) then
    hostResume (fun r => r.line == some line) (lineReturned line data s)
  else s

def execBirspiReceive (link line : Nat) (data : Option Bytes) (s : State) : Host.Outcome State Fault Refusal :=
  leaves s (birspi link line data s)

/-! ### The placement aperture -/

/-- The region that an access of `n` bytes at an aperture offset falls in. -/
def regionAt (s : State) (offset n : Nat) : Option Region :=
  (s.host.regions.find? (fun e => decide (e.2.off ≤ offset) && decide (offset + n ≤ e.2.off + e.2.len))).map (·.2)

def unclaimed (s : State) : State := { s with host := { s.host with unclaimed := satAdd s.host.unclaimed 1 } }

/-- The pieces of an access. -/
def regionPieces (r : Region) (offset n : Nat) : List (Place × Nat) :=
  (storePieces r.xl (rangeFuel n) (r.target + (offset - r.off)) n).getD []

/-- APERTURE_WRITE: an adapter's write reaches its region's target with invalidation (R384). -/
def apertureWrite (offset : Nat) (data : Bytes) (s : State) : State :=
  if s.boot.inReset then s
  else match regionAt s offset data.length with
    | none => unclaimed s
    | some r =>
      match (writePieces (regionPieces r offset data.length) data).go none s with
      | (_, s) => s

def execApertureWrite (offset : Nat) (data : Bytes) (s : State) : Host.Outcome State Fault Refusal := leaves s (apertureWrite offset data s)

/-- Bytes as they stand in memory (R385). -/
def readRaw : List (Place × Nat) → Act Bytes
  | [] => return []
  | (.dev a, n) :: t => do
    needSite a
    checkPoison (linesOf a n)
    let b := Memory.read (← get).mem.dev a n
    let r ← readRaw t
    return b ++ r
  | (_, _) :: t => readRaw t

/-- APERTURE_READ: an adapter's read, not coherent; unclaimed it ends with Unsupported Request. -/
def apertureRead (offset len : Nat) (s : State) : State :=
  if s.boot.inReset then s
  else match regionAt s offset len with
    | none => unclaimed { s with host := { s.host with readData := none } }
    | some r =>
      match (readRaw (regionPieces r offset len)).go none s with
      | (.ok b, s) => { s with host := { s.host with readData := some b } }
      | (.error (.poison _), s) => { s with host := { s.host with readData := none } }
      | (.error _, s) =>
        let (b, s) := freeBytes len s
        { s with host := { s.host with readData := some b } }

def execApertureRead (offset len : Nat) (s : State) : Host.Outcome State Fault Refusal := leaves s (apertureRead offset len s)

/-- Whether a line lies in a target of a placement region. -/
def lineTarget (s : State) (line : Nat) : Bool :=
  s.host.regions.any (fun e => e.2.xl.any (fun x => match x.place with
    | .dev a => decide (a ≤ line * 64) && decide (line * 64 < a + x.len)
    | _ => false))

/-- Write back the lines of the near-add cache that a condition picks; they stay held (R386). -/
def nearBack (p : NearLine → Bool) (s : State) : State :=
  (s.host.near.filter (fun l => l.dirty && l.link.isNone && p l)).foldl (fun s l =>
    let s := heldWrite (l.line * 64, l.data) s
    { s with host := { s.host with near := s.host.near.map (fun x => if x.line = l.line ∧ x.link = none then { x with dirty := false } else x) } }) s

/-- PLACE_FENCE_READ: a read of SOL_PLACE_FENCE, which returns once the host has given back every line of the targets. -/
def placeFenceRead (s : State) : State :=
  if s.boot.inReset then s
  else
    let s := nearBack (fun l => lineTarget s l.line) s
    let hit : DirLine → Bool := fun d => lineTarget s d.line
    let lines := (s.host.dir.filter hit).map (·.line)
    let s := backInvalidateWhere hit s
    fenceSweep' (s.host.fenceReads.length + 1) { s with host := { s.host with fenceReads := s.host.fenceReads ++ [lines] } }

def execPlaceFenceRead (s : State) : Host.Outcome State Fault Refusal := leaves s (placeFenceRead s)

/-! ### PLACEMENT_REGION_SET (R382, R383) -/

def regionStep4 (_ : Byte) (p : Packet) : Checks :=
  [bad (4095 < pf p 8 2) 3 8, bad (2 ≤ pf p 10 1) 2 10] ++
  (if pf p 10 1 = 1 then []
   else [misaligned p 12 65536, misaligned p 20 65536,
         bad (pf p 28 8 = 0 || pf p 28 8 % 65536 != 0 || decide (2 ^ 36 < pf p 12 8 + pf p 28 8)) 3 28,
         bad (2 ^ 52 < pf p 20 8 + pf p 28 8) 3 20])

/-- Whether a page of a target translates to a place that no region may have: host memory or another module's. -/
def targetBad : List Need → Act Bool
  | [] => return false
  | n :: t => do
    let r : Option Xlat ← tryCatch (do let x ← demand n.va false; return some x) fun e => match e with
      | .fault _ _ _ _ _ => return none
      | e => throw e
    match r.map (fun (x : Xlat) => x.place) with
    | some (Place.dev a) => if fpaModule a != ownModule (← get) then return true else targetBad t
    | some _ => return true
    | none => targetBad t

/-- PLACEMENT_REGION_SET. A clear has nothing to wait for: accesses complete as they arrive. -/
def regionWhole (t : Task) : Act Unit := do
  let p := t.pkt
  let k := pf p 8 2
  let live := smapGet (← get).host.regions k
  if pf p 10 1 = 1 then
    need [bad live.isNone 6 8]
    modify fun s => finishOk t.id 0 { s with host := { s.host with regions := smapDel s.host.regions k } }
  else
    let off := pf p 12 8
    let len := pf p 28 8
    let overlaps := (← get).host.regions.any (fun e => decide (e.2.off < off + len) && decide (off < e.2.off + e.2.len))
    need [bad live.isSome 6 8, bad overlaps 6 12]
    let needs := rangeNeeds (pf p 20 8) len false 8 0
    let barred ← targetBad needs
    need [bad barred 6 20]
    translateNeeds t.ring p.tag.toNat needs
    let xl ← collectXlats needs []
    modify fun s => finishOk t.id 0 { s with host := { s.host with regions := smapSet s.host.regions k ⟨off, pf p 20 8, len, xl⟩ } }

def execPlacementRegionSet (ring : Nat) (p : Packet) (s : State) : Host.Outcome State Fault Refusal :=
  leaves s (acceptPacket 0x55 regionStep4 (beginWhole regionWhole) ring p s)

end Sys2Proof.Machine
end

