-- ==== Sys2Proof/Machine/Fabric.lean ====
section
/-! DEFINITION. The fabric endpoint: discovery (R399, R400), acknowledgements and resends (R413, R416, R417), credit (R411, R412), and
the loss of peers (R418, R419, Table Fab-5). -/

namespace Sys2Proof.Machine

/-! ### Discovery (R399, R400) -/

/-- Fabric ports of a build (R397). -/
def portCount (s : State) : Nat := if s.fuses.build = 1 then 28 else if s.fuses.build = 2 then 68 else 48

def Port.blank : Port := ⟨0, false, false, 0, 0⟩

def portGet (s : State) (p : Nat) : Port := (smapGet s.fab.ports p).getD Port.blank

/-- A neighbour-table entry of Table Fab-1. -/
def nbrEntry (state farPort farModule qfm build part seen : Nat) : BitVec 128 :=
  BitVec.ofNat 128 (leNat (withCrc (fields 12 [(0, 1, state), (1, 1, farPort), (2, 2, farModule % 4096), (4, 1, qfm), (5, 1, build),
    (6, 2, part), (8, 4, seen)])))

/-- The entry with another state. -/
def withState (e : BitVec 128) (st : Nat) : BitVec 128 :=
  BitVec.ofNat 128 (leNat (withCrc (leBytes 1 st ++ ((leBytes 16 e.toNat).take 12).drop 1)))

/-- Hold a port's view; a changed entry is written to the table, and raises the fabric event. -/
def portSet (n : Nat) (p : Port) (s : State) : State :=
  let old := (portGet s n).entry
  let s := { s with fab := { s.fab with ports := smapSet s.fab.ports n p } }
  if p.entry = old then s
  else
    let a := bitsNat s.regs.fabNbr 12 44 * 4096 + 16 * n
    let s := if s.regs.fabNbr.getLsbD 0 && siteUp s a then writeDevLines a (leBytes 16 p.entry.toNat) s else s
    raiseEvent 3 s

/-- A port goes down. -/
def portDown (n : Nat) (s : State) : State :=
  let p := portGet s n
  portSet n { p with up := false, known := true, entry := withState p.entry 2 } s

/-- The fields a PROBE carries of this engine. -/
def probeExt (port : Nat) (s : State) : List (Nat × Nat × Nat) :=
  [(32, 1, port), (33, 1, 3), (34, 1, s.fuses.build.toNat), (36, 2, ownModule s)]

/-- Send a probe message on a port. -/
def sendOnPort (port dst ty : Nat) (ext : List (Nat × Nat × Nat)) (s : State) : State :=
  if s.rep.failed then s
  else
    let h := newHeader dst ty 0 0 0 ext 0 s
    { s with fab := { s.fab with nextMsg := s.fab.nextMsg + 1, sent := s.fab.sent ++ [(port, h, [])] } }

/-- Probe one port, whose last three probes may all have gone unanswered. Whom a PROBE is addressed to before the far agent is known,
the spec does not say. -/
def probePort (s : State) (n : Nat) : State :=
  let p := portGet s n
  let s := if p.up && 3 ≤ p.missed then portDown n s else s
  let p := portGet s n
  let (dst, s) := if p.known && p.farAgent != 0 then (p.farAgent, s) else let (d, s) := draw s; ((Config.freeWord d).toNat % 65536, s)
  sendOnPort n dst 0x01 (probeExt n s) { s with fab := { s.fab with ports := smapSet s.fab.ports n { p with missed := p.missed + 1 } } }

/-- PROBE_PERIOD. -/
def probePeriod (s : State) : State :=
  if s.boot.inReset || s.rep.failed || !fastServed s || !isAgent s then s else (List.range (portCount s)).foldl probePort s

def execProbePeriod (s : State) : Host.Outcome State Fault Refusal := leaves s (probePeriod s)

/-- PORT_LINK_DOWN. -/
def portLinkDown (n : Nat) (s : State) : State :=
  if s.boot.inReset || !isAgent s || portCount s ≤ n then s else portDown n s

def execPortLinkDown (port : Nat) (s : State) : Host.Outcome State Fault Refusal := leaves s (portLinkDown port s)

/-- A PROBE is answered on its port. -/
def deliverProbe (port : Nat) (h : Header) (s : State) : State :=
  sendOnPort port (hSrc h) 0x02 (probeExt port s ++ [(40, 1, port)]) s

/-- A PROBE_REPLY brings the port up. -/
def deliverProbeReply (port : Nat) (h : Header) (s : State) : State :=
  portSet port
    { entry := nbrEntry 1 (hf h 32 1) (hf h 36 2) (hf h 33 1) (hf h 34 1) (hPartition h) ((now s).toNat / 2 ^ 16 % 2 ^ 32)
      up := true
      known := true
      missed := 0
      farAgent := hSrc h } s

/-! ### Checks of arriving headers (R398, R403, R404) -/

/-- Ext bytes a type uses (Table Fab-4). -/
def extUsed : Nat → List (Nat × Nat)
  | 0x01 => [(32, 3), (36, 2)]
  | 0x02 => [(32, 3), (36, 2), (40, 1)]
  | 0x03 => [(32, 25)]
  | 0x04 => [(32, 6)]
  | 0x05 => [(32, 1), (34, 2)]
  | 0x06 => [(32, 1), (34, 6)]
  | 0x07 => [(32, 3)]
  | 0x10 => [(32, 3), (36, 18)]
  | 0x11 => [(32, 3), (36, 11), (48, 4)]
  | 0x12 => [(32, 13)]
  | 0x20 => [(32, 3), (36, 3), (40, 16)]
  | 0x21 => [(32, 20)]
  | 0x22 => [(32, 10)]
  | 0x23 => [(32, 9)]
  | 0x30 => [(32, 9), (42, 10)]
  | 0x31 => [(32, 3), (36, 14)]
  | 0x32 => [(32, 2), (36, 4)]
  | 0x33 => [(32, 6)]
  | 0x34 => [(32, 4)]
  | 0x35 => [(32, 3), (36, 4), (40, 12)]
  | 0x40 => [(32, 12)]
  | 0x41 => [(32, 12)]
  | 0x42 => [(40, 4)]
  | 0x43 => [(32, 12)]
  | 0x50 => [(32, 1)]
  | 0x51 => [(32, 3), (36, 2)]
  | 0x52 => [(32, 17)]
  | _ => []

/-- Whether a field of a type holds a reserved encoding or bit. -/
def extReserved (h : Header) : Bool :=
  match hTyp h with
  | 0x03 => hf h 56 1 == 0 || decide (6 < hf h 56 1)
  | 0x04 => hf h 36 1 == 0 || decide (4 < hf h 36 1)
  | 0x05 | 0x06 => decide (1 < hf h 32 1)
  | 0x07 => decide (1 < hf h 34 1)
  | 0x10 => decide (6 < hf h 48 1) || decide (15 < hf h 49 1)
  | 0x11 => decide (3 < hf h 46 1)
  | 0x12 => decide (6 < hf h 44 1) && !(hf h 44 1 == 0x10 || hf h 44 1 == 0x11 || hf h 44 1 == 0x12)
  | 0x30 => decide (1 < hf h 40 1)
  | 0x31 => decide (1 < hf h 48 1)
  | 0x33 => decide (1 < hf h 36 1)
  | 0x35 => decide (3 < hf h 39 1)
  | 0x52 => decide (2 < hf h 48 1)
  | _ => false

/-- Whether a payload's length is not the one its type has. -/
def lengthBad (h : Header) (n : Nat) : Bool :=
  hLen h != n || decide (65536 < n) ||
  (match hTyp h with
    | 0x10 => decide (n < 4)
    | 0x11 | 0x20 | 0x30 | 0x31 | 0x35 => false
    | 0x21 => n != 4 * hf h 50 2
    | 0x22 => n != 64
    | 0x33 => n != 20
    | 0x34 => n != 68
    | 0x50 => n != 84
    | _ => n != 0)

/-- A message that breaks Table Fab-3 or Table Fab-4 (R404), or names a type that QFM 1.0 lacks (R417). -/
def malformed (h : Header) (n : Nat) : Bool :=
  (match typeClass (hTyp h) with
    | none => true
    | some (c, ctrl) => hCls h != c || hCtrl h != ctrl) ||
  !(hVer h == 0x10 || hVer h == 0x20) || hf h 3 1 != 0 || bitsNat h 20 4 != 0 ||
  (hVer h == 0x10 && (hTyp h == 0x31 || hTyp h == 0x33 || hTyp h == 0x35)) ||
  ((List.range 28).map (· + 32)).any (fun k =>
    hf h k 1 != 0 && !(extUsed (hTyp h)).any (fun u => decide (u.1 ≤ k) && decide (k < u.1 + u.2))) ||
  extReserved h || lengthBad h n

/-- Record a fault of the fabric-message detector. -/
def fabRecord (src : Nat) (inj : Bool) (s : State) : State := logErr { det := 0x10, sev := 0, phys := 0xFFFF, eid := src, injected := inj } s

/-- Discard a message, answering NACK. -/
def nackMsg (h : Header) (reason : Nat) (s : State) : State :=
  sendLoose (hSrc h) 0x04 [(32, 4, hMsgId h), (36, 1, reason), (37, 1, 0x20)] s

/-- A message's age beyond the lifetime (R414). -/
def tooOld (h : Header) (s : State) : Bool :=
  let age := ((now s).toNat / 2 ^ 16 + 2 ^ 32 - hSent h) % 2 ^ 32
  decide (lifetimeUs s * 65536 / 1000000 < age) && decide (age < 2 ^ 31)

/-- An injection of detector 0x10 at the port a message came through: a fabric port is not told, so whether it is the armed one is
open. -/
def injectMsg (src : Nat) (s : State) : Bool × State :=
  if eidModule src = ownModule s then injectAt 0x10 0xFFFF s
  else match s.rep.inj with
    | some i =>
      if i.detector = 0x10 && i.unit.toNat < 68 then
        let (d, s) := draw s
        if (Config.freeByte d).getLsbD 0 then injectAt 0x10 i.unit.toNat s else (false, s)
      else (false, s)
    | none => (false, s)

/-- PROBE and PROBE_REPLY reach the discovery agent alone; the partition does not count for them. -/
def receiveProbe (ty port : Nat) (h : Header) (deliver : State → State) (s : State) : State :=
  if s.boot.inReset || s.rep.failed || !fastServed s || !isAgent s || portCount s ≤ port then s
  else
    let (inj, s) := injectAt 0x10 port s
    if !headerCrcOk h || inj then logErr { det := 0x10, sev := 0, phys := port, injected := inj } s
    else if malformed h 0 || hTyp h != ty then nackMsg h 4 (fabRecord (hSrc h) false s)
    else if isLost s (hSrc h) || tooOld h s then s
    else deliver s

def execProbeReceive (port : Nat) (h : Header) (s : State) : Host.Outcome State Fault Refusal :=
  leaves s (receiveProbe 0x01 port h (deliverProbe port h) s)

def execProbeReplyReceive (port : Nat) (h : Header) (s : State) : Host.Outcome State Fault Refusal :=
  leaves s (receiveProbe 0x02 port h (deliverProbeReply port h) s)

/-! ### Ends of tasks from outside -/

/-- End a task that is running, whatever it is doing. -/
def endTask (id : Nat) (r : Result) (s : State) : State :=
  match taskOf s id with
  | none => s
  | some t =>
    match t.phase with
    | .done _ => s
    | .running w =>
      settleOrigin id (match w with
        | .lookup _ => stopLookup id r s
        | .scatter _ => endScatter id r s
        | .update _ => updateFail r none id s
        | .transfer _ => endTransfer id r s
        | .atomic a =>
          finishTask id { r with work := BitVec.ofNat 32 a.added }
            { s with host := { s.host with nearReqs := s.host.nearReqs.filter (fun q => !(q.task == id && q.origin.isNone)) } }
        | .memMigrate m => finishTask id r (match m.page with | some g => pageBack g s | none => s)
        | .prefetch _ => finishTask id r { s with xl := { s.xl with walks := s.xl.walks.filter (fun w => w.task != some id) } }
        | .migrate _ _ _ => migEnd id r s
        | _ => finishTask id r s)
    | _ => finishTask id r s

/-- Whether a task is a look-up that a cancel has stopped: what still arrives of it is discarded (R126). -/
def isCancelled (t : Task) : Bool :=
  match t.phase with
  | .running (.lookup l) => l.failing.any (fun r => r.status == stCancelled)
  | .done _ => true
  | _ => false

/-- FAULT_NOTICE arrives: another engine met a fault for a task of this one (R337). A refresh goes on without the copy (R518). -/
def deliverFaultNotice (h : Header) (_ : Bytes) : Act Unit :=
  modify fun s =>
    match taskOf s (hTask h) with
    | none => s
    | some t =>
      if isCancelled t then s
      else
        let (r, s) := remoteRecord t h s
        let (seq, s) := reportFault r s
        match t.phase with
        | .running (.refresh _ _ _ _ _ _) => refreshAck (hSrc h) false (some seq) t.id s
        | _ => endTask t.id (resultOf stFault seq) (transferRefused t.id (hf h 36 2) s)

/-! ### Acknowledgements (R413) -/

/-- A message has been acknowledged, or delivered to this engine itself: what waited for it goes on. -/
def acked (dst : Nat) (h : Header) (s : State) : State :=
  let s := messageDone (hTask h) dst (hTyp h) (BitVec.ofNat 32 (hMsgId h)) s
  if hTyp h = 0x52 then dropAcked (hTask h) dst s else s

/-- Free one kept message. -/
def freeKept (src : Nat) (m : BitVec 32) (s : State) : State :=
  match s.fab.kept.find? (fun k => k.msgId == m && k.dst == src) with
  | none => s
  | some k => acked src k.header { s with fab := { s.fab with kept := s.fab.kept.filter (fun x => x.msgId != m) } }

/-- ACK arrives. -/
def deliverAck (h : Header) (_ : Bytes) : Act Unit :=
  modify fun s =>
    let ids := (List.range (min 6 (hf h 56 1))).map (fun k => BitVec.ofNat 32 (hf h (32 + 4 * k) 4))
    drainKept (hSrc h) (ids.foldl (fun s m => freeKept (hSrc h) m s) s)

/-- ACK_SEND: up to six messages of a sender are acknowledged; none while a write waits for a back-invalidate (R408). -/
def ackSend (dst : Nat) (s : State) : State :=
  let ids := ((s.fab.acksDue.filter (fun a => a.1 == dst)).map (·.2)).take 6
  if ids.isEmpty || s.rep.failed || writesHeld s then s
  else
    let left := ids.foldl (fun l m => eraseOne (fun a => a == (dst, m)) l) s.fab.acksDue
    sendLoose dst 0x03 (ids.zipIdx.map (fun x => (32 + 4 * x.2, 4, x.1.toNat)) ++ [(56, 1, ids.length)])
      { s with fab := { s.fab with acksDue := left } }

def execAckSend (dst : Eid) (s : State) : Host.Outcome State Fault Refusal := leaves s (ackSend dst.toNat s)

/-- A kept message's header as resent: RETRY set, nothing else changed but its version. -/
def retryHeader (ver : Nat) (h : Header) : Header :=
  sealHeader (patch (patch ((headerBytes h).take 60) 1 [BitVec.ofNat 8 ver]) 2 [BitVec.ofNat 8 (hf h 2 1 ||| 8)])

/-- Send a kept message again. -/
def resend (m : SentMsg) (ver : Nat) (s : State) : State :=
  let h := retryHeader ver m.header
  let s := setKept m.msgId (fun m => { m with header := h, tries := m.tries + 1, sentAt := tick s }) s
  transmit h m.payload { s with fab := { s.fab with retries := satAdd s.fab.retries 1 } }

/-! ### Loss of a peer (R418, R419) -/

/-- Engines with which this engine holds an open flow. -/
def openPeers (s : State) : List Nat :=
  (s.fab.kept.map (·.dst) ++
   (s.fab.txSeq.filter (fun f => (taskOf s f.1.2).isSome)).map (·.1.1) ++
   s.hold.lists.map (·.src) ++ s.hold.kept.map (·.req) ++ s.grad.buckets.map (·.src) ++ s.grad.remote.map (·.src)).eraseDups

/-- What a task that waits on a lost engine does (Table Fab-5). -/
def taskLost (eid : Nat) (s : State) (id : Nat) : State :=
  match taskOf s id with
  | none => s
  | some t =>
    let sentTo := s.fab.kept.any (fun m => m.dst == eid && hTask m.header == id)
    match t.phase with
    | .running (.lookup _) => lookupLost eid id s
    | .running (.scatter _) => scatterLost eid id s
    | .running (.update _) => updateLost eid id s
    | .running (.atomic _) => atomicLost eid id s
    | .running (.refresh _ _ _ _ _ _) => refreshLost eid id s
    | .running (.invalidate _) => dropLost eid id s
    | .running (.resolve _ _) => dropLost eid id s
    | .running (.memMigrate _) => moveLost eid id s
    | .running (.transfer r) =>
      if r.context.isSome && (streamGet s r.stream).any (fun x => (streamPeers s x).contains eid) then endTransfer id (rPeerLost eid) s else s
    | .running (.semSignal _) => if sentTo then finishTask id (rPeerLost eid) s else s
    | .running (.relaySet await _ _) => if await.contains eid then finishTask id (rPeerLost eid) (dropHops t (pf t.pkt 8 2) [] s) else s
    | .running (.migrate _ _ targets) => if migSrc t.pkt = eid then migEnd id (rPeerLost eid) (freeBlocks t targets s) else s
    | .running (.forwarded d) => if d = eid then finishTask id (rPeerLost eid) s else s
    | _ => s

/-- A holder that loses a requester lets go of all it holds for it (R419). -/
def requesterLost (eid : Nat) (s : State) : State :=
  let s := ((s.hold.lists.filter (fun l => l.src == eid)).map (·.task)).foldl (fun s task => forgetTask eid task s) s
  { s with
    hold := { s.hold with
      kept := s.hold.kept.filter (fun k => k.req != eid)
      cancels := s.hold.cancels.filter (fun c => c.src != eid) }
    grad := { s.grad with
      buckets := s.grad.buckets.filter (fun b => b.src != eid)
      remote := s.grad.remote.filter (fun r => r.src != eid) }
    host := { s.host with nearReqs := s.host.nearReqs.filter (fun q => !(q.origin.any (fun o => o.1 == eid))) } }

/-- Mark one engine lost, with its record. What code the record gives the event, the spec does not say. -/
def markLost (inj : Bool) (s : State) (eid : Nat) : State :=
  let (d, s) := draw s
  logErr { det := 0x12, sev := 2, phys := eid, eid := eid, action := 7, detail := [Config.freeByte d], injected := inj }
    { s with fab := { s.fab with lost := s.fab.lost ++ [eid] } }

/-- What was for an engine marked lost ends: tasks that wait for it, what is held for it, and what is kept for it. -/
def endLost (s : State) (eid : Nat) : State :=
  let s := (s.cmd.tasks.map (·.id)).foldl (taskLost eid) s
  let s := requesterLost eid s
  { s with fab := { s.fab with
      kept := s.fab.kept.filter (fun m => m.dst != eid)
      credits := s.fab.credits.filter (fun c => c.peer != eid)
      grants := s.fab.grants.filter (fun c => c.peer != eid)
      early := s.fab.early.filter (fun m => hSrc m.1 != eid)
      stalled := s.fab.stalled.filter (fun m => hSrc m.2.1 != eid)
      acksDue := s.fab.acksDue.filter (fun a => a.1 != eid) } }

/-- Declare engines lost: mark them, tell every engine with an open flow and every engine of the module, and end what was for them
(R418). -/
def declareLost (eids : List Nat) (name scope : Nat) (inj : Bool) (s : State) : State :=
  let new := eids.filter (fun e => !isLost s e && e != (ownEid s).toNat)
  if new.isEmpty then s
  else
    let told := (openPeers s ++ moduleOthers s).eraseDups
    let s := new.foldl (markLost inj) s
    let s := (told.filter (fun e => !isLost s e && e != (ownEid s).toNat)).foldl
      (fun s e => sendMsg e 0x07 0 0 [(32, 2, name), (34, 1, scope)] [] s) s
    new.foldl endLost s

/-- The engines of a module. -/
def moduleEids (e : Nat) : List Nat := (List.range 16).map (eidOf (eidModule e))

/-- PEER_DOWN arrives. -/
def deliverPeerDown (h : Header) (_ : Bytes) : Act Unit :=
  modify fun s =>
    let e := hf h 32 2
    declareLost (if hf h 34 1 = 1 then moduleEids e else [e]) e (hf h 34 1) false s

/-- D2D_DIE_LOST: a die of the module is gone. Which other engine then is the agent or the collector follows from the slots alone
(log entry 21). -/
def d2dDieLost (slot : Nat) (s : State) : State :=
  if slot = ownSlot s || s.boot.inReset then s
  else
    let live := s.fab.liveSlots.filter (· != slot)
    let s := { s with fab := { s.fab with
      liveSlots := live
      otherAgent := if s.fab.otherAgent = some slot then live.head? else s.fab.otherAgent
      otherCollector := if s.fab.otherCollector = some slot then none else s.fab.otherCollector } }
    let e := eidOf (ownModule s) slot
    declareLost [e] e 0 false s

def execD2dDieLost (slot : Nat) (s : State) : Host.Outcome State Fault Refusal := leaves s (d2dDieLost slot s)

/-- MESSAGE_RESEND: a kept message's wait has ended; after its eighth sending its receiver is lost. -/
def messageResend (m : BitVec 32) (s : State) : State :=
  match s.fab.kept.find? (fun k => k.msgId == m) with
  | none => s
  | some k =>
    if k.tries = 0 || s.rep.failed then s
    else if k.tries < 8 then resend k (hVer k.header) s
    else if hTyp k.header = 0x30 && ((taskOf s (hTask k.header)).bind transferRunOf).any (·.refused) then
      giveUpTile (hTask k.header) m { s with fab := { s.fab with kept := s.fab.kept.filter (fun k => k.msgId != m) } }
    else declareLost [k.dst] k.dst 0 false s

def execMessageResend (msgId : BitVec 32) (s : State) : Host.Outcome State Fault Refusal := leaves s (messageResend msgId s)

/-! ### NACK and versions (R416, R417) -/

def maxPeers : Nat := 4096

/-- Remember the version settled with a peer. -/
def settleVersion (peer ver : Nat) (s : State) : State :=
  { s with fab := { s.fab with
    peerVer := ((peer, BitVec.ofNat 8 ver) :: s.fab.peerVer.filter (fun p => p.1 != peer)).take maxPeers } }

def unkeep (m : BitVec 32) (s : State) : State := { s with fab := { s.fab with kept := s.fab.kept.filter (fun k => k.msgId != m) } }

/-- Whether a kept message asks a QFM 1.0 peer for what that version lacks. -/
def needsTwo (m : SentMsg) : Bool :=
  hTyp m.header == 0x31 || hTyp m.header == 0x33 || hTyp m.header == 0x35 ||
  (hTyp m.header == 0x34 && leField m.payload 0 1 == 0x15)

/-- A task that needs what its peer's version lacks ends (R417); one copy of a refresh counts as refused. -/
def oldVersion (m : SentMsg) (s : State) : State :=
  let id := hTask m.header
  let s := unkeep m.msgId s
  match taskOf s id with
  | none => s
  | some t => match t.phase with
    | .running (.relaySet _ _ _) =>
      let n := pf t.pkt 8 2
      finishTask id (rBadParam 6 12) { dropHops t n [] s with strm := { s.strm with chains := smapDel s.strm.chains n } }
    | .running (.forwarded _) => finishTask id (rBadParam 6 24) s
    | .running (.migrate _ _ _) => migEnd id (rBadParam 6 26) s
    | .running (.refresh _ _ _ _ _ _) => refreshAck m.dst false none id s
    | .running (.transfer _) => endTransfer id (rBadParam 6 6) s
    | .running (.lookup _) => stopLookup id (rBadParam 6 36) s
    | _ => s

/-- NACK arrives. -/
def deliverNack (h : Header) (_ : Bytes) : Act Unit :=
  modify fun s =>
    match s.fab.kept.find? (fun k => k.msgId == BitVec.ofNat 32 (hf h 32 4) && k.dst == hSrc h) with
    | none => s
    | some m =>
      match hf h 36 1 with
      | 3 =>
        let v := hf h 37 1
        let s := settleVersion (hSrc h) v s
        if v = 0x10 && needsTwo m then oldVersion m s
        else if m.tries < 8 then resend m v s else s
      | 4 => s
      | _ => if m.tries < 8 then resend m (hVer m.header) s else s

/-! ### Credit (R411) -/

/-- CREDIT_REQ arrives. -/
def deliverCreditReq (h : Header) (_ : Bytes) : Act Unit :=
  modify fun s =>
    let relay := hf h 32 1 == 1
    let k := hf h 34 2
    let s := if s.fab.grants.any (fun c => c.peer == hSrc h && c.relay == relay) then s
             else { s with fab := { s.fab with grants := s.fab.grants ++ [⟨hSrc h, relay, 0, 0, 0, 0⟩] } }
    grantAll (setGrant (hSrc h) relay (fun c => { c with wanted := c.wanted + k }) s)

/-- CREDIT_GRANT arrives: what waited for credit leaves. -/
def deliverCreditGrant (h : Header) (_ : Bytes) : Act Unit :=
  modify fun s =>
    let relay := hf h 32 1 == 1
    let k := hf h 34 2
    let r := hf h 36 4
    let s := if s.fab.credits.any (fun c => c.peer == hSrc h && c.relay == relay) then s
             else { s with fab := { s.fab with credits := s.fab.credits ++ [⟨hSrc h, relay, 0, 0, 0, 0⟩] } }
    let f : Credit → Credit := fun c =>
      if c.peer = hSrc h ∧ c.relay = relay then { c with granted := c.granted + k, returned := r } else c
    drainKept (hSrc h) { s with fab := { s.fab with credits := s.fab.credits.map f } }

/-- CREDIT_LAPSE: what of a grant was not used for 1 ms counts as returned; where messages still wait for credit it is asked for
again. -/
def creditLapse (peer : Nat) (relay grantor : Bool) (s : State) : State :=
  if grantor then
    grantAll (setGrant peer relay (fun c => { c with used := c.granted, returned := c.returned + (c.granted - c.used) }) s)
  else
    let k := creditFree s peer relay
    let f : Credit → Credit := fun c => if c.peer = peer ∧ c.relay = relay then { c with used := c.granted } else c
    let s := { s with fab := { s.fab with credits := s.fab.credits.map f } }
    if k = 0 || !s.fab.kept.any (fun m => m.dst == peer && m.tries == 0 && hCls m.header == 3 && relayType (hTyp m.header) == relay) then s
    else askCredit peer relay k s

def execCreditLapse (peer : Eid) (relay grantor : Bool) (s : State) : Host.Outcome State Fault Refusal :=
  leaves s (creditLapse peer.toNat relay grantor s)

/-! ### Lifetimes and revival -/

/-- A message that was not written is forgotten with its number. -/
def forgetUnwritten (src : Nat) (m : BitVec 32) (s : State) : State :=
  { s with fab := { s.fab with unwritten := s.fab.unwritten.filter (· != (src, m)) } }

/-- MSG_ID_EXPIRE: a remembered number or a discard record is forgotten. -/
def msgIdExpire (e : Expiry) (s : State) : State :=
  match e with
  | .seen src m =>
    forgetUnwritten src.toNat m { s with fab := { s.fab with seen := s.fab.seen.filter (fun x => !(x.1 == src.toNat && x.2.1 == m)) } }
  | .discard src task tag =>
    let others : List (Nat × BitVec 32 × BitVec 32) → List (Nat × BitVec 32 × BitVec 32) := fun l => l.filter (· != (src.toNat, task, tag))
    { s with fab := { s.fab with discards := others s.fab.discards, migEnded := others s.fab.migEnded } }

def execMsgIdExpire (e : Expiry) (s : State) : Host.Outcome State Fault Refusal := leaves s (msgIdExpire e s)

/-- FAB_REVIVE: a write of SOL_FAB_REVIVE clears lost marks. -/
def fabRevive (value : Word) (s : State) : State :=
  { s with fab := { s.fab with lost := if value.getLsbD 16 then [] else s.fab.lost.filter (· != bitsNat value 0 16) } }

def execFabRevive (value : Word) (s : State) : Host.Outcome State Fault Refusal := leaves s (guardWrite 0x198 (fabRevive value) s)

end Sys2Proof.Machine
end

