-- ==== Sys2Proof/Machine/Repair.lean ====
section
/-! DEFINITION. BERM_CONFIG (R252 to R254), the tests in service (R277, R278, R461, R462), failures (R105, R468, R469), REPAIR_CTL
(R478, R479), injections (R480 to R483), and SELFTEST (R494 to R496). -/

namespace Sys2Proof.Machine

/-- No task accepted before a task is left. -/
def earlierGone (s : State) (id : Nat) : Bool := !s.cmd.tasks.any (fun u => u.origin.isNone && decide (u.id < id))

/-- The task that runs a work of a kind. -/
def runningWork (s : State) (p : Work → Bool) : Option Task :=
  s.cmd.tasks.find? (fun t => match t.phase with | .running w => p w | _ => false)

/-! ### BERM_CONFIG (R252 to R254) -/

def bermConfigStep4 (_ : Byte) (p : Packet) : Checks :=
  [bad (pf p 8 1 < 4 || 16 < pf p 8 1) 3 8, bad (pf p 8 1 < pf p 9 1) 3 9]

/-- Whether an armed stream's side in the scratchpad reaches an offset. -/
def streamReaches (top : Nat) (x : Stream) : Bool :=
  (sSrcScratch x.desc && decide ((top : Int) ≤ (srcFoot x.desc x.outer x.src).2)) ||
  (sDstScratch x.desc && !sDstRemote x.desc && decide ((top : Int) ≤ (dstFoot x.desc x.outer x.dst).2))

/-- Whether this engine's entry of a relay chain has its base in the scratchpad at or beyond an offset: it counts as an armed stream
(R304). -/
def hopReaches (s : State) (top : Nat) (h : Hop) : Bool :=
  (ownEntry s h).any (fun e => hopScratch e.2 && decide (top ≤ hopBase e.2))

def bermConfigCheck (t : Task) : Act Unit := do
  let s ← get
  let share := pf t.pkt 9 1
  need [bad (share * 16 < bitsNat s.regs.spillCtl 16 8) 3 9,
        bad (s.strm.streams.any (fun e => streamReaches (share * 2 ^ 24) e.2) || s.strm.hops.any (hopReaches s (share * 2 ^ 24))) 6 9]

/-- The resize of R254, steps 3 to 5. -/
def bermResize (t : Task) (s : State) : State :=
  let size := pf t.pkt 8 1
  let share := pf t.pkt 9 1
  let old := s.berm.share
  let s := fetchDrop (fun _ _ => true) (bermForget (.task t.id) (fun _ => true) s)
  let s := { s with berm := { s.berm with size := size, share := share, threshold := BitVec.ofNat 32 (pf t.pkt 12 4), test := none } }
  let s := if share < old then dropScratch (share * 2 ^ 24) (old * 2 ^ 24) false s
           else dropScratch (old * 2 ^ 24) (share * 2 ^ 24) true s
  finishOk t.id 0 s

/-- BERM_CONFIG_APPLY: the apply point is reached once every task accepted before has completed. -/
def bermConfigApply (s : State) : State :=
  match runningWork s (fun w => match w with | .bermConfig => true | _ => false) with
  | some t => if earlierGone s t.id then bermResize t s else s
  | none => s

def execBermConfigApply (s : State) : Host.Outcome State Fault Refusal := leaves s (bermConfigApply s)

def startBermConfig (t : Task) (s : State) : State :=
  if pf t.pkt 8 1 = s.berm.size ∧ pf t.pkt 9 1 = s.berm.share then
    finishOk t.id 0 { s with berm := { s.berm with threshold := BitVec.ofNat 32 (pf t.pkt 12 4) } }
  else setWork t.id .bermConfig s

/-- A BERM_CONFIG that changes neither size nor share, whole. -/
def bermConfigWhole (t : Task) : Act Unit := do
  bermConfigCheck t
  modify (startBermConfig t)

/-- BERM_CONFIG begins: one that resizes waits for its apply point, any other applies at its acceptance (R254). -/
def beginBermConfig (id : Nat) (s : State) : State :=
  if (taskOf s id).any (fun t => pf t.pkt 8 1 == s.berm.size && pf t.pkt 9 1 == s.berm.share) then beginNow bermConfigWhole id s
  else beginTask bermConfigCheck startBermConfig id s

def execBermConfig (ring : Nat) (p : Packet) (s : State) : Host.Outcome State Fault Refusal :=
  leaves s (acceptPacket 0x60 bermConfigStep4 beginBermConfig ring p s)

/-! ### What repairs are in service (R459, R460, R477) -/

/-- Every repair, by fuse or soft. -/
def repairs (s : State) : List SoftRepair := s.fuses.factory ++ s.fuses.field ++ s.rep.soft

def laneUnit (phys lane : Nat) : Nat := 17 * phys + lane
def llsUnit (bank k : Nat) : Nat := 113 * bank + k
def csramUnit (phys k : Nat) : Nat := 0x400 + 16 * phys + k

/-- The repair of a level among units of a range. -/
def repairIn (l : List SoftRepair) (level lo n : Nat) : Option SoftRepair :=
  l.find? (fun r => r.level == level && decide (lo ≤ r.unit) && decide (r.unit < lo + n))

/-- What a list of repairs puts in service: a spare takes its polder's, lane's or macro's number. -/
def fitRepairs (l : List SoftRepair) (r : RepairState) : RepairState :=
  { r with
    polderMap := (List.range 8).map (fun p => if (repairIn l 4 p 1).isSome then 8 else p)
    laneOut := (List.range 9).map (fun q => (repairIn l 3 (laneUnit q 0) 17).map (fun x => x.unit % 17))
    llsSpare := (List.range 8).foldl (fun (v : BitVec 8) b => if (repairIn l 2 (llsUnit b 0) 112).isSome then v ||| (1#8 <<< b) else v) 0
    csramSpare := (List.range 9).foldl (fun (v : BitVec 9) q => if (repairIn l 2 (csramUnit q 0) 8).isSome then v ||| (1#9 <<< q) else v) 0 }

def refit (s : State) : State := { s with rep := fitRepairs (repairs s) s.rep }

/-- Make a soft repair. -/
def addSoft (level unit : Nat) (arg : BitVec 32) (s : State) : State :=
  refit { s with rep := { s.rep with soft := s.rep.soft ++ [⟨level, unit, arg⟩] } }

/-- Whether the spare is free: a lane's in its polder, a macro's in its bank or polder, the polder's. -/
def laneFree (s : State) (phys : Nat) : Bool := (repairIn (repairs s) 3 (laneUnit phys 0) 17).isNone
def llsFree (s : State) (bank : Nat) : Bool := (repairIn (repairs s) 2 (llsUnit bank 0) 113).isNone
def csramFree (s : State) (phys : Nat) : Bool := (repairIn (repairs s) 2 (csramUnit phys 0) 9).isNone
def polderFree (s : State) : Bool := (repairIn (repairs s) 4 0 9).isNone

def physOf (s : State) (p : Nat) : Nat := (s.rep.polderMap[p]?).getD p

/-- The logical polder that a physical one serves. -/
def logicalOf (s : State) (q : Nat) : Option Nat := (List.range 8).find? (fun p => physOf s p == q)

def withdrawOne (s : State) : State := { s with rep := { s.rep with withdrawn := satAdd s.rep.withdrawn 1 } }

/-! ### A failed engine (R469) -/

/-- Every task that has not ended ends. -/
def endAll (r : Result) (s : State) : State := (s.cmd.tasks.map (·.id)).foldl (fun s id => endTask id r s) s

/-- The engine fails: record index, state. -/
def engineFail (det phys : Nat) (s : State) : BitVec 16 × State :=
  let idx := nextErrIdx s
  let s := logErr { det := det, sev := 3, level := 5, phys := phys, action := 8 } s
  let s := endAll (rHw det idx) s
  (idx, { s with rep := { s.rep with failed := true, busy := none }, boot := { s.boot with phase := 7 } })

/-! ### A failed polder (R468)

Work stands on polders as the model places it (log entry 14): a window and its bags on the window's polder, a gradient on the
polder of its row's offset modulo 8, a stream's tile buffer on its number modulo 8. -/

def gradOn (p : Nat) (g : Grad) : Bool := g.slots.isEmpty && g.lost.isNone && g.off % 8 == p

/-- Tasks with work or state in a polder. -/
def polderTasks (s : State) (p : Nat) : List Nat :=
  (s.cmd.tasks.filter (fun t => match t.phase with
    | .running (.lookup l) => l.windows.any (fun w => w.polder == p) || l.bags.any (fun b => b.polder == p)
    | .running (.transfer r) => streamPolder r.stream == p
    | .running (.update _) => s.grad.grads.any (fun g => g.closed == some t.id && gradOn p g)
    | .running (.scatter _) =>
      s.grad.grads.any (fun g => gradOn p g && g.givers.contains ((ownEid s).toNat, BitVec.ofNat 32 t.id))
    | _ => false)).map (·.id)

/-- Steps 1 and 2: what stands in the polder ends or is discarded, and other tasks are marked. -/
def polderLoss (p det : Nat) (idx : BitVec 16) (s : State) : State :=
  let r := rHw det idx
  let ids := polderTasks s p
  let s := ids.foldl (fun s id => match (taskOf s id).bind transferRunOf with
    | some _ => closeTransfer id r s
    | none => endTask id r s) s
  let s := ((s.hold.lists.filter (fun l => l.polder == p)).map (·.key)).foldl (fun s k => listFail k r s) s
  let gone := s.grad.buckets.filter (fun b => s.grad.grads.any (fun g => gradOn p g && g.givers.contains (b.src, b.task)))
  let s := gone.foldl (fun s b => bucketFail b r s) s
  let s := { s with
    grad := { s.grad with grads := s.grad.grads.filter (fun g => !gradOn p g) } }
  let s := ((s.strm.streams.filter (fun e => streamPolder e.1 == p)).map (·.1)).foldl (fun s n => disarm n s) s
  degradeTasks det idx s

/-- A polder fails; with its spare already in service, or spent, the engine does. Which bytes list the versions in the continuation
record, the spec does not say. -/
def polderFail (p det : Nat) (s : State) : State :=
  let q := physOf s p
  if polderFree s then
    let idx := nextErrIdx s
    let lost := s.grad.grads.any (gradOn p)
    let ended := !(polderTasks s p).isEmpty || s.hold.lists.any (fun l => l.polder == p) || s.strm.streams.any (fun e => streamPolder e.1 == p)
    let (c, s) := if lost then freeBytes 60 s else ([], s)
    let s := logErr { det := det, sev := if lost || ended then 2 else 1, level := 4, phys := q, logical := p, action := 5,
                      conts := if lost then [c] else [] } s
    let s := addSoft 4 q 0 (polderLoss p det idx s)
    { s with rep := { s.rep with
      strikes := s.rep.strikes.filter (fun x => x.1 != p)
      laneTest := s.rep.laneTest.set p none
      csramTest := s.rep.csramTest.set p none } }
  else (engineFail det q s).2

/-- Four firings of detectors 0x03 and 0x05 in one polder within 1 s fail it. -/
def strikeOut (p det : Nat) (s : State) : State :=
  let s := { s with rep := { s.rep with strikes := s.rep.strikes.filter (fun x => decide (usSince s x.2 < 1000000)) } }
  if 4 ≤ (s.rep.strikes.filter (fun x => x.1 == p)).length then polderFail p det s else s

/-- SLUICE_POINTER_MISMATCH (R105). -/
def sluiceMismatch (p : Nat) (s : State) : State :=
  if s.boot.inReset || s.rep.failed || 8 ≤ p then s
  else
    let ids := sluiceTasks s p
    let (idx, s) := sluiceReset p ids.head? false s
    strikeOut p 0x03 (ids.foldl (fun s id => stopLookup id (rHw 0x03 idx) s) s)

def execSluicePointerMismatch (polder : Nat) (s : State) : Host.Outcome State Fault Refusal := leaves s (sluiceMismatch polder s)

/-! ### Lane tests (R461) -/

/-- Retire a lane of a physical polder, or fail the polder that it serves. -/
def laneFails (q lane : Nat) (s : State) : State :=
  let p := logicalOf s q
  let logical := match p with | some p => if lane < 16 then 16 * p + lane else 0xFFFF | none => 0xFFFF
  if laneFree s q then
    let idx := nextErrIdx s
    let s := logErr { det := 0x04, sev := 1, level := 3, phys := laneUnit q lane, logical := logical, action := 4 } s
    addSoft 3 (laneUnit q lane) 0 (degradeTasks 0x04 idx s)
  else match p with
    | some p => polderFail p 0x04 s
    | none => addSoft 4 q 0 (logErr { det := 0x04, sev := 1, level := 4, phys := q, action := 6 } s)

/-- LANE_TEST: a polder tests its next lane, the spare serving meanwhile. -/
def laneTest (p : Nat) (s : State) : State :=
  let q := physOf s p
  if s.boot.inReset || s.rep.failed || 8 ≤ p || !laneFree s q || ((s.rep.laneTest[p]?).getD none).isSome then s
  else
    let k := (s.rep.nextLane[p]?).getD 0
    { s with rep := { s.rep with
      laneTest := s.rep.laneTest.set p (some k)
      nextLane := s.rep.nextLane.set p ((k + 1) % 17) } }

def execLaneTest (polder : Nat) (s : State) : Host.Outcome State Fault Refusal := leaves s (laneTest polder s)

/-- LANE_TEST_END. An injected failure takes nothing out of service (R482). -/
def laneTestEnd (p : Nat) (pass : Bool) (s : State) : State :=
  match (s.rep.laneTest[p]?).getD none with
  | none => s
  | some k =>
    let q := physOf s p
    let s := { s with rep := { s.rep with laneTest := s.rep.laneTest.set p none } }
    let (inj, s) := injectAt 0x04 (laneUnit q k) s
    if inj then
      let idx := nextErrIdx s
      degradeTasks 0x04 idx (logErr { det := 0x04, sev := 1, level := 3, phys := laneUnit q k, logical := if k < 16 then 16 * p + k else 0xFFFF,
                                      action := 0x0A, injected := true } s)
    else if pass then s
    else laneFails q k s

def execLaneTestEnd (polder : Nat) (pass : Bool) (s : State) : Host.Outcome State Fault Refusal := leaves s (laneTestEnd polder pass s)

/-! ### Control-SRAM macro tests (R462) -/

/-- A spare row or column repairs a macro (level 1). Which one, the spec leaves to the test. -/
def rowRepair (det unit logical : Nat) (s : State) : State :=
  let idx := nextErrIdx s
  let s := logErr { det := det, sev := 0, level := 1, phys := unit, logical := logical, action := 2 } s
  let (d, s) := draw (degradeTasks det idx s)
  addSoft 1 unit ((Config.freeWord d).setWidth 32 &&& 0x8000FFFF) s

/-- The spare macro takes a macro's number (level 2). -/
def spareMacro (det unit logical : Nat) (s : State) : State :=
  let idx := nextErrIdx s
  let s := logErr { det := det, sev := 1, level := 2, phys := unit, logical := logical, action := 3 } s
  addSoft 2 unit 0 (degradeTasks det idx s)

/-- CSRAM_MACRO_TEST: the next data macro of a polder is copied into the polder's spare and tested. -/
def csramTest (p : Nat) (s : State) : State :=
  if s.boot.inReset || s.rep.failed || 8 ≤ p || !csramFree s (physOf s p) || ((s.rep.csramTest[p]?).getD none).isSome then s
  else
    let k := (s.rep.nextCsram[p]?).getD 0
    { s with rep := { s.rep with
      csramTest := s.rep.csramTest.set p (some k)
      nextCsram := s.rep.nextCsram.set p ((k + 1) % 8) } }

def execCsramMacroTest (polder : Nat) (s : State) : Host.Outcome State Fault Refusal := leaves s (csramTest polder s)

/-- CSRAM_MACRO_TEST_END. -/
def csramTestEnd (p : Nat) (outcome : TestOutcome) (s : State) : State :=
  match (s.rep.csramTest[p]?).getD none with
  | none => s
  | some k =>
    let q := physOf s p
    let u := csramUnit q k
    let s := { s with rep := { s.rep with csramTest := s.rep.csramTest.set p none } }
    let (inj, s) := injectAt 0x06 u s
    if inj then
      let idx := nextErrIdx s
      degradeTasks 0x06 idx (logErr { det := 0x06, sev := 1, level := 2, phys := u, logical := k, action := 0x0A, injected := true } s)
    else match outcome with
      | .pass => s
      | .rowRepair => rowRepair 0x06 u k s
      | .fail => if csramFree s q then spareMacro 0x06 u k s else polderFail p 0x06 s

def execCsramMacroTestEnd (polder : Nat) (outcome : TestOutcome) (s : State) : Host.Outcome State Fault Refusal :=
  leaves s (csramTestEnd polder outcome s)

/-! ### Berm macro tests (R277, R278)

Logical macro m of the berm is macro m / 8 of LLS bank m mod 8 (log entry 11). -/

def bermUnit (m : Nat) : Nat := llsUnit (m % 8) (m / 8)

/-- Sectors of a macro, with their sets. -/
def macroSectors (s : State) (m : Nat) : List (Nat × Sector) :=
  s.berm.sets.flatMap (fun e => (e.2.filter (fun x => macroOf s e.1 x.way == m)).map (fun x => (e.1, x)))

/-- Every sector of a macro becomes invalid, and what pending fills would install in it is not installed. -/
def drainMacro (m : Nat) (s : State) : State :=
  let l := macroSectors s m
  let hit : Sector → Bool := fun x => l.any (fun y => y.2.g == x.g && y.2.tid == x.tid && y.2.slot == x.slot)
  bermDrop .nobody hit (fetchDrop (fun f g => l.any (fun y => y.2.is f.tid (f.ver.toNat % 4) g)) s)

/-- BERM_MACRO_TEST. -/
def bermMacroTest (s : State) : State :=
  if s.boot.inReset || s.rep.failed || s.berm.test.isSome then s
  else
    let m := s.berm.nextMacro % bermMacros s
    let s := { s with berm := { s.berm with nextMacro := (m + 1) % bermMacros s } }
    if s.berm.withdrawn.contains m then s
    else if llsFree s (m % 8) then { s with berm := { s.berm with test := some ⟨m, true, []⟩ } }
    else if m < scratchMacros s then s
    else
      let keep := (macroSectors s m).filter (fun x => x.2.pin || x.2.hot)
      drainMacro m { s with berm := { s.berm with test := some ⟨m, false, keep⟩ } }

def execBermMacroTest (s : State) : Host.Outcome State Fault Refusal := leaves s (bermMacroTest s)

/-- A row of a version whose working copy reaches into a granule. -/
def granuleRow (tab : Table) (v g : Nat) : RowEnt :=
  let base := tab.wcAddr v 0 0
  let at_ := g * 256 - base
  let i := at_ / tab.wcStrideB
  let i := if base ≤ g * 256 ∧ i * tab.wcStrideB + tab.wcSizeB ≤ at_ then i + 1 else i
  ⟨i / 2 ^ tab.sb, i % 2 ^ tab.sb, 0, [], [], []⟩

/-- Refill a sector that was drained, with its marks and freq. One that has come back meanwhile keeps its own beside them. -/
def refillSector (s : State) (x : Nat × Sector) : State :=
  let (k, y) := x
  match tabGet s y.tid with
  | none => s
  | some tab =>
    match tab.versions.find? (fun v => v.ver.toNat % 4 == y.slot) with
    | none => s
    | some v =>
      match findSector s y.tid y.slot y.g with
      | some _ => mapSector y.tid y.slot y.g (fun z => { z with
          pin := z.pin || y.pin, hot := z.hot || y.hot, freq := satAdd z.freq y.freq.toNat, spec := z.spec && !y.pin }) s
      | none =>
        if (sectorsAt s k).any (fun z => z.way == y.way) then s
        else
          let s := setSectors k (sectorsAt s k ++ [{ y with valid := 0, data := 0, pending := true }]) s
          let f : Fetch := ⟨s.hold.nextFetch, none, y.tid, v.ver, granuleRow tab v.ver.toNat y.g, false, true, [], [y.g], []⟩
          { s with hold := { s.hold with fetches := s.hold.fetches ++ [f], nextFetch := s.hold.nextFetch + 1 } }

def refill (t : MacroTest) (s : State) : State := t.drained.foldl refillSector s

/-- A macro that holds cache sectors leaves service: its pins are dropped. -/
def withdrawMacro (m : Nat) (pins : Nat) (s : State) : State :=
  let idx := nextErrIdx s
  let s := logErr { det := 0x07, sev := 1, level := 2, phys := bermUnit m, logical := m, action := 6 } s
  let s := { s with berm := { s.berm with withdrawn := s.berm.withdrawn ++ [m], retired := satAdd s.berm.retired 1 } }
  let s := if pins = 0 then s else bermCount 7 pins .nobody s
  degradeTasks 0x07 idx (withdrawOne (drainMacro m s))

/-- A macro that holds scratchpad loses its content; the record names the offset range. -/
def loseScratch (m : Nat) (s : State) : State :=
  let lo := m * 2 ^ 19
  dropScratch lo (lo + 2 ^ 19) true
    (logErr { det := 0x07, sev := 2, level := 2, phys := bermUnit m, logical := m, address := lo, action := 0,
              detail := leBytes 8 (lo + 2 ^ 19) } s)

/-- BERM_MACRO_TEST_END. -/
def bermTestEnd (outcome : TestOutcome) (s : State) : State :=
  match s.berm.test with
  | none => s
  | some t =>
    let s := { s with berm := { s.berm with test := none } }
    let u := bermUnit t.unit
    let (inj, s) := injectAt 0x07 u s
    if inj then
      let idx := nextErrIdx s
      let s := logErr { det := 0x07, sev := 1, level := 2, phys := u, logical := t.unit, action := 0x0A, injected := true } s
      refill t (degradeTasks 0x07 idx s)
    else match outcome with
      | .pass => refill t s
      | .rowRepair => refill t (rowRepair 0x07 u t.unit s)
      | .fail =>
        if t.spare && llsFree s (t.unit % 8) then spareMacro 0x07 u t.unit s
        else if t.unit < scratchMacros s then loseScratch t.unit s
        else
          let pins := if t.spare then ((macroSectors s t.unit).filter (fun x => x.2.pin)).length
                      else (t.drained.filter (fun x => x.2.pin)).length
          withdrawMacro t.unit pins s

def execBermMacroTestEnd (outcome : TestOutcome) (s : State) : Host.Outcome State Fault Refusal := leaves s (bermTestEnd outcome s)

/-! ### REPAIR_CTL (R478, R479) -/

/-- Whether a unit lies in a level's numbering. -/
def unitOk (level u : Nat) : Bool :=
  let isMacro := decide (u < 904) || (decide (0x400 ≤ u) && decide ((u - 0x400) / 16 < 9) && decide (u % 16 < 9))
  if level ≤ 2 then isMacro else if level = 3 then decide (u < 153) else decide (u < 9)

def repairStep4 (_ : Byte) (p : Packet) : Checks :=
  let level := pf p 8 1
  [bad (level = 1 && pf p 14 1 != 0) 1 14, bad (level = 1 && pf p 15 1 % 128 != 0) 1 15] ++
  [bad (level = 0 || 4 < level) 3 8, bad (3 ≤ pf p 9 1) 2 9, bad (!unitOk level (pf p 10 2)) 3 10,
   bad (2 ≤ level && pf p 12 4 != 0) 1 12]

/-- Whether a repair is the one that a packet names. -/
def namesRepair (p : Packet) (r : SoftRepair) : Bool :=
  r.level == pf p 8 1 && r.unit == pf p 10 2 && (r.level != 1 || r.arg.toNat == pf p 12 4)

/-- Whether a spare of the level is free for a unit. How many spare rows and columns a macro has left, the spec does not say. -/
def spareLeft (level u : Nat) (s : State) : Bool × State :=
  match level with
  | 1 => let (d, s) := draw s; ((Config.freeByte d).getLsbD 0, s)
  | 2 => (if u < 0x400 then llsFree s (u / 113) else csramFree s ((u - 0x400) / 16), s)
  | 3 => (laneFree s (u / 17), s)
  | _ => (polderFree s, s)

def repairCheck (t : Task) : Act Unit := do
  let p := t.pkt
  let s ← get
  let soft := s.rep.soft.any (namesRepair p)
  if pf p 9 1 = 0 then
    let (free, s) := spareLeft (pf p 8 1) (pf p 10 2) s
    set s
    need [bad (!free) 6 10]
  else need [bad (!soft || (pf p 9 1 == 2 && decide (64 ≤ s.fuses.field.length))) 6 10]
  if s.rep.busy.isSome then stop (.fail (rBusy 8))

/-- A repair that software asks for has no record of a detector to name in the tasks it marks. -/
def degradeFree (s : State) : State :=
  let (d, s) := draw s
  let (e, s) := draw s
  degradeTasks (Config.freeByte d).toNat ((Config.freeWord e).setWidth 16) s

/-- What a macro's retirement costs where the spare does not hold its content (Table Repair-1). -/
def macroLost (u : Nat) (s : State) : State :=
  if u < 0x400 then
    let m := u % 113 * 8 + u / 113
    if u % 113 = 112 || bermMacros s ≤ m then s
    else if (match s.berm.test with | some t => t.unit == m && t.spare | none => false) then s
    else if m < scratchMacros s then dropScratch (m * 2 ^ 19) ((m + 1) * 2 ^ 19) true s
    else drainMacro m s
  else match logicalOf s ((u - 0x400) / 16) with
    | some p =>
      if u % 16 = 8 || (s.rep.csramTest[p]?).getD none = some (u % 16) then s
      else polderLoss p 0x06 (nextErrIdx s) s
    | none => s

/-- Take a named unit out of service, or back. A retirement is a repair in service: running tasks are marked (R467). -/
def repairNow (p : Packet) (s : State) : State :=
  let level := pf p 8 1
  let u := pf p 10 2
  if pf p 9 1 = 0 then degradeFree (addSoft level u (BitVec.ofNat 32 (pf p 12 4)) (if level = 2 then macroLost u s else s))
  else refit { s with rep := { s.rep with soft := s.rep.soft.filter (fun r => !namesRepair p r) } }

def startRepair (t : Task) (s : State) : State :=
  let p := t.pkt
  if pf p 9 1 = 2 then
    let r := s.rep.soft.filter (namesRepair p)
    finishOk t.id 0 { s with
      fuses := { s.fuses with field := s.fuses.field ++ r.take 1 }
      rep := { s.rep with soft := s.rep.soft.filter (fun r => !namesRepair p r) } }
  else if pf p 8 1 ≤ 2 then repairNow p (finishTask t.id (resultOf stOk 0) s)
  else setWork t.id .repair { s with rep := { s.rep with busy := some t.id } }

def execRepairCtl (ring : Nat) (p : Packet) (s : State) : Host.Outcome State Fault Refusal :=
  leaves s (acceptPacket 0x7D repairStep4 (beginTask repairCheck startRepair) ring p s)

/-- REPAIR_APPLY_POINT: the unit and its spare change places; a polder's content goes with it. -/
def repairApply (s : State) : State :=
  match runningWork s (fun w => match w with | .repair => true | _ => false) with
  | none => s
  | some t =>
    if earlierGone s t.id then
      repairNow t.pkt (finishTask t.id (resultOf stOk 0) { s with rep := { s.rep with busy := none } })
    else s

def execRepairApplyPoint (s : State) : Host.Outcome State Fault Refusal := leaves s (repairApply s)

/-! ### Injections (R480 to R483, Table Repair-2) -/

def isDetector (d : Nat) : Bool := decide (1 ≤ d) && decide (d ≤ 0x1E)
def gaugeDetector (d : Nat) : Bool := decide (0x1C ≤ d) && decide (d ≤ 0x1E)

/-- Whether Table Repair-2 allows a unit for a detector. -/
def injUnitOk (d u : Nat) : Bool :=
  match d with
  | 0x02 => decide (u < 16384)
  | 0x03 | 0x05 => decide (u < 9)
  | 0x04 => decide (u < 153)
  | 0x06 => decide (0x400 ≤ u) && decide ((u - 0x400) / 16 < 9) && decide (u % 16 < 9)
  | 0x07 => decide (u < 904)
  | 0x08 | 0x0D => decide (u < 140)
  | 0x09 => decide (u < 128)
  | 0x0A => decide (u < 5)
  | 0x10 => decide (u < 68) || u == 0xFFFF
  | 0x12 => decide (u < 65536)
  | 0x13 => decide (u < 4)
  | 0x17 => decide (u < 2)
  | _ => u == 0

/-- The checks of R480 after those of the packet: detector, mode, unit, count; `sealed` is the Gauge's seal. -/
def injChecks (d mode u count : Nat) (sealed disarm : Bool) : Checks :=
  if disarm then []
  else [bad (!isDetector d) 2 8, bad (gaugeDetector d && sealed) 6 8, bad (2 ≤ mode) 2 9, bad (!injUnitOk d u) 3 10,
        bad (mode == 0 && count != 0) 1 12, bad (mode == 1 && count == 0) 3 12]

/-- An injection becomes armed; detector 0x12 has no event, and acts at once. -/
def armNow (s : State) : State :=
  match s.rep.inj with
  | none => s
  | some i =>
    let s := { s with rep := { s.rep with inj := some { i with armed := true } } }
    if i.detector = 0x12 then
      let s := if i.every then s else { s with rep := { s.rep with inj := none } }
      declareLost [i.unit.toNat] i.unit.toNat 0 true s
    else s

/-- Arm an injection, or disarm the one held. The island logs an injection of its detectors (R451). -/
def armInjection (d mode u count : Nat) (at_ : Word) (s : State) : State :=
  let s := { s with regs := { s.regs with injCtl := BitVec.ofNat 64 (count * 2 ^ 32 + u * 2 ^ 16 + d * 2 ^ 8 + mode * 2) } }
  if d = 0 then { s with rep := { s.rep with inj := none } }
  else
    let i : Injection := ⟨BitVec.ofNat 8 d, mode == 1, BitVec.ofNat 16 u, BitVec.ofNat 32 count, at_, false, 0⟩
    let s := { s with rep := { s.rep with inj := some i } }
    let s := if gaugeDetector d then gaugeLog 0x0C d s else s
    if at_ = 0 || reached s at_ then armNow s else s

def injDisarms (p : Packet) : Bool := (List.range 16).all (fun k => pf p (8 + k) 1 == 0)

def diagInjectStep4 (_ : Byte) (p : Packet) : Checks :=
  let d := pf p 8 1
  injChecks d (pf p 9 1) (pf p 10 2) (pf p 12 4) false (injDisarms p)

def diagInjectCheck (t : Task) : Act Unit := do
  need [bad (gaugeDetector (pf t.pkt 8 1) && (← get).fuses.sealed) 6 8]

def startDiagInject (t : Task) (s : State) : State :=
  let p := t.pkt
  armInjection (pf p 8 1) (pf p 9 1) (pf p 10 2) (pf p 12 4) (BitVec.ofNat 64 (pf p 16 8)) (finishOk t.id 0 s)

/-- DIAG_INJECT: it takes effect at its acceptance (R481). -/
def diagInjectWhole (t : Task) : Act Unit := do
  diagInjectCheck t
  modify (startDiagInject t)

def execDiagInject (ring : Nat) (p : Packet) (s : State) : Host.Outcome State Fault Refusal :=
  leaves s (acceptPacket 0x7C diagInjectStep4 (beginNow diagInjectWhole) ring p s)

/-- INJECTION_ARM_TIME: FTIME reaches a pending injection's arm time. -/
def injectionArmTime (s : State) : State :=
  match s.rep.inj with
  | some i => if !i.armed && reached s i.armAt then armNow s else s
  | none => s

def execInjectionArmTime (s : State) : Host.Outcome State Fault Refusal := leaves s (injectionArmTime s)

/-- A write of SOL_INJ_CTL (R483). -/
def injCtlWrite (v : Word) (s : State) : State :=
  let d := bitsNat v 8 8
  let mode := bitsNat v 1 1
  let u := bitsNat v 16 16
  let count := bitsNat v 32 32
  let rest := d == 0 && mode == 0 && u == 0 && count == 0
  if !v.getLsbD 0 then { s with regs := { s.regs with injCtl := v &&& 0xFFFFFFFFFFFFFF02 } }
  else if (firstFail (injChecks d mode u count s.fuses.sealed rest)).isSome then misuse 0x1718 s
  else armInjection d mode u count 0 s

def execInjCtlWrite (value : Word) (s : State) : Host.Outcome State Fault Refusal :=
  leaves s (guardWrite 0x1718 (injCtlWrite value) s)

/-! ### SELFTEST (R494 to R496, Table Boot-5) -/

def selftestStep4 (_ : Byte) (p : Packet) : Checks :=
  [bad (64 ≤ pf p 8 1) 1 8, bad (pf p 8 1 = 0) 3 8, highAddr p 12, misaligned p 12 64]

def selftestCheck (t : Task) : Act Unit := do
  let s ← get
  need [bad (!s.grad.grads.isEmpty || !s.hold.kept.isEmpty || !s.hold.keptReq.isEmpty || !s.strm.streams.isEmpty || !s.strm.chains.isEmpty ||
          !s.strm.hops.isEmpty) 6 8,
        bad (2 ^ 52 < pf t.pkt 12 8 + 64) 3 12]
  translateNeeds t.ring t.pkt.tag.toNat (rangeNeeds (pf t.pkt 12 8) 64 true 8 0)
  if (← get).rep.busy.isSome then stop (.fail (rBusy 8))

def startSelftest (t : Task) (s : State) : State := setWork t.id .selftest { s with rep := { s.rep with busy := some t.id } }

def execSelftest (ring : Nat) (p : Packet) (s : State) : Host.Outcome State Fault Refusal :=
  leaves s (acceptPacket 0x7E selftestStep4 (beginTask selftestCheck startSelftest) ring p s)

/-- What test sets have found so far: units failed and repaired by set, the last repair, and the failure that failed the engine. -/
structure TestRun where
  failed : List (Nat × Nat)
  repaired : List (Nat × Nat)
  last : Option (Nat × BitVec 16)
  dead : Option (Nat × BitVec 16)
  st : State

def countOfSet (l : List (Nat × Nat)) (k : Nat) : Nat := ((l.find? (fun e => e.1 == k)).map (·.2)).getD 0

def bumpSet (l : List (Nat × Nat)) (k : Nat) : List (Nat × Nat) := (k, countOfSet l k + 1) :: l.filter (fun e => e.1 != k)

/-- A physical polder fails its test: the spare takes its number, or the engine fails. An idle spare that fails is spent. -/
def polderTestFails (q det : Nat) (r : TestRun) (set : Nat) : TestRun :=
  let s := r.st
  let idx := nextErrIdx s
  if !polderFree s && (logicalOf s q).isSome then
    let (idx, s) := engineFail det q s
    { r with dead := some (det, idx), st := s }
  else
    let s := match logicalOf s q with
      | some p => polderFail p det s
      | none => if polderFree s then addSoft 4 q 0 (logErr { det := det, sev := 1, level := 4, phys := q, action := 6 } s) else s
    { r with repaired := bumpSet r.repaired set, last := some (det, idx), st := s }

/-- One defect: it is repaired at its level, or handled at the level above (R459). -/
def foundDefect (r : TestRun) (f : Finding) : TestRun :=
  if r.dead.isSome then r
  else
    let r := { r with failed := bumpSet r.failed f.set }
    let s := r.st
    let idx := nextErrIdx s
    let fixed := fun (det : Nat) (s : State) => { r with repaired := bumpSet r.repaired f.set, last := some (det, idx), st := s }
    match f.set with
    | 0 =>
      let q := f.unit / 17
      if laneFree s q then fixed 0x04 (laneFails q (f.unit % 17) s) else polderTestFails q 0x04 r 0
    | 1 =>
      let q := (f.unit - 0x400) / 16
      if f.rowFits then fixed 0x06 (rowRepair 0x06 f.unit (f.unit % 16) s)
      else if csramFree s q then fixed 0x06 (spareMacro 0x06 f.unit (f.unit % 16) s)
      else polderTestFails q 0x06 r 1
    | 2 =>
      let m := f.unit % 113 * 8 + f.unit / 113
      if f.rowFits then fixed 0x07 (rowRepair 0x07 f.unit m s)
      else if llsFree s (f.unit / 113) then fixed 0x07 (spareMacro 0x07 f.unit m s)
      else if m < scratchMacros s then { r with st := loseScratch m s }
      else { r with st := withdrawMacro m 0 s }
    | 3 => polderTestFails f.unit 0x03 r 3
    | 4 => if f.unit < 9 then polderTestFails f.unit 0x04 r 4 else r
    | _ => if f.unit < 9 then polderTestFails f.unit 0x05 r 5 else r

/-- Run the sets of a mask: the berm set empties the berm and the scratchpad (R495). -/
def runSets (mask : Nat) (found : List Finding) (who : Who) (s : State) : TestRun :=
  let s := if mask / 4 % 2 = 1 then dropScratch 0 (scratchTop s) true (fetchDrop (fun _ _ => true) (bermForget who (fun _ => true) s)) else s
  let inMask : Finding → Bool := fun f => decide (f.set < 6) && mask / 2 ^ f.set % 2 == 1
  let ordered := (List.range 6).flatMap (fun k => found.filter (fun f => f.set == k && inMask f))
  ordered.foldl foundDefect ⟨[], [], none, none, s⟩

/-- Units that a set tests; how many structures set 5 counts, the spec does not say. -/
def setUnits (s : State) : Nat → Nat × State
  | 0 => (153, s)
  | 1 => (81, s)
  | 2 => (bermMacros s, s)
  | 3 => (9, s)
  | 4 => (9 + 128 + 4 * s.fuses.lpCount, s)
  | _ => let (d, s) := draw s; ((Config.freeWord d).toNat % 2 ^ 32, s)

/-- The result block. -/
def selftestBlock (mask : Nat) (r : TestRun) (s : State) : Bytes × State :=
  let (fs, s) := (List.range 6).foldl (fun (x : List (Nat × Nat × Nat) × State) k =>
    if mask / 2 ^ k % 2 = 0 then x
    else
      let (n, s) := setUnits x.2 k
      (x.1 ++ [(8 * k, 4, n), (8 * k + 4, 2, countOfSet r.failed k), (8 * k + 6, 2, countOfSet r.repaired k)], s)) ([], s)
  (withCrc (fields 60 fs), s)

/-- SELFTEST_RUN: earlier tasks have drained, and the sets run. -/
def selftestRun (found : List Finding) (s : State) : State :=
  match runningWork s (fun w => match w with | .selftest => true | _ => false) with
  | none => s
  | some t =>
    if !earlierGone s t.id then s
    else match (demand (pf t.pkt 12 8) true).go (some t.id) s with
    | (.error (.mig va w), _) => waitMig (some t.id) va w s
    | _ =>
      let mask := pf t.pkt 8 1
      let n := BitVec.ofNat 32 ((List.range 6).filter (fun k => mask / 2 ^ k % 2 == 1)).length
      let r := runSets mask found (.task t.id) { s with rep := { s.rep with busy := none } }
      match r.dead with
      | some _ => r.st
      | none =>
        let (b, s) := selftestBlock mask r r.st
        runTask t.id (do
          writeVa (pf t.pkt 12 8) b
          let res : Result := match r.last with
            | some (det, idx) => ⟨stDegraded, BitVec.ofNat 24 (det * 65536 + idx.toNat), 0, n⟩
            | none => ⟨stOk, 0, 0, n⟩
          modify (finishTask t.id res)) s

def execSelftestRun (found : List Finding) (s : State) : Host.Outcome State Fault Refusal := leaves s (selftestRun found s)

/-- BOOT_SELFTEST: every set runs once the clocks do, and the engine waits for firmware. -/
def bootSelftest (found : List Finding) (s : State) : State :=
  if s.boot.inReset || s.boot.phase != 2 then s
  else
    let r := runSets 63 found .nobody s
    let fail := (List.range 6).foldl (fun (v : BitVec 6) k => if countOfSet r.failed k = 0 then v else v ||| (1#6 <<< k)) 0
    let s := { r.st with boot := { r.st.boot with bootFail := fail } }
    if r.dead.isSome then s else { s with boot := { s.boot with phase := 3 } }

def execBootSelftest (found : List Finding) (s : State) : Host.Outcome State Fault Refusal := leaves s (bootSelftest found s)

end Sys2Proof.Machine
end

