-- ==== Sys2Proof/Machine/Watchdog.lean ====
section
/-! DEFINITION. The no-progress watchdog (R298 to R300). -/

namespace Sys2Proof.Machine

/-! ### Waiting tasks (R298) -/

/-- The semaphore of this engine that a waiting task waits for. -/
def waitsFor (s : State) (t : Task) : Option Nat :=
  match t.phase with
  | .running .semWait => some (pf t.pkt 8 2)
  | .running (.transfer r) =>
    if emptyWait s r then ((streamGet s r.stream).filter (fun x => !emptyAway x s)).map (·.empty.toNat) else none
  | _ => none

/-! ### Dependencies (R299) -/

inductive Dep where
  | task (id : Nat)
  | sem (n : Nat)
  | stream (n : Nat)
  deriving DecidableEq, Repr

/-- A SEM_SIGNAL of this engine's semaphore that is held. -/
def heldSignal (s : State) (n : Nat) (t : Task) : Bool :=
  t.phase == .held && t.op == 0x44 && pf t.pkt 8 2 == n && semOwner s t.pkt == (ownEid s).toNat

/-- A STREAM_REARM of a stream that is running or queued, behind ORDERED too. -/
def rearmOf (n : Nat) (t : Task) : Bool :=
  (transferRunOf t).any (fun r => r.stream == n) || (t.phase == .held && t.op == 0x41 && pf t.pkt 8 2 == n)

def depsOf (s : State) : Dep → List Dep
  | .task id => match taskOf s id with
    | none => []
    | some t =>
      (if isWaiting s t then ((waitsFor s t).map Dep.sem).toList else []) ++
      (match t.phase with
       | .held => (s.cmd.tasks.filter (fun u => u.ring == t.ring && u.origin.isNone && decide (u.id < t.id))).map (fun u => Dep.task u.id)
       | .running (.fence w _) => (w.filter (fun k => (taskOf s k).isSome)).map Dep.task
       | _ => [])
  | .sem n =>
    (s.strm.streams.filter (fun e => e.2.full != 0xFFFF && e.2.full.toNat == n && !sFullRemote e.2.desc)).map (fun e => Dep.stream e.1) ++
    (s.cmd.tasks.filter (heldSignal s n)).map (fun t => Dep.task t.id)
  | .stream n =>
    (s.cmd.tasks.filter (rearmOf n)).map (fun t => Dep.task t.id)

/-- What can be reached from a list of dependencies. -/
def reach (s : State) : Nat → List Dep → List Dep → List Dep
  | 0, _, seen => seen
  | fuel + 1, front, seen =>
    let next := (front.filter (fun d => !seen.contains d)).eraseDups
    if next.isEmpty then seen else reach s fuel (next.flatMap (depsOf s)) (seen ++ next)

def reachable (s : State) (d : Dep) : List Dep :=
  reach s (s.cmd.tasks.length * 2 + s.strm.streams.length * 2 + 4) (depsOf s d) []

/-- The tasks of the strongly connected set of a task, if it lies on a cycle. -/
def cycleOf (s : State) (id : Nat) : Option (List Task) :=
  let r := reachable s (.task id)
  if r.contains (.task id) then
    some (s.cmd.tasks.filter (fun t => r.contains (.task t.id) && (reachable s (.task t.id)).contains (.task id)))
  else none

/-! ### Firing -/

/-- An entry of the cycle list: ring, tag and semaphore. -/
def cycleEntry (s : State) (t : Task) : Bytes :=
  leBytes 2 t.ring ++ leBytes 4 t.pkt.tag.toNat ++ leBytes 2 ((waitsFor s t).getD 0xFFFF)

/-- Cut a list into pieces of seven. -/
def sevens {α : Type} : Nat → List α → List (List α)
  | 0, _ => []
  | n + 1, l => if l.isEmpty then [] else l.take 7 :: sevens n (l.drop 7)

/-- End a task with DEADLOCK_BREAK; the period starts again. -/
def breakWait (t : Task) (cycle : Option (List Task)) (inj : Bool) (s : State) : State :=
  let idx := nextErrIdx s
  let l := cycle.getD []
  let conts := (sevens 15 l).map (fun k => k.flatMap (cycleEntry s))
  let bits := (if 105 < l.length then 1 else 0) + (if cycle.isNone then 2 else 0)
  let s := logErr { det := 0x18, sev := 2, ring := t.ring, tag := t.pkt.tag.toNat, action := 7, detail := [BitVec.ofNat 8 bits],
                    injected := inj, conts := conts } s
  progress (endTask t.id (resultOf stDeadlock idx.toNat) s)

/-- WATCHDOG_FIRE: a period ends. The newest waiting task of the cycle found, or of the engine, ends. -/
def watchdogFire (s : State) : State :=
  let (inj, s) := injectAt 0x18 0 s
  let c := s.regs.wdogCtl
  let waiting := (s.cmd.tasks.filter (isWaiting s)).reverse
  if !c.getLsbD 16 || waiting.isEmpty then s
  else if usSince s s.strm.wdogSince < bitsNat c 0 16 * 1000 && !inj then s
  else
    match waiting.findSome? (fun t => (cycleOf s t.id).map (fun c => (t, c))) with
    | some (t, c) => breakWait t (some c) inj s
    | none => match waiting.head? with
      | some t => breakWait t none inj s
      | none => s

def execWatchdogFire (s : State) : Host.Outcome State Fault Refusal := leaves s (watchdogFire s)

end Sys2Proof.Machine
end

