-- ==== Sys2Proof/Machine/Commit.lean ====
section
/-! DEFINITION. Staged registers and commits (R61 to R64, R503, R504, R516), the control tables (R333), and the cross-checks that
each register's chapter states. -/

namespace Sys2Proof.Machine

/-! ### Staged registers (R503, Table Reg-1) -/

/-- The RWS bits of a staged register. -/
def stagedMask : Nat → Option Word
  | 0x140 => some 0x000FFFFFFFFF0000
  | 0x148 => some 0x0000FFFF00FF0000
  | 0x150 => some 0x000000000001FFFF
  | 0x160 => some 0x0000000000000F00
  | 0x178 => some 0x0000FFFF00FF0003
  | 0x180 => some 0x00FFFFFFFFFF0001
  | 0x188 => some 0x00FFFFFFFFFFF001
  | 0x1000 => some 0x000000001FC00FFF
  | 0x1018 => some 0x0000000000017FFF
  | 0x1108 => some 0x0000FFFF000100FF
  | 0x1200 => some 0x00000000FFFFFFFF
  | 0x1208 => some 0x0000FFFFFFFFFFFF
  | 0x1400 => some 0x000FFFFFFE000003
  | 0x1428 => some 0x0000000000000003
  | 0x1500 => some 0x00FFFFFFFFFFF001
  | 0x1510 => some 0x00FFFFFFFFFFF000
  | 0x1518 => some 0x00FFFFFFFFFFF000
  | 0x1520 => some 0x000FFFFFFFFE010F
  | 0x1548 => some 0x00FFFFFFFFFE0001
  | 0x1600 => some 0x00FFFFFFFFFF001F
  | _ => none

/-- The live value of a staged register's RWS fields. -/
def liveReg (r : Regs) : Nat → Word
  | 0x140 => r.spillBase
  | 0x148 => r.spillCtl
  | 0x150 => r.wdogCtl
  | 0x160 => r.memCtl
  | 0x178 => r.fabCtl
  | 0x180 => r.fabRoute
  | 0x188 => r.fabNbr
  | 0x1000 => r.clkCtl
  | 0x1018 => r.clkout
  | 0x1108 => r.ftimeCtl
  | 0x1200 => r.govCtl
  | 0x1208 => r.govGain
  | 0x1400 => r.hwinCtl
  | 0x1428 => r.cohCtl
  | 0x1500 => r.ptRoot
  | 0x1510 => r.ctRootA
  | 0x1518 => r.ctRootB
  | 0x1520 => r.fcQueue
  | 0x1548 => r.migPools
  | 0x1600 => r.errBase
  | _ => 0

def putReg (r : Regs) (v : Word) : Nat → Regs
  | 0x140 => { r with spillBase := v }
  | 0x148 => { r with spillCtl := v }
  | 0x150 => { r with wdogCtl := v }
  | 0x160 => { r with memCtl := v }
  | 0x178 => { r with fabCtl := v }
  | 0x180 => { r with fabRoute := v }
  | 0x188 => { r with fabNbr := v }
  | 0x1000 => { r with clkCtl := v }
  | 0x1018 => { r with clkout := v }
  | 0x1108 => { r with ftimeCtl := v }
  | 0x1200 => { r with govCtl := v }
  | 0x1208 => { r with govGain := v }
  | 0x1400 => { r with hwinCtl := v }
  | 0x1428 => { r with cohCtl := v }
  | 0x1500 => { r with ptRoot := v }
  | 0x1510 => { r with ctRootA := v }
  | 0x1518 => { r with ctRootB := v }
  | 0x1520 => { r with fcQueue := v }
  | 0x1548 => { r with migPools := v }
  | 0x1600 => { r with errBase := v }
  | _ => r

/-- One entry of a set in force. -/
def applyEntry (r : Regs) (e : Nat × Word) : Regs :=
  match stagedMask e.1 with
  | some m => putReg r ((liveReg r e.1 &&& ~~~m) ||| (e.2 &&& m)) e.1
  | none => r

/-- The values that a set would produce. -/
def applyEntries (r : Regs) (l : List (Nat × Word)) : Regs := l.foldl applyEntry r

/-! ### Staging (R61, R516) -/

/-- Stage one register: an entry held keeps its index. -/
def stageOne (l : List (Nat × Word)) (e : Nat × Word) : List (Nat × Word) :=
  if l.any (fun x => x.1 == e.1) then l.map (fun x => if x.1 = e.1 then e else x) else l ++ [e]

/-- Whether entries fit: an entry may always be replaced, and added only up to 256. -/
def stageFits (l es : List (Nat × Word)) : Bool :=
  let n := (es.foldl stageOne l).length
  n == l.length || decide (n ≤ 256)

def stageOffset (p : Packet) (k : Nat) : Nat := pf p (12 + 12 * k) 4
def stageEntries (p : Packet) : List (Nat × Word) :=
  (List.range (pf p 8 1)).map (fun k => (stageOffset p k, BitVec.ofNat 64 (pf p (16 + 12 * k) 8)))

def configStageStep4 (_ : Byte) (p : Packet) : Checks :=
  let n := pf p 8 1
  [bad (n = 0 || 4 < n) 3 8] ++
  ((List.range n).map (fun k => bad (2 ^ 20 ≤ stageOffset p k) 1 (if bitsNat p.params (8 * (6 + 12 * k) + 4) 4 = 0 then 15 + 12 * k else 14 + 12 * k))) ++
  ((List.range 48).map (fun k => bad (12 * n ≤ k && pf p (12 + k) 1 != 0) 1 (12 + k)))

def configStageWhole (t : Task) : Act Unit := do
  let es := stageEntries t.pkt
  let s ← get
  if !stageFits s.cmd.staged es then stop (.fail (rBusy 2))
  set (finishOk t.id es.length { s with cmd := { s.cmd with staged := es.foldl stageOne s.cmd.staged } })

def execConfigStage (ring : Nat) (p : Packet) (s : State) : Host.Outcome State Fault Refusal :=
  leaves s (acceptPacket 0x78 configStageStep4 (beginWhole configStageWhole) ring p s)

/-- SOL_STAGE_CTL.discard. -/
def stageDiscard (s : State) : State := { s with cmd := { s.cmd with staged := [] } }

def execStageDiscard (s : State) : Host.Outcome State Fault Refusal := leaves s (guardWrite 0x220 stageDiscard s)

/-- A write of a staged register (R503): its RW fields at once, its RWS bits into the set. -/
def stageWrite (off : Nat) (v : Word) (s : State) : State :=
  match stagedMask off with
  | none => s
  | some m =>
    if !stageFits s.cmd.staged [(off, v &&& m)] then misuse off s
    else
      let s := if off = 0x160 then bringOnline v s else s
      { s with cmd := { s.cmd with staged := stageOne s.cmd.staged (off, v &&& m) } }

def execStageWrite (offset : Nat) (value : Word) (s : State) : Host.Outcome State Fault Refusal :=
  leaves s (if (stagedMask offset).isSome then guardWrite offset (stageWrite offset value) s else s)

/-- HBM_ONLINE_WRITE: a write of SOL_MEM_CTL. -/
def execHbmOnlineWrite (value : Word) (s : State) : Host.Outcome State Fault Refusal :=
  leaves s (guardWrite 0x160 (stageWrite 0x160 value) s)

/-! ### The control tables (R333) -/

/-- Walk one copy; whatever fails, the walk does. -/
def walkCopy (root va : Nat) (write : Bool) : Act (Option Xlat) :=
  tryCatch (do
    if 2 ^ 52 ≤ va then return none
    match (← walkFrom va 3 root) with
    | .leaf x mig => return if mig || (write && !x.w) then none else some x
    | .bad _ _ _ _ _ => return none) fun _ => return none

/-- Translate through copy A, or copy B. -/
def ctXlat (va : Nat) (write : Bool) : Act (Option Xlat) := do
  let inj ← injectedAct 0x0F 0
  let a ← if inj then pure none else walkCopy (bitsNat (← get).regs.ctRootA 12 44 * 4096) va write
  match a with
  | some x => return some x
  | none =>
    match (← walkCopy (bitsNat (← get).regs.ctRootB 12 44 * 4096) va write) with
    | none => return none
    | some x =>
      modify fun s => { s with xl := { s.xl with ctMirror := true } }
      let _ ← logAct { det := 0x0F, sev := 1, address := va, injected := inj }
      return some x

/-- The translations of a range; none where a page of it has none. -/
def ctRange (write : Bool) : Nat → Nat → Nat → Act (Option (List Xlat))
  | 0, _, _ => return some []
  | fuel + 1, va, stop_ => do
    if stop_ ≤ va then return some []
    match (← ctXlat va write) with
    | none => return none
    | some x => match (← ctRange write fuel (x.va + x.len) stop_) with
      | none => return none
      | some l => return some (x :: l)

/-- The fault queue's translations. -/
def fcRange (s : State) : Act (Option (List Xlat)) :=
  if fcQlog2 s = 0 then return some []
  else ctRange true (2 ^ fcQlog2 s * 2 + 1) (fcBase s) (fcBase s + 2 ^ fcQlog2 s * 2 ^ 17)

/-! ### The spillway's HBM part (R145, R146) -/

def spillUnits (r : Regs) : Nat := bitsNat r.spillCtl 32 16
def spillVa (r : Regs) : Nat := bitsNat r.spillBase 16 36 * 65536

/-- The translations of a range of device virtual addresses. -/
def vaRange : Nat → Nat → Nat → Act (List Xlat)
  | 0, _, _ => return []
  | fuel + 1, va, stop_ => do
    if stop_ ≤ va then return []
    let x ← demand va false
    let l ← vaRange fuel (x.va + x.len) stop_
    return { x with locked := false } :: l

/-- The HBM part's translations; none where a page is not mapped. A page that MEM_MIGRATE is moving is not. -/
def spillRange (r : Regs) (s : State) : Option (List Xlat) × State :=
  let n := spillUnits r
  if n = 0 then (some [], s)
  else match (vaRange (n * 1024 + 1) (spillVa r) (spillVa r + n * 2 ^ 26)).go none s with
    | (.ok l, s) => (some l, s)
    | (.error _, s) => (none, s)

/-! ### Checks (R62) -/

/-- A value outside its register's RWS fields, or a reserved encoding. -/
def reservedStaged (e : Nat × Word) : Bool :=
  match stagedMask e.1 with
  | some m => (e.2 &&& ~~~m) != 0 || (e.1 == 0x1428 && e.2 == 3)
  | none => false

/-- Twice the crystal-mode frequency of a CLKOUT source in MHz (Table Clk-1). -/
def clkoutMhz2 (sel : Nat) : Nat := ([3400, 2720, 1700, 425, 100, 100])[sel]?.getD 0

/-- Whether a set changes the page-table root. -/
def rootMoves (r n : Regs) : Bool := r.ptRoot != n.ptRoot

/-- Whether a set changes where the fault queue lies. -/
def queueMoves (r n : Regs) : Bool := (r.fcQueue ^^^ n.fcQueue) &&& ~~~0x100#64 != 0

def spillChanges (r n : Regs) : Bool := r.spillBase != n.spillBase || r.spillCtl != n.spillCtl

/-- The state a set would produce, as far as translations go. -/
def withRegs (n : Regs) (s : State) : State :=
  let moves := rootMoves s.regs n
  let s := { s with regs := n }
  if moves then { s with xl := { s.xl with tlb := [] } } else s

/-- Whether the cross-checks of an entry's register fail, for the values `n` the set would produce. -/
def crossFails (n : Regs) (s : State) (off : Nat) : Bool :=
  let v := liveReg n off
  let hbmBad := spillUnits n != 0 && (spillVa n == 0 || decide (2 ^ 52 < spillVa n + spillUnits n * 2 ^ 26) ||
    (spillRange n (withRegs n s)).1.isNone)
  match off with
  | 0x140 => hbmBad
  | 0x148 => hbmBad || decide (16 * s.berm.share < bitsNat v 16 8)
  | 0x150 => bitsNat v 0 16 == 0 || decide (10000 < bitsNat v 0 16)
  | 0x160 => bitsNat v 8 4 == 0
  | 0x178 => decide (bitsNat v 16 8 < 6) || decide (100 < bitsNat v 16 8) || (v.getLsbD 0 && bitsNat v 32 16 == 0)
  | 0x1000 => bitsNat v 22 6 == 0 || decide (bitsNat v 0 12 < 100) || decide (4000 < bitsNat v 0 12)
  | 0x1018 => decide (6 ≤ bitsNat v 12 3) || decide (425 * (bitsNat v 0 12 + 1) < clkoutMhz2 (bitsNat v 12 3))
  | 0x1108 => bitsNat v 32 16 == 0 || decide (60000 < bitsNat v 32 16)
  | 0x1200 => (policyChecks (bitsNat v 0 8) (bitsNat v 8 8) (bitsNat v 16 16)).any (·.1) ||
      decide (ceilOf (bitsNat v 16 16) ≤ bitsNat n.govGain 32 16)
  | 0x1208 => decide (ceilOf (bitsNat n.govCtl 16 16) ≤ bitsNat v 32 16)
  | 0x1400 => decide (2 ^ 52 < bitsNat v 25 27 * 2 ^ 25 + 2 ^ 31)
  | 0x1520 =>
    let q := bitsNat v 0 4
    q == 1 || decide (9 ≤ q) || (q != 0 && bitsNat v 17 35 == 0) ||
    (queueMoves s.regs n && (match ((fcRange (withRegs n s)).go none (withRegs n s)).1 with | .ok (some _) => false | _ => true))
  | 0x1600 =>
    let e := bitsNat v 0 5
    (decide (1 ≤ e) && decide (e ≤ 5)) || decide (16 < e) || (e != 0 && bitsNat v 16 40 == 0)
  | _ => false

/-- The first entry that fails a test: its index. -/
def firstBad (l : List (Nat × Word)) (p : Nat × Word → Bool) : Option Nat := l.findIdx? p

/-- The checks of R62 on a captured set, from the second on: reason and index. -/
def setChecks (l : List (Nat × Word)) (s : State) : Option (Nat × Nat) :=
  match firstBad l (fun e => (stagedMask e.1).isNone) with
  | some i => some (4, i)
  | none => match firstBad l reservedStaged with
    | some i => some (3, i)
    | none => (firstBad l (fun e => crossFails (applyEntries s.regs l) s e.1)).map (fun i => (2, i))

/-- A captured set returns ahead of what was staged since; a value staged since stands. -/
def returnSet (l : List (Nat × Word)) (s : State) : State :=
  let since := s.cmd.staged
  let back := l.map (fun e => (since.find? (fun x => x.1 == e.1)).getD e)
  { s with cmd := { s.cmd with staged := back ++ since.filter (fun x => !l.any (fun e => e.1 == x.1)) } }

/-- A commit ends with BAD_CONFIG. Which entry a wrong count names, the spec does not say. -/
def commitBad (l : List (Nat × Word)) (reason : Nat) (idx : Option Nat) (s : State) : Result × State :=
  let (i, s) := match idx with
    | some i => (i, s)
    | none => let (d, s) := draw s; ((Config.freeWord d).toNat % 65536, s)
  let s := returnSet l s
  (rBadConfig reason i, { s with cmd := { s.cmd with
    pendCommit := none, lastReason := BitVec.ofNat 8 reason, lastIndex := BitVec.ofNat 16 i } })

/-- Capture the staged set and check it: a pending commit, or its failure. -/
def capture (task : Option Nat) (count : Nat) (s : State) : Option Result × State :=
  let l := s.cmd.staged
  let s := { s with cmd := { s.cmd with staged := [] } }
  if count != l.length then let (r, s) := commitBad l 1 none s; (some r, s)
  else match setChecks l s with
    | some (reason, i) => let (r, s) := commitBad l reason (some i) s; (some r, s)
    | none => (none, { s with cmd := { s.cmd with pendCommit := some ⟨l, task⟩ } })

/-! ### The commit point (R63) -/

/-- Whether a pending set may take effect now (R145, R522, spec/14 at Table Fab-6). -/
def commitReady (l : List (Nat × Word)) (s : State) : Bool :=
  let n := applyEntries s.regs l
  let r := s.regs
  let fabHeld := bitsNat r.fabCtl 32 16 != bitsNat n.fabCtl 32 16 || (r.fabCtl.getLsbD 0 && !n.fabCtl.getLsbD 0)
  (!spillChanges r n || (usedSlots s).isEmpty) &&
  (!fabHeld || (s.fab.kept.isEmpty && (openPeers s).isEmpty)) &&
  (!queueMoves r n || s.xl.waiting.isEmpty || s.xl.slotFail)

/-- Records that waited go to the ring that a commit sets or moves (R471). -/
def flushRecords (s : State) : State :=
  if errElog2 s = 0 || !siteUp s (errRingBase s) then s
  else
    let l := s.rep.buffer
    l.foldl (fun s x => placeRecord x.1 x.2 s) { s with rep := { s.rep with buffer := [] } }

/-- The fault queue moves: its translations, and the slots that batches no longer lie in. -/
def moveQueue (s : State) : Option State :=
  match (fcRange s).go none s with
  | (.ok (some l), s) =>
    some { s with xl := { s.xl with fcStore := l, written := s.xl.written.map (fun w => (w.1, none, w.2.2)), slotFail := false } }
  | _ => none

/-- The lines the host holds through this engine's window, if a set moves or closes it (R379). -/
def windowLines (r n : Regs) (s : State) : List Nat :=
  if r.hwinCtl = n.hwinCtl ||
    (bitsNat r.hwinCtl 25 27 == bitsNat n.hwinCtl 25 27 && (!r.hwinCtl.getLsbD 0 || n.hwinCtl.getLsbD 0) &&
     (!r.hwinCtl.getLsbD 1 || n.hwinCtl.getLsbD 1)) then []
  else (s.host.dir.filter (fun d => d.window == ownSlot s)).map (·.line)

/-- Put a set in force: the lines whose back-invalidates the commit waits for; none where a walk fails now. -/
def putSet (l : List (Nat × Word)) (s : State) : Option (List Nat × State) :=
  let r := s.regs
  let n := applyEntries r l
  let lines := windowLines r n s
  let s := if rootMoves r n then bumpGen (withRegs n s) else withRegs n s
  let s := if r.fabRoute = n.fabRoute then s else { s with fab := { s.fab with routes := [] } }
  let s := if r.ftimeCtl = n.ftimeCtl then s else setFtimeCtl n.ftimeCtl s
  let s := if r.errBase = n.errBase then s else flushRecords s
  let s := backInvalidateWhere (fun d => lines.contains d.line) s
  let spilled : Option State :=
    if !spillChanges r n then some s
    else match spillRange n s with
      | (some x, s) => some { s with xl := { s.xl with spillStore := x } }
      | (none, _) => none
  match spilled with
  | none => none
  | some s => if queueMoves r n then (moveQueue s).map (fun s => (lines, s)) else some (lines, s)

/-- Apply a captured set at its commit point. -/
def commitNow (c : PendCommit) (s : State) : State :=
  let fail := fun (i : Nat) =>
    let (r, s) := commitBad c.entries 2 (some i) s
    match c.task with
    | some id => finishTask id r s
    | none => { s with boot := { s.boot with commitResult := 2 } }
  match firstBad c.entries (fun e => crossFails (applyEntries s.regs c.entries) s e.1) with
  | some i => fail i
  | none => match putSet c.entries s with
    | none => fail 0
    | some (lines, s) =>
      let s := { s with cmd := { s.cmd with pendCommit := none } }
      match c.task with
      | some id => if lines.isEmpty then finishOk id c.entries.length s else setWork id (.configCommit lines c.entries.length) s
      | none => { s with boot := { s.boot with commitResult := 1 } }

/-- Whether a pending commit's task, if it has one, has started. -/
def commitStarted (c : PendCommit) (s : State) : Bool :=
  match c.task with
  | none => true
  | some id => (taskOf s id).any (fun t => match t.phase with | .running _ => true | _ => false)

/-- CONFIG_COMMIT_POINT. -/
def configCommitPoint (s : State) : State :=
  match s.cmd.pendCommit with
  | none => s
  | some c => if commitStarted c s && commitReady c.entries s then commitNow c s else s

def execConfigCommitPoint (s : State) : Host.Outcome State Fault Refusal := leaves s (configCommitPoint s)

/-! ### CONFIG_COMMIT -/

def configCommitStep4 (_ : Byte) (p : Packet) : Checks := [bad (2 ≤ pf p 10 1) 2 10]

/-- The set is captured at acceptance, to be committed or, with action 0x01, to be discarded (R62, R64). -/
def configCommitCheck (t : Task) : Act Unit := do
  if pf t.pkt 10 1 = 1 then
    modify fun s => stageDiscard (mapTask t.id (fun t => { t with captured := s.cmd.staged }) s)
  else
    let (r, s) := capture (some t.id) (pf t.pkt 8 2) (← get)
    set s
    match r with
    | some r => stop (.fail r)
    | none => return ()

def startConfigCommit (t : Task) (s : State) : State :=
  if pf t.pkt 10 1 = 1 then finishOk t.id t.captured.length s
  else setWork t.id (.configCommit [] 0) s

def execConfigCommit (ring : Nat) (p : Packet) (s : State) : Host.Outcome State Fault Refusal :=
  leaves s (acceptPacket 0x79 configCommitStep4 (beginTask configCommitCheck startConfigCommit) ring p s)

/-- CFG_COMMIT (R493): the staged set is committed before ring 0 runs. -/
def cfgCommit (s : State) : State :=
  if s.boot.phase != 5 || (ringGet s 0).st != .disabled || s.cmd.pendCommit.isSome then misuse 0x100 s
  else match capture none s.cmd.staged.length s with
    | (some _, s) => { s with boot := { s.boot with commitResult := 2 } }
    | (none, s) => configCommitPoint s

def execCfgCommit (s : State) : Host.Outcome State Fault Refusal :=
  leaves s (if s.boot.inReset then s else cfgCommit s)

end Sys2Proof.Machine
end

