-- ==== Sys2Proof/Machine/Boot.lean ====
section
/-! DEFINITION. Resets and firmware (R484 to R493), the control processor (R466), ring 0 and the RCT base (R506, R507), and the
event mask (R510). -/

namespace Sys2Proof.Machine

/-! ### Cold reset (R484, R486, Table Boot-2)

No reset writes device memory, and none touches the Gauge. What other dies of the module are is no state of the engine's own; the
traces of what has left the engine stay. -/

/-- The fabric endpoint after a reset. -/
def fabAfter (lost : List Nat) (s : State) : FabState :=
  { FabState.cold s.fuses.eid with
    lost := lost
    liveSlots := s.fab.liveSlots
    otherAgent := s.fab.otherAgent
    otherCollector := s.fab.otherCollector
    sent := s.fab.sent }

/-- Everything that a reset of either kind clears. -/
def clearWork (s : State) : State :=
  { s with
    cmd := { CmdState.cold with msix := s.cmd.msix }
    tab := TableState.cold
    hold := HolderState.cold
    grad := GradState.cold
    strm := { StreamState.cold with wdogSince := bits s.time.elapsed 32 64 }
    xl := XlateState.cold
    gov := GovState.cold }

/-- The state that cold reset leaves, and holds until it is released. -/
def coldState (s : State) : State :=
  let s := clearWork s
  refit { s with
    boot := { BootState.cold with inReset := true }
    regs := Regs.cold s.fuses.eid
    berm := BermState.cold
    mem := { MemState.cold with dev := s.mem.dev, host := s.mem.host, poison := s.mem.poison }
    host := { HostState.cold with readData := s.host.readData }
    fab := fabAfter [] s
    clk := ClkState.cold
    time := TimeState.cold
    rep := RepairState.cold }

def execColdReset (s : State) : Host.Outcome State Fault Refusal := leaves s (coldState s)

/-- RAIL_FAULT: VDD_CORE or VDD_SRAM out of tolerance is a cold reset. -/
def railFault (rail : Rail) (s : State) : State :=
  match rail with
  | .core => coldState s
  | .sram => coldState s
  | .aon => s
  | .io => s

def execRailFault (rail : Rail) (s : State) : Host.Outcome State Fault Refusal := leaves s (railFault rail s)

/-- COLD_RESET_RELEASE: start-up begins in phase 0x1; a settle value beyond 8 is taken as 8 and logged (R421). -/
def coldRelease (s : State) : State :=
  if s.boot.inReset then
    let s := { s with boot := { s.boot with inReset := false } }
    if 8 < s.fuses.xsettle then logErr { det := 0x15, sev := 0 } s else s
  else s

def execColdResetRelease (s : State) : Host.Outcome State Fault Refusal := leaves s (coldRelease s)

/-! ### Loading firmware (R490, Table Boot-4) -/

def onBoot (f : BootState → BootState) (s : State) : State := { s with boot := f s.boot }

/-- Where SOL_FW_SRC points. -/
def fwPlace (src : Word) : Place :=
  if src.getLsbD 63 then .host (bitsNat src 61 2) (bitsNat src 12 44 * 4096) else .dev (bitsNat src 12 44 * 4096)

/-- A read of the boot ROM; a host address beyond 52 bits reaches nothing. -/
def fwRead (p : Place) (n : Nat) (s : State) : Option Bytes × State :=
  match p with
  | .host _ a => if 2 ^ 52 < a + n then (none, s) else go p s
  | _ => go p s
where
  go (p : Place) (s : State) : Option Bytes × State :=
    match (readPlace p n).go none s with
    | (.ok b, s) => (some b, s)
    | (.error _, s) => (none, s)

/-- ASCII "SOLFWIMG". -/
def fwMagic : Bytes := [0x53, 0x4F, 0x4C, 0x46, 0x57, 0x49, 0x4D, 0x47]

def fwSlice (h : Bytes) (lo n : Nat) : Bytes := (h.drop lo).take n

/-- Whether a body length is one that an image may have. -/
def fwLenOk (n : Nat) : Bool := decide (4096 ≤ n) && decide (n ≤ 2 ^ 21) && n % 4096 == 0

/-- Check 2: magic, format, reserved bytes, length and entry. -/
def fwFormOk (h : Bytes) : Bool :=
  fwSlice h 0 8 == fwMagic && leField h 8 2 == 1 && (fwSlice h 120 72).all (· == 0) && fwLenOk (leField h 16 4) &&
  decide (leField h 20 4 < leField h 16 4)

/-- Check 3: the key slot and its fused hash. -/
def fwKeyOk (f : Fuses) (h : Bytes) : Bool :=
  let hash := beNat (sha256 (fwSlice h 56 64))
  match leField h 10 1 with
  | 0 => !f.revoked0 && hash == f.keyHash0.toNat
  | 1 => !f.revoked1 && hash == f.keyHash1.toNat
  | _ => false

/-- Check 4: the signature over header bytes 0 to 191. -/
def fwSigOk (h : Bytes) : Bool :=
  ecdsaVerify (beNat (fwSlice h 56 32)) (beNat (fwSlice h 88 32)) (beNat (fwSlice h 192 32)) (beNat (fwSlice h 224 32))
    (sha256 (fwSlice h 0 192))

/-- The result code of the checks behind the reads. -/
def fwJudge (f : Fuses) (h body : Bytes) : BitVec 4 :=
  if !fwFormOk h then 3
  else if !fwKeyOk f h then 4
  else if !fwSigOk h then 5
  else if leField h 11 1 < f.svnFloor then 6
  else if sha256 body != fwSlice h 24 32 then 7
  else 1

/-- Load from an address of SOL_FW_SRC; a failure leaves the engine waiting for firmware. -/
def fwLoadFrom (src : Word) (s : State) : State :=
  let p := fwPlace src
  let fail := fun (r : BitVec 4) => onBoot (fun b => { b with phase := 3, fwResult := r, fwVersion := 0, fwSvn := 0 })
  match fwRead p 256 s with
  | (none, s) => fail 2 s
  | (some h, s) =>
    let n := leField h 16 4
    if !fwLenOk n then fail 3 s
    else match fwRead (p.add 256) n s with
      | (none, s) => fail 2 s
      | (some body, s) =>
        let r := fwJudge s.fuses h body
        if r = 1 then
          onBoot (fun b => { b with
            phase := 5, fwResult := 1, fwVersion := BitVec.ofNat 32 (leField h 12 4), fwSvn := BitVec.ofNat 8 (leField h 11 1)
            image := body, digest := fwSlice h 24 32 }) s
        else fail r s

/-- FW_LOAD. -/
def fwLoad (s : State) : State :=
  if s.boot.inReset then s
  else if s.boot.phase != 3 then misuse 0x100 s
  else fwLoadFrom s.regs.fwSrc s

def execFwLoad (s : State) : Host.Outcome State Fault Refusal := leaves s (fwLoad s)

/-- Restart firmware (R491): from the retained image where it still hashes to its digest and no reload is asked for. -/
def fwRestart (src : Word) (reload : Bool) (s : State) : State :=
  if !reload && sha256 s.boot.image == s.boot.digest then onBoot (fun b => { b with phase := 5 }) s
  else fwLoadFrom src s

/-- SVN_COMMIT (R492): the floor rises to the running image's svn. -/
def svnCommit (s : State) : State :=
  if s.boot.inReset then s
  else if s.boot.phase = 7 then misuse 0x100 s
  else if writesLive s then { s with fuses := { s.fuses with svnFloor := max s.fuses.svnFloor (min 127 s.boot.fwSvn.toNat) } }
  else s

def execSvnCommit (s : State) : Host.Outcome State Fault Refusal := burnt s (svnCommit s)

/-! ### Engine reset (R487) -/

/-- PEER_DOWN of this engine to every engine with an open flow and every engine of the module. -/
def sayDown (s : State) : State :=
  let told := (openPeers s ++ moduleOthers s).eraseDups
  (told.filter (fun e => !isLost s e && e != (ownEid s).toNat)).foldl
    (fun s e => sendMsg e 0x07 0 0 [(32, 2, (ownEid s).toNat), (34, 1, 0)] [] s) s

/-- The state that an engine reset leaves, before firmware restarts. -/
def resetState (s : State) : State :=
  let r := s.regs
  let cold := Regs.cold s.fuses.eid
  let s := setFtimeCtl cold.ftimeCtl s
  let s := clearWork s
  { s with
    boot := { s.boot with fwResult := 0, commitResult := 0, bootFail := 0 }
    regs := { cold with clkCtl := r.clkCtl, clkout := r.clkout }
    berm := { BermState.cold with withdrawn := s.berm.withdrawn, retired := s.berm.retired }
    mem := { s.mem with scratch := [], undef := [], poisonCount := 0, pprBusy := false, pprResult := 0, pprSpares := 0 }
    host := { HostState.cold with links := s.host.links, readData := s.host.readData }
    fab := fabAfter s.fab.lost s
    rep := { RepairState.cold with
      polderMap := s.rep.polderMap
      laneOut := s.rep.laneOut
      llsSpare := s.rep.llsSpare
      csramSpare := s.rep.csramSpare
      withdrawn := s.rep.withdrawn
      soft := s.rep.soft } }

/-- ENG_RESET. Before phase 0x3 there is no firmware to restart, and start-up goes on. -/
def engReset (s : State) : State :=
  if s.boot.inReset then s
  else if s.boot.phase = 7 then misuse 0x100 s
  else
    let src := s.regs.fwSrc
    let s := resetState (sayDown s)
    if s.boot.phase = 1 || s.boot.phase = 2 then s
    else
      let s := fwRestart src (src.getLsbD 60) s
      if s.boot.phase = 5 then s else onBoot (fun b => { b with image := [], digest := [] }) s

def execEngReset (s : State) : Host.Outcome State Fault Refusal := leaves s (engReset s)

/-! ### The control processor (R466) -/

/-- Tasks of the firmware path that have not ended. -/
def fwTasks (s : State) : List Nat := (s.cmd.tasks.filter (fun t => !fastOp t.op && !t.isDone)).map (·.id)

/-- CP_HEARTBEAT_TIMEOUT. -/
def heartbeatTimeout (s : State) : State :=
  if s.boot.inReset || !writesLive s then s
  else
    let (inj, s) := injectAt 0x19 0 s
    let idx := nextErrIdx s
    let s := logErr { det := 0x19, sev := 2, action := 7, injected := inj } s
    let s := (fwTasks s).foldl (fun s id => endTask id (rHw 0x19 idx) s) s
    fwRestart s.regs.fwSrc false s

def execCpHeartbeatTimeout (s : State) : Host.Outcome State Fault Refusal := leaves s (heartbeatTimeout s)

/-! ### Ring 0 and the RCT base -/

/-- RCT_BASE_WRITE. -/
def rctBaseWrite (v : Word) (s : State) : State :=
  if s.cmd.rings.all (fun e => e.2.st == .disabled) then
    { s with regs := { s.regs with rctBase := v &&& 0x00FFFFFFFFF00000 } }
  else misuse 0x120 s

def execRctBaseWrite (value : Word) (s : State) : Host.Outcome State Fault Refusal := leaves s (guardWrite 0x120 (rctBaseWrite value) s)

/-- The ring that an enable builds from the SOL_RING0 registers; counts start at zero where a queue register was written. -/
def ring0Built (s : State) : Ring :=
  let r := ringGet s 0
  let b : Ring := if s.cmd.ring0Moved then { r with sqHead := 0, sqTail := 0, cqTail := 0, cqHead := 0 } else r
  { b with
    sqBase := BitVec.ofNat 64 (bitsNat s.regs.ring0Sq 12 40 * 4096)
    cqBase := BitVec.ofNat 64 (bitsNat s.regs.ring0Cq 12 40 * 4096)
    cqWb := 0
    depthLog2 := BitVec.ofNat 8 (bitsNat s.regs.ring0Sq 0 5)
    cls := 3
    prio := 0
    msix := bits s.regs.ring0Ctl 48 16
    irqCoalesce := bits s.regs.ring0Ctl 32 16
    rateFloor := 0
    st := .enabled
    sinceIrq := 0
    drainTask := none
    drainReset := false
    discard := false }

/-- SOL_RING0_CTL.enable written 1. -/
def ring0On (s : State) : State :=
  let b := ring0Built s
  if (ringGet s 0).st != .disabled then s
  else if rctBase s = 0 then misuse 0x138 s
  else
    let walk : Act (Option (List Xlat)) := do
      match (← ctRange false (2 ^ 11) b.sqBase.toNat (b.sqBase.toNat + 64 * ringDepth b)) with
      | none => return none
      | some sq => match (← ctRange true (2 ^ 11) b.cqBase.toNat (b.cqBase.toNat + 32 * ringDepth b)) with
        | none => return none
        | some cq => return some (sq ++ cq)
    match walk.go none s with
    | (.ok (some l), s) =>
      ringSet 0 b { s with xl := { s.xl with ring0Store := l }, cmd := { s.cmd with ring0Moved := false } }
    | (_, s) => logErr { det := 0x0F, sev := 2, address := b.sqBase.toNat } s

def execRing0Enable (s : State) : Host.Outcome State Fault Refusal := leaves s (guardWrite 0x138 ring0On s)

/-- SOL_RING0_CTL.enable written 0. -/
def ring0Off (s : State) : State :=
  match (ringGet s 0).st with
  | .enabled => startDrain 0 none false s
  | .error => startDrain 0 none true s
  | _ => s

def execRing0Disable (s : State) : Host.Outcome State Fault Refusal := leaves s (guardWrite 0x138 ring0Off s)

/-! ### The event mask (R510) -/

/-- A write of SOL_IRQ_MASK: a mask bit cleared while its event is pending sends one message. -/
def irqMaskWrite (v : Word) (s : State) : State :=
  let old := s.regs.irqMask
  let s := { s with regs := { s.regs with irqMask := v &&& 0xF } }
  (List.range 4).foldl (fun s e =>
    if old.getLsbD e && !v.getLsbD e && s.regs.irqPend.getLsbD e then
      msixOn (lowestLink s) (bitsNat s.regs.irqEvt (16 * e) 16) s
    else s) s

def execIrqMaskWrite (value : Word) (s : State) : Host.Outcome State Fault Refusal := leaves s (guardWrite 0x410 (irqMaskWrite value) s)

end Sys2Proof.Machine
end

