-- ==== Sys2Proof/Machine/Registers.lean ====
section
/-! DEFINITION. The register map: what a read of each register returns, and a write of a register without a row of its own
(R499 to R515, Tables Reg-1 to Reg-19 and the field maps they name). -/

namespace Sys2Proof.Machine

/-! ### Names (Table Reg-1, R500) -/

/-- Offsets of the registers below the MSI-X table. -/
def regOffsets : List Nat :=
  [0x0, 0x8, 0x10, 0x18, 0x20, 0x100, 0x108, 0x110, 0x120, 0x128, 0x130, 0x138, 0x140, 0x148, 0x150, 0x158, 0x160, 0x168,
   0x170, 0x178, 0x180, 0x188, 0x190, 0x198, 0x1A0, 0x200, 0x208, 0x210, 0x218, 0x220, 0x400, 0x408, 0x410] ++
  [0x1000, 0x1008, 0x1010, 0x1018, 0x1100, 0x1108, 0x1110, 0x1118, 0x1200, 0x1208, 0x1210, 0x1218, 0x1300, 0x1308, 0x1310,
   0x1400, 0x1408, 0x1410, 0x1418, 0x1420, 0x1428, 0x1430, 0x1500, 0x1508, 0x1510, 0x1518, 0x1520, 0x1528, 0x1530, 0x1538,
   0x1540, 0x1548, 0x1550, 0x1558, 0x1600, 0x1608, 0x1610, 0x1700, 0x1708, 0x1710, 0x1718]

def isDoorbell (off : Nat) : Bool := decide (0x20000 ≤ off) && decide (off < 0x40000)

def regNamed (off : Nat) : Bool := regOffsets.contains off || isDoorbell off

/-- Whether an access of `size` bytes touches a register that Table Reg-1 names. -/
def touchesReg (off size : Nat) : Bool := regNamed (off / 8 * 8) || (decide (0 < size) && regNamed ((off + size - 1) / 8 * 8))

/-! ### Reads (R502) -/

/-- A register's value from its fields: (lowest bit, value). -/
def regWord (fs : List (Nat × Nat)) : Word := BitVec.ofNat 64 ((fs.map (fun f => f.2 * 2 ^ f.1)).sum)

def bitOf (b : Bool) : Nat := if b then 1 else 0

/-- Table Reg-4. -/
def readSites (f : Fuses) : Word :=
  regWord [(56, f.lpCount), (48, f.mdieSite), (40, f.lp2Site), (32, f.lp1Site), (24, f.lp0Site), (16, f.hbm1Site), (0, f.hbm0Site)]

/-- Table Boot-7. -/
def readStatus (s : State) : Word :=
  let b := s.boot
  regWord [(40, s.fuses.svnFloor), (32, b.fwSvn.toNat), (28, b.fwResult.toNat), (26, b.commitResult.toNat), (16, b.bootFail.toNat),
    (0, b.phase.toNat)]

/-- Table Reg-11. -/
def readRing0Ctl (s : State) : Word :=
  let r := ringGet s 0
  regWord [(32, bitsNat s.regs.ring0Ctl 32 32), (24, r.proto.toNat), (8, ringStateCode r.st), (0, bitOf (r.st == .enabled))]

/-- Table Stream-6: what of the relay pool is not granted, and of the tile buffer not reserved. -/
def readStreamBuf (s : State) : Word := regWord [(32, 2048 - 64 * poolOut s true), (0, freeTileKib s)]

/-- Table Mem-4. -/
def readMemStatus (s : State) : Word :=
  let m := s.mem
  regWord [(56, m.hbmRate.toNat), (40, m.lpRate.toNat), (36, m.lpOnline.toNat), (0, m.poisonCount.toNat)]

/-- Table Mem-11. -/
def readPpr (s : State) : Word :=
  s.regs.hbmPpr ||| regWord [(62, bitOf s.mem.pprBusy), (60, s.mem.pprResult.toNat), (18, s.mem.pprSpares.toNat)]

/-- Table Fab-9. -/
def readFabStatus (s : State) : Word :=
  regWord [(48, s.fab.foreign.toNat), (32, s.fab.lost.length), (16, s.fab.retries.toNat),
    (8, ((List.range (portCount s)).filter (portUp s)).length), (0, bitOf (isAgent s))]

/-- Table Reg-12. -/
def readStageStatus (s : State) : Word :=
  regWord [(32, s.cmd.lastReason.toNat), (16, s.cmd.lastIndex.toNat), (15, bitOf s.cmd.pendCommit.isSome), (0, s.cmd.staged.length)]

/-- The staged entry that SOL_STAGE_SEL shows. -/
def shownEntry (s : State) : Option (Nat × Word) := s.cmd.staged[bitsNat s.regs.stageSel 0 9]?

/-- Table Clk-5. -/
def readClkStatus (s : State) : Word :=
  let c := s.clk
  regWord [(32, c.lastCount.toNat), (24, c.coasts.toNat), (20, min s.fuses.xsettle 8), (16, c.st.toNat), (7, bitOf c.testBusy),
    (6, bitOf c.testFail), (4, bitOf (c.ramp != .none)), (3, bitOf c.pllLock), (2, bitOf c.xtalFail), (1, bitOf c.returned),
    (0, bitOf c.coast)]

/-- Table Clk-12. DESIGN CHOICE (log entry 114): an engine without a parent reads its own EID as parent after a cold reset too, as the
field's meaning says; its Reset entry, 0x0000, is the same only for EID 0. -/
def readFtimeStatus (s : State) : Word :=
  let t := s.time
  regWord [(48, t.gmEid), (40, t.gmPrio), (32, t.steps), (16, t.parent.getD (ownEid s).toNat), (8, t.offset.toNat),
    (4, bitOf t.stepped), (3, bitOf t.holdover), (2, bitOf (decide (t.gmPrio < 255) && t.gmEid == (ownEid s).toNat)),
    (1, bitOf (timeLocked s))]

/-- Table Mem-9. -/
def readGovStatus (s : State) : Word :=
  let g := s.gov
  regWord [(56, g.t1.toNat), (48, g.t0.toNat), (40, g.freeboard.toNat), (32, g.hardEff.toNat), (16, g.power.toNat),
    (14, g.region.toNat), (0, g.allowed.toNat)]

/-- Table Mem-10. -/
def readGovFlags (s : State) : Word :=
  let g := s.gov
  regWord [(32, g.throttled.toNat), (4, bitOf g.lpHot), (3, bitOf g.sensor), (2, bitOf g.atMin), (1, bitOf g.hard),
    (0, bitOf g.overridden)]

/-- One link's half-word of Table Host-6. -/
def linkWord (k : HostLink) : Nat := bitOf k.up * 2 ^ 15 + bitOf k.lost * 2 ^ 14 + k.width.toNat * 16 + k.rate.toNat

def readHlink (s : State) : Word := regWord (s.host.links.zipIdx.map (fun (k, i) => (16 * i, linkWord k)))

/-- Table Xlate-13. -/
def readFcStatus (s : State) : Word :=
  let x := s.xl
  regWord [(48, x.lost.toNat), (32, match x.open_ with | some b => b.recs.length | none => 0), (29, bitOf x.poolEmpty),
    (28, bitOf x.ctMirror), (27, bitOf x.overflow), (24, x.waiting.length), (0, x.lastSeq)]

/-- Lane out of service of a logical polder's physical polder. -/
def laneOutOf (s : State) (p : Nat) : Option Nat := (s.rep.laneOut[physOf s p]?).getD none

/-- Table Repair-7. -/
def readRepairStatus (s : State) : Word :=
  let r := s.rep
  let lanes := ((List.range 8).map (fun p => match laneOutOf s p with | some k => if k = 16 then 0 else 2 ^ p | none => 0)).sum
  regWord [(63, bitOf r.failed), (62, bitOf (r.withdrawn != 0)), (61, bitOf r.busy.isSome), (56, bitOf (r.polderMap.contains 8)),
    (52, match repairIn (repairs s) 4 0 9 with | some x => x.unit | none => 15), (44, lanes), (32, r.withdrawn.toNat),
    (24, r.llsSpare.toNat), (15, r.csramSpare.toNat), (0, s.fuses.field.length)]

/-- Table Repair-8. -/
def readRepairMap (s : State) : Word := regWord ((List.range 8).map (fun p => (4 * p, physOf s p)))

/-- Table Repair-9. -/
def readRepairLane (s : State) : Word := regWord ((List.range 8).map (fun p => (8 * p, (laneOutOf s p).getD 0x1F)))

/-- Table Repair-10. -/
def readInjCtl (s : State) : Word :=
  s.regs.injCtl ||| regWord [(0, bitOf s.rep.inj.isSome)]

/-- Registers below 0x1000. -/
def readLow (s : State) (off : Nat) : Word :=
  match off with
  | 0x0 => regWord [(48, 0x5011), (40, s.fuses.step.toNat), (32, s.fuses.build.toNat), (24, 0x20), (16, 0x20)]
  | 0x8 => regWord [(0, s.fuses.eid.toNat)]
  | 0x10 => readSites s.fuses
  | 0x18 => regWord [(0, s.fuses.rcoCal.toNat)]
  | 0x20 => if writesLive s then regWord [(0, s.boot.fwVersion.toNat)] else 0
  | 0x108 => readStatus s
  | 0x110 => regWord [(32, (ringGet s 0).cqTail.toNat), (0, (ringGet s 0).sqHead.toNat)]
  | 0x120 => s.regs.rctBase
  | 0x128 => s.regs.ring0Sq
  | 0x130 => s.regs.ring0Cq
  | 0x138 => readRing0Ctl s
  | 0x140 => s.regs.spillBase
  | 0x148 => s.regs.spillCtl
  | 0x150 => s.regs.wdogCtl
  | 0x158 => readStreamBuf s
  | 0x160 => (s.regs.memCtl &&& 0xF00) ||| regWord [(0, s.mem.hbmOnline.toNat)]
  | 0x168 => readMemStatus s
  | 0x170 => readPpr s
  | 0x178 => s.regs.fabCtl
  | 0x180 => s.regs.fabRoute
  | 0x188 => s.regs.fabNbr
  | 0x190 => readFabStatus s
  | 0x1A0 => s.regs.fwSrc
  | 0x200 => readStageStatus s
  | 0x208 => s.regs.stageSel
  | 0x210 => match shownEntry s with | some e => regWord [(63, 1), (0, e.1)] | none => 0
  | 0x218 => match shownEntry s with | some e => e.2 | none => 0
  | 0x400 => s.regs.irqEvt
  | 0x408 => s.regs.irqPend
  | 0x410 => s.regs.irqMask
  | _ => 0

/-- Registers from 0x1000 on; SOL_PLACE_FENCE shows its count, and a read of it waits (`placeFenceRead`). -/
def readHigh (s : State) (off : Nat) : Word :=
  match off with
  | 0x1000 => s.regs.clkCtl
  | 0x1008 => readClkStatus s
  | 0x1018 => s.regs.clkout
  | 0x1100 => now s
  | 0x1108 => s.regs.ftimeCtl
  | 0x1110 => regWord [(0, s.time.trim.toNat)]
  | 0x1118 => readFtimeStatus s
  | 0x1200 => s.regs.govCtl
  | 0x1208 => s.regs.govGain
  | 0x1210 => readGovStatus s
  | 0x1218 => readGovFlags s
  | 0x1300 => regWord [(48, s.gauge.epoch), (32, bitOf s.fuses.sealed), (0, s.fuses.gaugeFw.toNat)]
  | 0x1308 => regWord [(48, s.gauge.pMdie.toNat), (32, s.gauge.pHbm.toNat), (16, s.gauge.pCore.toNat), (0, s.gauge.pTotal.toNat)]
  | 0x1310 => s.gauge.eTotal
  | 0x1400 => s.regs.hwinCtl
  | 0x1408 => regWord [(32, s.host.poisonRd.toNat), (0, s.host.droppedWr.toNat)]
  | 0x1410 => regWord [(32, s.host.unclaimed.toNat), (0, s.host.regions.length)]
  | 0x1418 => s.host.fence
  | 0x1420 => readHlink s
  | 0x1428 => s.regs.cohCtl
  | 0x1430 => regWord [(32, s.host.bisnp.toNat), (16, s.host.dirEvict.toNat), (0, s.host.toFar.toNat)]
  | 0x1500 => s.regs.ptRoot
  | 0x1508 => regWord [(0, s.xl.ptGen.toNat)]
  | 0x1510 => s.regs.ctRootA
  | 0x1518 => s.regs.ctRootB
  | 0x1520 => s.regs.fcQueue
  | 0x1528 => regWord [(32, s.xl.cons.toNat), (0, s.xl.prod.toNat)]
  | 0x1530 => readFcStatus s
  | 0x1540 => s.xl.xlateResult
  | 0x1548 => s.regs.migPools
  | 0x1550 => s.regs.migTail
  | 0x1558 => s.regs.migHead
  | 0x1600 => s.regs.errBase
  | 0x1608 => regWord [(32, s.rep.cons.toNat), (0, s.rep.prod.toNat)]
  | 0x1610 => regWord [(48, s.rep.lost.toNat), (32, s.rep.sev2.toNat), (16, s.rep.sev1.toNat), (0, s.rep.sev0.toNat)]
  | 0x1700 => readRepairStatus s
  | 0x1708 => readRepairMap s
  | 0x1710 => readRepairLane s
  | 0x1718 => readInjCtl s
  | _ => 0

/-- What a proper read of a register returns; WO registers, doorbells and unnamed offsets read zero. -/
def readReg (s : State) (off : Nat) : Word := if off < 0x1000 then readLow s off else readHigh s off

/-! ### The MSI-X table (R513, R514) -/

def isMsix (s : State) (off : Nat) : Bool :=
  ownSlot s == 0 && ((decide (0x10000 ≤ off) && decide (off < 0x18000)) || (decide (0x18000 ≤ off) && decide (off < 0x18100)))

/-- Bytes of the table and of the pending-bit array from an offset on. -/
def msixByte (s : State) (off : Nat) : Byte :=
  if off < 0x18000 then bits (msixEntry s ((off - 0x10000) / 16)) (8 * (off % 16)) 8
  else BitVec.ofNat 8 (((List.range 8).map (fun k => if s.regs.msixPend.contains ((off - 0x18000) * 8 + k) then 2 ^ k else 0)).sum)

def msixBytes (s : State) (off n : Nat) : Bytes := (List.range n).map (fun k => msixByte s (off + k))

/-- Send a message that was pending behind the table's mask. -/
def msixRelease (v : Nat) (s : State) : State :=
  if s.regs.msixPend.contains v && !msixMasked s v then
    msixOn (lowestLink s) v { s with regs := { s.regs with msixPend := s.regs.msixPend.filter (· != v) } }
  else s

/-- A write of an aligned 4 or 8 bytes of the table; the pending bits take no write. -/
def msixWrite (off size : Nat) (v : Word) (s : State) : State :=
  if !(size == 4 || size == 8) || off % size != 0 || 0x18000 ≤ off then s
  else
    let n := (off - 0x10000) / 16
    let e := setBits (msixEntry s n) (8 * (off % 16)) (8 * size) v.toNat
    msixRelease n { s with regs := { s.regs with msixTab := smapSet s.regs.msixTab n e } }

/-! ### Writes (R499, R502) -/

/-- SOL_CTL (Table Boot-6): its bits act in the order in which none undoes another. -/
def ctlWrite (v : Word) (s : State) : State :=
  let s := if v.getLsbD 2 then svnCommit s else s
  let s := if v.getLsbD 3 then cfgCommit s else s
  let s := if v.getLsbD 1 then fwLoad s else s
  if v.getLsbD 0 then engReset s else s

/-- SOL_FW_SRC. -/
def fwSrcWrite (v : Word) (s : State) : State :=
  if s.boot.phase = 7 then misuse 0x1A0 s else { s with regs := { s.regs with fwSrc := v &&& 0xF0FFFFFFFFFFF000 } }

/-- Field [lo + w − 1 : lo] of a write: a reserved encoding leaves the field as it was (R6). -/
def keepReserved (lo w : Nat) (ok : Nat → Bool) (old v : Word) : Word :=
  if ok (bitsNat v lo w) then v else setBits v lo w (bitsNat old lo w)

def depthOk (n : Nat) : Bool := decide (6 ≤ n) && decide (n ≤ 16)
def vectorOk (n : Nat) : Bool := decide (n < 2048)

/-- SOL_IRQ_EVT. -/
def irqEvtWrite (v : Word) (s : State) : State :=
  { s with regs := { s.regs with irqEvt := [0, 16, 32, 48].foldl (fun v lo => keepReserved lo 16 vectorOk s.regs.irqEvt v) v } }

/-- A queue register of ring 0, taken only while the ring is disabled. -/
def ring0Queue (off : Nat) (put : Regs → Regs) (s : State) : State :=
  if (ringGet s 0).st = .disabled then { s with regs := put s.regs, cmd := { s.cmd with ring0Moved := true } } else misuse off s

/-- SOL_RING0_CTL: vector and coalescing apply from the next completion, then the enable acts. -/
def ring0CtlWrite (v : Word) (s : State) : State :=
  let v := keepReserved 48 16 vectorOk s.regs.ring0Ctl v
  let s := { s with regs := { s.regs with ring0Ctl := v &&& 0xFFFFFFFF00000000 } }
  let r := ringGet s 0
  let n := { r with msix := bits v 48 16, irqCoalesce := bits v 32 16 }
  let s := if r.st = .disabled then { s with cmd := { s.cmd with rings := smapSet s.cmd.rings 0 n } } else ringSet 0 n s
  if v.getLsbD 0 then ring0On s else ring0Off s

/-- Clear the W1C bits of SOL_GOV_FLAGS that are written 1. -/
def govFlagsWrite (v : Word) (s : State) : State :=
  let g := s.gov
  { s with gov := { g with
    lpHot := g.lpHot && !v.getLsbD 4
    sensor := g.sensor && !v.getLsbD 3
    atMin := g.atMin && !v.getLsbD 2
    hard := g.hard && !v.getLsbD 1
    overridden := g.overridden && !v.getLsbD 0 } }

/-- A proper write of a register that acts in phases 0x5 and 0x6; RO fields and RO registers take none. -/
def writeLive (off : Nat) (v : Word) (s : State) : State :=
  match off with
  | 0x120 => rctBaseWrite v s
  | 0x128 => ring0Queue off (fun r => { r with ring0Sq := keepReserved 0 5 depthOk r.ring0Sq v &&& 0x000FFFFFFFFFF01F }) s
  | 0x130 => ring0Queue off (fun r => { r with ring0Cq := v &&& 0x000FFFFFFFFFF000 }) s
  | 0x138 => ring0CtlWrite v s
  | 0x170 => pprWrite v s
  | 0x198 => fabRevive v s
  | 0x208 => { s with regs := { s.regs with stageSel := v &&& 0x1FF } }
  | 0x220 => if v.getLsbD 0 then stageDiscard s else s
  | 0x400 => irqEvtWrite v s
  | 0x408 => { s with regs := { s.regs with irqPend := s.regs.irqPend &&& ~~~v } }
  | 0x410 => irqMaskWrite v s
  | 0x1008 => onClk (fun c => { c with xtalFail := c.xtalFail && !v.getLsbD 2, returned := c.returned && !v.getLsbD 1 }) s
  | 0x1010 => clkTest v s
  | 0x1118 => { s with time := { s.time with stepped := s.time.stepped && !v.getLsbD 4 } }
  | 0x1218 => govFlagsWrite v s
  | 0x1528 => { s with xl := { s.xl with cons := bits v 32 32 } }
  | 0x1530 => { s with xl := { s.xl with poolEmpty := s.xl.poolEmpty && !v.getLsbD 29, ctMirror := s.xl.ctMirror && !v.getLsbD 28 } }
  | 0x1538 => if s.xl.convert.isSome then s else convert v s
  | 0x1550 => { s with regs := { s.regs with migTail := v &&& 0x0000FFFFFFFFFFFF } }
  | 0x1608 => { s with rep := { s.rep with cons := bits v 32 32 } }
  | 0x1718 => injCtlWrite v s
  | _ => stageWrite off v s

/-- A write of one aligned 8 bytes. -/
def wholeWrite (off : Nat) (v : Word) (s : State) : State :=
  if off = 0x100 then (if s.boot.phase = 7 then misuse 0x100 s else ctlWrite v s)
  else if off = 0x1A0 then fwSrcWrite v s
  else if isDoorbell off then doorbellWrite ((off - 0x20000) / 8) 8 v s
  else guardWrite off (writeLive off v) s

/-- A write of the window. -/
def registerWrite (off size : Nat) (v : Word) (s : State) : State :=
  if s.boot.inReset then s
  else if isMsix s off then guardWrite off (msixWrite off size v) s
  else if size = 8 && off % 8 = 0 then (if regNamed off then wholeWrite off v s else s)
  else if touchesReg off size then misuse off s
  else s

def execRegisterWrite (offset size : Nat) (value : Word) (s : State) : Host.Outcome State Fault Refusal :=
  burnt s (registerWrite offset size value s)

/-- A read of the window: a narrow or misaligned one returns zero and is logged. -/
def registerRead (off size : Nat) (s : State) : State :=
  let give := fun (b : Bytes) (s : State) => { s with host := { s.host with readData := some b } }
  if s.boot.inReset then s
  else if isMsix s off then give (msixBytes s off size) s
  else if size = 8 && off % 8 = 0 then (if off = 0x1418 then placeFenceRead s else give (leBytes 8 (readReg s off).toNat) s)
  else if touchesReg off size then misuse off (give (zeroBytes size) s)
  else give (zeroBytes size) s

def execMisalignedRegisterRead (offset size : Nat) (s : State) : Host.Outcome State Fault Refusal :=
  leaves s (registerRead offset size s)

end Sys2Proof.Machine
end

