-- ==== Sys2Proof/Machine/Start.lean ====
section
/-! DEFINITION. Tasks that waited: how each opcode begins again after a page was moved under it (R318), starts after ORDERED held it
(Table Cmd-5), or has its turn; and COMPLETION_WRITE (R28, R33, R58, R387). -/

namespace Sys2Proof.Machine

/-! ### Beginning a task again -/

/-- Steps 5 and 6 of an opcode's acceptance and its start, for a task that met a page being moved. -/
def beginOp (t : Task) (s : State) : State :=
  let id := t.id
  match t.op.toNat with
  | 0x00 => beginTask noCheck startNop id s
  | 0x01 => beginTask helloCheck startHello id s
  | 0x02 => beginTask queryCheck startQuery id s
  | 0x03 => beginTask noCheck startFence id s
  | 0x08 => beginNow ringConfigWhole id s
  | 0x10 => beginWhole (fun t => do tableDefine t; modify (finishOk t.id 0)) id s
  | 0x11 => beginTask tableCommitCheck startTableCommit id s
  | 0x12 => beginTask tableRetire startRetire id s
  | 0x13 => beginWhole shardMapWhole id s
  | 0x14 => beginTask snapshotCheck startSnapshot id s
  | 0x15 => beginWhole migrateAccept id s
  | 0x20 => beginTask lookupPoolCheck startLookup id s
  | 0x21 => beginTask lookupGatherCheck startLookup id s
  | 0x22 => beginTask slabGatherCheck startLookup id s
  | 0x23 => beginTask indexOnlyCheck startLookup id s
  | 0x24 => beginTask noCheck startLookupCancel id s
  | 0x30 => beginTask gradScatterCheck startScatter id s
  | 0x31 => beginTask gradFlushCheck startFlush id s
  | 0x32 => beginTask updateApplyCheck startUpdate id s
  | 0x33 => beginWhole programLoad id s
  | 0x34 => beginTask atomicAddCheck startAtomic id s
  | 0x40 => beginWhole armWhole id s
  | 0x41 => beginTask rearmCheck startRearm id s
  | 0x42 => beginTask streamCancelCheck startStreamCancel id s
  | 0x43 => beginTask noCheck startSemSet id s
  | 0x44 => beginTask noCheck startSemSignal id s
  | 0x45 => beginTask noCheck startSemWait id s
  | 0x46 => beginWhole culvertWhole id s
  | 0x47 => beginWhole relaySetWhole id s
  | 0x50 => beginTask prefetchCheck startPrefetch id s
  | 0x51 => beginTask adviseCheck startAdvise id s
  | 0x52 => beginTask migrateCheck' startMemMigrate id s
  | 0x53 => beginTask resolveCheck startResolve id s
  | 0x54 => beginTask noCheck startInvalidate id s
  | 0x55 => beginWhole regionWhole id s
  | 0x60 => beginBermConfig id s
  | 0x61 => beginTask indexOnlyCheck startLookup id s
  | 0x62 => beginTask bermFlushCheck startBermFlush id s
  | 0x70 => beginNow govPolicyWhole id s
  | 0x71 => beginNow timeCtl id s
  | 0x72 => beginTask gaugeReadCheck startGaugeRead id s
  | 0x78 => beginWhole configStageWhole id s
  | 0x79 => beginTask configCommitCheck startConfigCommit id s
  | 0x7C => beginNow diagInjectWhole id s
  | 0x7D => beginTask repairCheck startRepair id s
  | 0x7E => beginTask selftestCheck startSelftest id s
  | _ => s

/-- The start of an opcode, for a task that was held or whose turn has come. -/
def startOp (t : Task) (s : State) : State :=
  if t.early.isSome then startNow t s
  else match t.op.toNat with
  | 0x00 => startNop t s
  | 0x01 => startHello t s
  | 0x02 => startQuery t s
  | 0x03 => startFence t s
  | 0x08 => startNow t s
  | 0x10 => startWhole (fun t => do tableDefine t; modify (finishOk t.id 0)) t s
  | 0x11 => startTableCommit t s
  | 0x12 => startRetire t s
  | 0x13 => startWhole shardMapWhole t s
  | 0x14 => startSnapshot t s
  | 0x15 => startWhole migrateAccept t s
  | 0x20 => startLookup t s
  | 0x21 => startLookup t s
  | 0x22 => startLookup t s
  | 0x23 => startLookup t s
  | 0x24 => startLookupCancel t s
  | 0x30 => startScatter t s
  | 0x31 => startFlush t s
  | 0x32 => startUpdate t s
  | 0x33 => startWhole programLoad t s
  | 0x34 => startAtomic t s
  | 0x40 => startWhole armWhole t s
  | 0x41 => startRearm t s
  | 0x42 => startStreamCancel t s
  | 0x43 => startSemSet t s
  | 0x44 => startSemSignal t s
  | 0x45 => startSemWait t s
  | 0x46 => startWhole culvertWhole t s
  | 0x47 => startWhole relaySetWhole t s
  | 0x50 => startPrefetch t s
  | 0x51 => startAdvise t s
  | 0x52 => startMemMigrate t s
  | 0x53 => startResolve t s
  | 0x54 => startInvalidate t s
  | 0x55 => startWhole regionWhole t s
  | 0x60 => startBermConfig t s
  | 0x61 => startLookup t s
  | 0x62 => startBermFlush t s
  | 0x70 => startNow t s
  | 0x71 => startNow t s
  | 0x72 => startGaugeRead t s
  | 0x78 => startWhole configStageWhole t s
  | 0x79 => startConfigCommit t s
  | 0x7C => startNow t s
  | 0x7D => startRepair t s
  | 0x7E => startSelftest t s
  | _ => s

/-! ### Turns -/

/-- Whether a task waits behind ORDERED for nothing more, or has its turn in the order of R193 and R245. -/
def mayStart (s : State) (t : Task) : Bool :=
  match t.phase with
  | .held => !earlierTask s t
  | .queued => (t.op == 0x14 || t.op == 0x31 || t.op == 0x32) && !serialBlocked t s
  | _ => false

/-- Start the tasks whose wait is over, in acceptance order. -/
def startSweep (s : State) : State :=
  (s.cmd.tasks.map (·.id)).foldl (fun s id => match taskOf s id with
    | some t => if mayStart s t then startOp t s else s
    | none => s) s

/-- Rings whose last task has completed leave draining. -/
def drainSweep (s : State) : State := (s.cmd.rings.map Prod.fst).foldl (fun s n => drainEnd n s) s

/-- What the end of a task lets go on. -/
def endSweep (s : State) : State :=
  startSweep (prefetchSweep (flushSweep (streamSweep (cancelSweep (drainSweep (fenceSweep s))))))

/-! ### COMPLETION_WRITE -/

/-- What a task with PEER_FLUSH waits for besides its writes: near-cache lines of placement targets reach memory (R386, R387). -/
def peerFlush (t : Task) (s : State) : State :=
  if pPeerFlush t.pkt then nearBack (fun l => lineTarget s l.line) s else s

/-- COMPLETION_WRITE: a task that has ended completes, once a completion slot is free. -/
def completionWrite (id : Nat) (s : State) : State :=
  match taskOf s id with
  | none => s
  | some t =>
    if !t.isDone || s.boot.inReset then s
    else
      let s := completeTask id (peerFlush t s)
      if (taskOf s id).isSome then s else endSweep s

def execCompletionWrite (task : Nat) (s : State) : Host.Outcome State Fault Refusal := leaves s (completionWrite task s)

end Sys2Proof.Machine
end

