-- ==== Sys2Proof/Machine/Receive.lean ====
section
/-! DEFINITION. Arriving fabric messages: checks, acceptance and order (R396, R398, R403, R404, R408, R409, R411, R413 to R417), what each
type does, and walks that met a page being moved (R318). -/

namespace Sys2Proof.Machine

/-! ### TASK_ACK and COMMAND_FORWARD -/

/-- An acknowledgement of a bucket, a row, a unit or a write, or a refused hop, by what its task is doing. -/
def transferAck (src id : Nat) (r : Result) (s : State) : State :=
  match taskOf s id with
  | none => s
  | some t => match t.phase with
    | .running (.scatter _) => scatterAck src id 0x11 r s
    | .running (.lookup _) => lookupAck src id 0x11 r s
    | .running (.update _) => updateAck src id r s
    | .running (.transfer _) =>
      if statusDone r.status then unitInPlace id src r.work.toNat (ackFlags id r s) else endTransfer id r (transferRefused id src s)
    | .running (.relaySet _ _ _) => if statusDone r.status then s else relayAnswer src (some r) id s
    | _ => s

/-- A TASK_ACK, by the kind it acknowledges (Table Fab-4). -/
def taskAcked (src id kind : Nat) (r : Result) (s : State) : State :=
  match kind with
  | 0x06 => scatterAck src id 6 r s
  | 0x10 =>
    match taskOf s id with
    | none => releaseAck src id s
    | some t => match t.phase with
      | .running (.lookup _) => lookupAck src id 0x10 r s
      | .running (.scatter _) => scatterAck src id 0x10 r s
      | _ => releaseAck src id s
  | 0x11 => transferAck src id r s
  | 0x12 => migrationAck src id r s
  | k => lookupAck src id k r s

def deliverTaskAck (h : Header) (_ : Bytes) : Act Unit :=
  modify (taskAcked (hSrc h) (hTask h) (hf h 44 1)
    ⟨BitVec.ofNat 8 (hf h 32 1), BitVec.ofNat 24 (hf h 33 3), BitVec.ofNat 32 (hf h 40 4), BitVec.ofNat 32 (hf h 36 4)⟩)

/-- Opcodes that an engine forwards: SHARD_MIGRATE, UPDATE_APPLY and FAULT_RESOLVE. -/
def forwardedOp (b : Bytes) : Bool := ([0x15, 0x32, 0x53] : List Nat).contains (leField b 0 1)

def deliverCommandForward (h : Header) (payload : Bytes) : Act Unit :=
  let p := packetOf payload
  match leField payload 0 1 with
  | 0x15 => migForwarded h p
  | 0x32 => modify (keepRemote (hSrc h) (BitVec.ofNat 32 (hTask h)) p)
  | _ => resolveForwarded h p

/-! ### Delivery -/

/-- What a message does at its receiver, by its type. -/
def deliverAny (h : Header) (payload : Bytes) : Act Unit :=
  match hTyp h with
  | 0x03 => deliverAck h payload
  | 0x04 => deliverNack h payload
  | 0x05 => deliverCreditReq h payload
  | 0x06 => deliverCreditGrant h payload
  | 0x07 => deliverPeerDown h payload
  | 0x10 => deliverIndexList h payload
  | 0x11 => deliverPartialSum h payload
  | 0x12 => deliverTaskAck h payload
  | 0x13 => deliverCancel h payload
  | 0x20 => deliverGradBucket h payload
  | 0x21 => deliverUpdateRow h payload
  | 0x22 => deliverAtomicGroup h payload
  | 0x23 => deliverAtomicDone h payload
  | 0x30 => deliverRemoteWrite h payload
  | 0x31 => deliverRelayChunk h payload
  | 0x32 => deliverSemOp h payload
  | 0x33 => deliverRelayHopSet h payload
  | 0x34 => deliverCommandForward h payload
  | 0x35 => deliverMigrateData h payload
  | 0x40 => deliverTimeAnnounce h payload
  | 0x41 => deliverTimeSync h payload
  | 0x42 => deliverTimeDelayReq h payload
  | 0x43 => deliverTimeDelayResp h payload
  | 0x50 => deliverFaultRecord h payload
  | 0x51 => deliverFaultNotice h payload
  | 0x52 => deliverXlateDrop h payload
  | _ => return ()

/-- The payload without the CRC that a control payload ends in. -/
def bareLoad (h : Header) (b : Bytes) : Bytes := if hCtrl h then b.take (b.length - 4) else b

def flowOf (h : Header) : Nat × Nat := (hSrc h, hTask h)

/-- The fseq a flow's next message has. -/
def nextFseq (s : State) (k : Nat × Nat) : BitVec 16 := ((s.fab.rxSeq.find? (fun e => e.1 == k)).map (·.2)).getD 0

/-- A message whose bytes could not be written is not acknowledged (R408). -/
def unwritten (h : Header) (s : State) : Bool := s.fab.unwritten.contains (hSrc h, BitVec.ofNat 32 (hMsgId h))

/-- Types acknowledged only once their bytes stand in memory (R408). -/
def ackLate (ty : Nat) : Bool := ty == 0x30 || ty == 0x35

def oweAck (h : Header) (s : State) : State :=
  { s with fab := { s.fab with acksDue := s.fab.acksDue ++ [(hSrc h, BitVec.ofNat 32 (hMsgId h))] } }

/-- A message has been delivered: its turn passes, its credit returns, and what waited for it at this engine goes on. A bucket's
credit returns once it has been taken (R412). -/
def delivered (h : Header) (payload : Bytes) (s : State) : State :=
  if hSrc h = (ownEid s).toNat then
    if unwritten h s then giveUpTile (hTask h) (BitVec.ofNat 32 (hMsgId h)) (forgetUnwritten (hSrc h) (BitVec.ofNat 32 (hMsgId h)) s)
    else acked (hSrc h) h s
  else if outsideOrder (hTyp h) then s
  else
    let s := { s with fab := { s.fab with rxSeq := (bumpSeq s.fab.rxSeq (flowOf h)).2 } }
    let s := if ackLate (hTyp h) && !unwritten h s then oweAck h s else s
    if hCls h = 3 && hTyp h != 0x20 then creditBack (hSrc h) (relayType (hTyp h)) (creditUnits payload.length) s else s

/-- Deliver a message, which waits where it meets a page being moved: whether it was delivered. -/
def deliverNow (h : Header) (payload : Bytes) (s : State) : Bool × State :=
  match (serving (hSrc h) (hTask h) (hTag h) (deliverAny h (bareLoad h payload))).go none s with
  | (.error (.mig va w), _) =>
    (false, waitMig none va w { s with fab := { s.fab with stalled := s.fab.stalled ++ [(s.xl.nextWalk, h, payload)] } })
  | (_, s') => (true, delivered h payload s')

/-- Deliver the messages of a flow that had arrived ahead of their turn, as far as the order goes. -/
def deliverEarly (k : Nat × Nat) : Nat → State → State
  | 0, s => s
  | fuel + 1, s =>
    let n := nextFseq s k
    match s.fab.early.find? (fun m => flowOf m.1 == k && hFseq m.1 == n.toNat) with
    | none => s
    | some m =>
      let s := { s with fab := { s.fab with early := s.fab.early.erase m } }
      match deliverNow m.1 m.2 s with
      | (true, s) => deliverEarly k fuel s
      | (false, s) => s

/-- Deliver a message and those behind it. -/
def deliverRun (h : Header) (payload : Bytes) (s : State) : State :=
  match deliverNow h payload s with
  | (true, s) => deliverEarly (flowOf h) (s.fab.early.length + 1) s
  | (false, s) => s

/-- Deliver an accepted message in its turn (R409). -/
def deliverInOrder (h : Header) (payload : Bytes) (s : State) : State :=
  if outsideOrder (hTyp h) then (deliverNow h payload s).2
  else
    let d := (BitVec.ofNat 16 (hFseq h) - nextFseq s (flowOf h)).toNat
    if d = 0 then
      if s.fab.stalled.any (fun m => flowOf m.2.1 == flowOf h) then s else deliverRun h payload s
    else if d < 2 ^ 15 then { s with fab := { s.fab with early := s.fab.early ++ [(h, payload)] } }
    else s

/-! ### Acceptance -/

def alreadySeen (h : Header) (s : State) : Bool :=
  s.fab.seen.any (fun x => x.1 == hSrc h && x.2.1 == BitVec.ofNat 32 (hMsgId h))

/-- Whether a message that was accepted has not been delivered yet. -/
def undelivered (h : Header) (s : State) : Bool :=
  let same : Header → Bool := fun k => hSrc k == hSrc h && hMsgId k == hMsgId h
  s.fab.early.any (fun m => same m.1) || s.fab.stalled.any (fun m => same m.2.1)

/-- A resend of an accepted message is acknowledged again. -/
def seenAgain (h : Header) (s : State) : State :=
  if ackLate (hTyp h) && (undelivered h s || unwritten h s) then s else oweAck h s

/-- A class 3 message uses its sender's grant. -/
def useGrant (h : Header) (payload : Bytes) (s : State) : State :=
  if hCls h = 3 then
    setGrant (hSrc h) (relayType (hTyp h)) (fun c => { c with used := c.used + creditUnits payload.length }) s
  else s

/-- Accept a message and deliver it. -/
def accept (h : Header) (payload : Bytes) (s : State) : State :=
  let s := useGrant h payload s
  let s := if keptType (hTyp h) then
      { s with fab := { s.fab with seen := s.fab.seen ++ [(hSrc h, BitVec.ofNat 32 (hMsgId h), now s)] } } else s
  let s := if keptType (hTyp h) && !ackLate (hTyp h) then oweAck h s else s
  let s := if hVer h = 0x10 && peerVersion s (hSrc h) != 0x10 then settleVersion (hSrc h) 0x10 s else s
  deliverInOrder h payload s

/-- Credit granted to a sender that it has not used. -/
def grantLeft (s : State) (peer : Nat) (relay : Bool) : Nat :=
  match s.fab.grants.find? (fun c => c.peer == peer && c.relay == relay) with
  | some c => c.granted - c.used
  | none => 0

/-- Whether a message breaks its tables, or forwards what no engine forwards. -/
def badMessage (ty : Nat) (h : Header) (payload : Bytes) : Bool :=
  hTyp h != ty || malformed h payload.length || (ty == 0x34 && !forwardedOp payload)

/-- A message of another engine arrives. -/
def receiveFrom (ty : Nat) (h : Header) (payload : Bytes) (s : State) : State :=
  let (inj, s) := injectMsg (hSrc h) s
  if !headerCrcOk h || inj then fabRecord 0 inj s
  else if hPartition h != partitionOf s then { s with fab := { s.fab with foreign := satAdd s.fab.foreign 1 } }
  else if !fabEnabled s then s
  else if hDst h != (ownEid s).toNat then fabRecord (hSrc h) false s
  else if isLost s (hSrc h) then s
  else if !(hVer h == 0x10 || hVer h == 0x20) then nackMsg h 3 s
  else if badMessage ty h payload then nackMsg h 4 (fabRecord (hSrc h) false s)
  else if tooOld h s then s
  else if keptType ty && alreadySeen h s then seenAgain h s
  else if hCtrl h && !crcHolds payload then nackMsg h 1 (fabRecord (hSrc h) false s)
  else if hCls h = 3 && grantLeft s (hSrc h) (relayType ty) < creditUnits payload.length then nackMsg h 2 s
  else accept h payload s

/-- A message of this engine to itself: the first of its flow. -/
def receiveOwn (ty : Nat) (h : Header) (payload : Bytes) (s : State) : State :=
  if hTyp h != ty || s.fab.stalled.any (fun m => flowOf m.2.1 == flowOf h) then s
  else if s.fab.selfQ.find? (fun m => flowOf m.1 == flowOf h) = some (h, payload) then
    (deliverNow h payload { s with fab := { s.fab with selfQ := s.fab.selfQ.erase (h, payload) } }).2
  else s

/-- A message of a type arrives. -/
def receive (ty : Nat) (h : Header) (payload : Bytes) (s : State) : State :=
  if s.boot.inReset || s.rep.failed || !fastServed s then s
  else if hSrc h = (ownEid s).toNat then receiveOwn ty h payload s
  else receiveFrom ty h payload s

/-! ### The commands -/

def execAckReceive (h : Header) (payload : Bytes) (s : State) : Host.Outcome State Fault Refusal := leaves s (receive 0x03 h payload s)
def execNackReceive (h : Header) (payload : Bytes) (s : State) : Host.Outcome State Fault Refusal := leaves s (receive 0x04 h payload s)
def execCreditReqReceive (h : Header) (payload : Bytes) (s : State) : Host.Outcome State Fault Refusal := leaves s (receive 0x05 h payload s)
def execCreditGrantReceive (h : Header) (payload : Bytes) (s : State) : Host.Outcome State Fault Refusal := leaves s (receive 0x06 h payload s)
def execPeerDownReceive (h : Header) (payload : Bytes) (s : State) : Host.Outcome State Fault Refusal := leaves s (receive 0x07 h payload s)
def execIndexListReceive (h : Header) (payload : Bytes) (s : State) : Host.Outcome State Fault Refusal := leaves s (receive 0x10 h payload s)
def execPartialSumReceive (h : Header) (payload : Bytes) (s : State) : Host.Outcome State Fault Refusal := leaves s (receive 0x11 h payload s)
def execTaskAckReceive (h : Header) (payload : Bytes) (s : State) : Host.Outcome State Fault Refusal := leaves s (receive 0x12 h payload s)
def execCancelReceive (h : Header) (payload : Bytes) (s : State) : Host.Outcome State Fault Refusal := leaves s (receive 0x13 h payload s)
def execGradBucketReceive (h : Header) (payload : Bytes) (s : State) : Host.Outcome State Fault Refusal := leaves s (receive 0x20 h payload s)
def execUpdateRowReceive (h : Header) (payload : Bytes) (s : State) : Host.Outcome State Fault Refusal := leaves s (receive 0x21 h payload s)
def execAtomicGroupReceive (h : Header) (payload : Bytes) (s : State) : Host.Outcome State Fault Refusal := leaves s (receive 0x22 h payload s)
def execAtomicDoneReceive (h : Header) (payload : Bytes) (s : State) : Host.Outcome State Fault Refusal := leaves s (receive 0x23 h payload s)
def execRemoteWriteReceive (h : Header) (payload : Bytes) (s : State) : Host.Outcome State Fault Refusal := leaves s (receive 0x30 h payload s)
def execRelayChunkReceive (h : Header) (payload : Bytes) (s : State) : Host.Outcome State Fault Refusal := leaves s (receive 0x31 h payload s)
def execSemOpReceive (h : Header) (payload : Bytes) (s : State) : Host.Outcome State Fault Refusal := leaves s (receive 0x32 h payload s)
def execRelayHopSetReceive (h : Header) (payload : Bytes) (s : State) : Host.Outcome State Fault Refusal := leaves s (receive 0x33 h payload s)
def execCommandForwardReceive (h : Header) (payload : Bytes) (s : State) : Host.Outcome State Fault Refusal := leaves s (receive 0x34 h payload s)
def execMigrateDataReceive (h : Header) (payload : Bytes) (s : State) : Host.Outcome State Fault Refusal := leaves s (receive 0x35 h payload s)
def execTimeAnnounceReceive (h : Header) (payload : Bytes) (s : State) : Host.Outcome State Fault Refusal := leaves s (receive 0x40 h payload s)
def execTimeSyncReceive (h : Header) (payload : Bytes) (s : State) : Host.Outcome State Fault Refusal := leaves s (receive 0x41 h payload s)
def execTimeDelayReqReceive (h : Header) (payload : Bytes) (s : State) : Host.Outcome State Fault Refusal := leaves s (receive 0x42 h payload s)
def execTimeDelayRespReceive (h : Header) (payload : Bytes) (s : State) : Host.Outcome State Fault Refusal := leaves s (receive 0x43 h payload s)
def execFaultRecordReceive (h : Header) (payload : Bytes) (s : State) : Host.Outcome State Fault Refusal := leaves s (receive 0x50 h payload s)
def execFaultNoticeReceive (h : Header) (payload : Bytes) (s : State) : Host.Outcome State Fault Refusal := leaves s (receive 0x51 h payload s)
def execXlateDropReceive (h : Header) (payload : Bytes) (s : State) : Host.Outcome State Fault Refusal := leaves s (receive 0x52 h payload s)

/-! ### Walks that met MIG (R318) -/

/-- Whether a page's leaf still has MIG set; the look itself leaves nothing. -/
def stillMoving (va : Nat) (s : State) : Bool :=
  (tlbFind s va).isNone &&
  match (walkPt va).go none s with
  | (.ok (.leaf _ mig), _) => mig
  | _ => false

/-- A task goes on after a walk: it begins again, or makes its access again. -/
def resumeTask (id : Nat) (s : State) : State :=
  match taskOf s id with
  | none => s
  | some t => match t.phase with
    | .migWait _ _ _ => beginOp t s
    | .running (.tableCommit tid ver) =>
      if (tabGet s tid).any (fun tab => tab.commit.any (·.task == id)) then s else refreshStart tid ver id s
    | .running (.memMigrate _) => moveStep id s
    | .running (.gradFlush _) => flushSettle id s
    | _ => s

/-- What waited for a walk on behalf of no task of a ring goes on: messages, host accesses, a conversion. -/
def resumeOthers (w : Walk) (s : State) : State :=
  let mine := s.fab.stalled.filter (fun m => m.1 == w.id)
  let s := { s with fab := { s.fab with stalled := s.fab.stalled.filter (fun m => m.1 != w.id) } }
  let s := mine.foldl (fun s m => deliverRun m.2.1 m.2.2 s) s
  let s := hostResume (fun r => r.page == some w.va) s
  match s.xl.convert with
  | some v => if bitsNat v 0 52 / 65536 * 65536 = w.va then convert v s else s
  | none => s

/-- WALK_MIG_RETRY: the walk is made again. While the page is still being moved it waits on, for 1 ms in all; then a speculative walk
is given up and a demand ends in MIGRATING. -/
def walkMigRetry (id : Nat) (s : State) : State :=
  match s.xl.walks.find? (fun w => w.id == id) with
  | none => s
  | some w => match w.mig with
    | none => s
    | some t =>
      let late := decide (1000 ≤ usSince s t)
      if stillMoving w.va s && !late then s
      else if w.spec then prefetchSweep (if late && stillMoving w.va s then dropWalk id s else specWalked w s)
      else dropWalk id (match w.task with | some k => resumeTask k s | none => resumeOthers w s)

def execWalkMigRetry (walk : Nat) (s : State) : Host.Outcome State Fault Refusal := leaves s (walkMigRetry walk s)

end Sys2Proof.Machine
end

