-- ==== Sys2Proof/Machine/Dispatch.lean ====
section
/-! DEFINITION. The effect of every command on everything but the queue of waiting commands. -/

namespace Sys2Proof.Machine

def exec (i : Instr) (s : State) : Host.Outcome State Fault Refusal :=
  match i with
  | .nop ring p => Sys2Proof.Machine.execNop ring p s
  | .hello ring p => Sys2Proof.Machine.execHello ring p s
  | .query ring p => Sys2Proof.Machine.execQuery ring p s
  | .fence ring p => Sys2Proof.Machine.execFence ring p s
  | .ringConfig ring p => Sys2Proof.Machine.execRingConfig ring p s
  | .tableDefine ring p => Sys2Proof.Machine.execTableDefine ring p s
  | .tableCommit ring p => Sys2Proof.Machine.execTableCommit ring p s
  | .tableRetire ring p => Sys2Proof.Machine.execTableRetire ring p s
  | .shardMapSet ring p => Sys2Proof.Machine.execShardMapSet ring p s
  | .tableSnapshot ring p => Sys2Proof.Machine.execTableSnapshot ring p s
  | .shardMigrate ring p => Sys2Proof.Machine.execShardMigrate ring p s
  | .lookupPool ring p => Sys2Proof.Machine.execLookupPool ring p s
  | .lookupGather ring p => Sys2Proof.Machine.execLookupGather ring p s
  | .slabGather ring p => Sys2Proof.Machine.execSlabGather ring p s
  | .lookahead ring p => Sys2Proof.Machine.execLookahead ring p s
  | .lookupCancel ring p => Sys2Proof.Machine.execLookupCancel ring p s
  | .gradScatter ring p => Sys2Proof.Machine.execGradScatter ring p s
  | .gradFlush ring p => Sys2Proof.Machine.execGradFlush ring p s
  | .updateApply ring p => Sys2Proof.Machine.execUpdateApply ring p s
  | .updateProgramLoad ring p => Sys2Proof.Machine.execUpdateProgramLoad ring p s
  | .atomicAdd ring p => Sys2Proof.Machine.execAtomicAdd ring p s
  | .streamArm ring p => Sys2Proof.Machine.execStreamArm ring p s
  | .streamRearm ring p => Sys2Proof.Machine.execStreamRearm ring p s
  | .streamCancel ring p => Sys2Proof.Machine.execStreamCancel ring p s
  | .semSet ring p => Sys2Proof.Machine.execSemSet ring p s
  | .semSignal ring p => Sys2Proof.Machine.execSemSignal ring p s
  | .semWait ring p => Sys2Proof.Machine.execSemWait ring p s
  | .culvertWrite ring p => Sys2Proof.Machine.execCulvertWrite ring p s
  | .relayChainSet ring p => Sys2Proof.Machine.execRelayChainSet ring p s
  | .xlatePrefetch ring p => Sys2Proof.Machine.execXlatePrefetch ring p s
  | .memAdvise ring p => Sys2Proof.Machine.execMemAdvise ring p s
  | .memMigrate ring p => Sys2Proof.Machine.execMemMigrate ring p s
  | .faultResolve ring p => Sys2Proof.Machine.execFaultResolve ring p s
  | .ptInvalidate ring p => Sys2Proof.Machine.execPtInvalidate ring p s
  | .placementRegionSet ring p => Sys2Proof.Machine.execPlacementRegionSet ring p s
  | .bermConfig ring p => Sys2Proof.Machine.execBermConfig ring p s
  | .bermPin ring p => Sys2Proof.Machine.execBermPin ring p s
  | .bermFlush ring p => Sys2Proof.Machine.execBermFlush ring p s
  | .govPolicy ring p => Sys2Proof.Machine.execGovPolicy ring p s
  | .timeCtl ring p => Sys2Proof.Machine.execTimeCtl ring p s
  | .gaugeRead ring p => Sys2Proof.Machine.execGaugeRead ring p s
  | .configStage ring p => Sys2Proof.Machine.execConfigStage ring p s
  | .configCommit ring p => Sys2Proof.Machine.execConfigCommit ring p s
  | .diagInject ring p => Sys2Proof.Machine.execDiagInject ring p s
  | .repairCtl ring p => Sys2Proof.Machine.execRepairCtl ring p s
  | .selftest ring p => Sys2Proof.Machine.execSelftest ring p s
  | .doorbellWrite ring size value => Sys2Proof.Machine.execDoorbellWrite ring size value s
  | .completionWrite task => Sys2Proof.Machine.execCompletionWrite task s
  | .ringDrainEnd ring => Sys2Proof.Machine.execRingDrainEnd ring s
  | .configCommitPoint => Sys2Proof.Machine.execConfigCommitPoint s
  | .sluicePointerMismatch polder => Sys2Proof.Machine.execSluicePointerMismatch polder s
  | .windowAdmit task => Sys2Proof.Machine.execWindowAdmit task s
  | .indexListReceive h payload => Sys2Proof.Machine.execIndexListReceive h payload s
  | .partialSumReceive h payload => Sys2Proof.Machine.execPartialSumReceive h payload s
  | .cancelReceive h payload => Sys2Proof.Machine.execCancelReceive h payload s
  | .taskAckReceive h payload => Sys2Proof.Machine.execTaskAckReceive h payload s
  | .bermFillComplete fetch => Sys2Proof.Machine.execBermFillComplete fetch s
  | .gradBucketReceive h payload => Sys2Proof.Machine.execGradBucketReceive h payload s
  | .bucketExpand => Sys2Proof.Machine.execBucketExpand s
  | .cucRowUpdate task localBlock offset => Sys2Proof.Machine.execCucRowUpdate task localBlock offset s
  | .updateRowReceive h payload => Sys2Proof.Machine.execUpdateRowReceive h payload s
  | .atomicGroupReceive h payload => Sys2Proof.Machine.execAtomicGroupReceive h payload s
  | .atomicDoneReceive h payload => Sys2Proof.Machine.execAtomicDoneReceive h payload s
  | .tableCommitPoint tid => Sys2Proof.Machine.execTableCommitPoint tid s
  | .versionFree tid version => Sys2Proof.Machine.execVersionFree tid version s
  | .migrateDataReceive h payload => Sys2Proof.Machine.execMigrateDataReceive h payload s
  | .commandForwardReceive h payload => Sys2Proof.Machine.execCommandForwardReceive h payload s
  | .bermConfigApply => Sys2Proof.Machine.execBermConfigApply s
  | .bermAgeing => Sys2Proof.Machine.execBermAgeing s
  | .bermMacroTest => Sys2Proof.Machine.execBermMacroTest s
  | .bermMacroTestEnd outcome => Sys2Proof.Machine.execBermMacroTestEnd outcome s
  | .streamTileWrite stream => Sys2Proof.Machine.execStreamTileWrite stream s
  | .streamTileLanded stream => Sys2Proof.Machine.execStreamTileLanded stream s
  | .remoteWriteReceive h payload => Sys2Proof.Machine.execRemoteWriteReceive h payload s
  | .relayChunkReceive h payload => Sys2Proof.Machine.execRelayChunkReceive h payload s
  | .relayHopSetReceive h payload => Sys2Proof.Machine.execRelayHopSetReceive h payload s
  | .semOpReceive h payload => Sys2Proof.Machine.execSemOpReceive h payload s
  | .watchdogFire => Sys2Proof.Machine.execWatchdogFire s
  | .walkComplete walk => Sys2Proof.Machine.execWalkComplete walk s
  | .walkMigRetry walk => Sys2Proof.Machine.execWalkMigRetry walk s
  | .faultRecordReceive h payload => Sys2Proof.Machine.execFaultRecordReceive h payload s
  | .faultNoticeReceive h payload => Sys2Proof.Machine.execFaultNoticeReceive h payload s
  | .faultBatchClose => Sys2Proof.Machine.execFaultBatchClose s
  | .faultBatchWrite => Sys2Proof.Machine.execFaultBatchWrite s
  | .xlateDropReceive h payload => Sys2Proof.Machine.execXlateDropReceive h payload s
  | .xlateReq value => Sys2Proof.Machine.execXlateReq value s
  | .siteOffline unit => Sys2Proof.Machine.execSiteOffline unit s
  | .hbmRowCeReport stack pc bank row => Sys2Proof.Machine.execHbmRowCeReport stack pc bank row s
  | .govUpdate t0 t1 => Sys2Proof.Machine.execGovUpdate t0 t1 s
  | .mr4Read highest => Sys2Proof.Machine.execMr4Read highest s
  | .hbmPprCountSpares value => Sys2Proof.Machine.execHbmPprCountSpares value s
  | .hbmPprRepair value => Sys2Proof.Machine.execHbmPprRepair value s
  | .hbmPprDone result spares => Sys2Proof.Machine.execHbmPprDone result spares s
  | .hbmOnlineWrite value => Sys2Proof.Machine.execHbmOnlineWrite value s
  | .hostLinkUp link width rate => Sys2Proof.Machine.execHostLinkUp link width rate s
  | .hostLinkLost link => Sys2Proof.Machine.execHostLinkLost link s
  | .hostWindowAccess link offset len data => Sys2Proof.Machine.execHostWindowAccess link offset len data s
  | .apertureWrite offset data => Sys2Proof.Machine.execApertureWrite offset data s
  | .apertureRead offset len => Sys2Proof.Machine.execApertureRead offset len s
  | .placeFenceRead => Sys2Proof.Machine.execPlaceFenceRead s
  | .hostSnoop link line => Sys2Proof.Machine.execHostSnoop link line s
  | .birspiReceive link line data => Sys2Proof.Machine.execBirspiReceive link line data s
  | .nearRetry request nacked => Sys2Proof.Machine.execNearRetry request nacked s
  | .probePeriod => Sys2Proof.Machine.execProbePeriod s
  | .probeReceive port h => Sys2Proof.Machine.execProbeReceive port h s
  | .probeReplyReceive port h => Sys2Proof.Machine.execProbeReplyReceive port h s
  | .portLinkDown port => Sys2Proof.Machine.execPortLinkDown port s
  | .ackReceive h payload => Sys2Proof.Machine.execAckReceive h payload s
  | .ackSend dst => Sys2Proof.Machine.execAckSend dst s
  | .nackReceive h payload => Sys2Proof.Machine.execNackReceive h payload s
  | .messageResend msgId => Sys2Proof.Machine.execMessageResend msgId s
  | .peerDownReceive h payload => Sys2Proof.Machine.execPeerDownReceive h payload s
  | .d2dDieLost slot => Sys2Proof.Machine.execD2dDieLost slot s
  | .creditReqReceive h payload => Sys2Proof.Machine.execCreditReqReceive h payload s
  | .creditGrantReceive h payload => Sys2Proof.Machine.execCreditGrantReceive h payload s
  | .creditLapse peer relay grantor => Sys2Proof.Machine.execCreditLapse peer relay grantor s
  | .msgIdExpire e => Sys2Proof.Machine.execMsgIdExpire e s
  | .fabRevive value => Sys2Proof.Machine.execFabRevive value s
  | .xtalSettleEnd => Sys2Proof.Machine.execXtalSettleEnd s
  | .clockWindowEnd count test => Sys2Proof.Machine.execClockWindowEnd count test s
  | .xtalEdgeLoss => Sys2Proof.Machine.execXtalEdgeLoss s
  | .pllLock => Sys2Proof.Machine.execPllLock s
  | .pllLockLoss => Sys2Proof.Machine.execPllLockLoss s
  | .pllLockTimeout => Sys2Proof.Machine.execPllLockTimeout s
  | .clockRampStep => Sys2Proof.Machine.execClockRampStep s
  | .rcoDirectRetry => Sys2Proof.Machine.execRcoDirectRetry s
  | .clkTest value => Sys2Proof.Machine.execClkTest value s
  | .timeAnnouncePeriod => Sys2Proof.Machine.execTimeAnnouncePeriod s
  | .timeAnnounceReceive h payload => Sys2Proof.Machine.execTimeAnnounceReceive h payload s
  | .announceExpire src => Sys2Proof.Machine.execAnnounceExpire src s
  | .timeSyncPeriod => Sys2Proof.Machine.execTimeSyncPeriod s
  | .timeSyncReceive h payload => Sys2Proof.Machine.execTimeSyncReceive h payload s
  | .timeDelayReqReceive h payload => Sys2Proof.Machine.execTimeDelayReqReceive h payload s
  | .timeDelayRespReceive h payload => Sys2Proof.Machine.execTimeDelayRespReceive h payload s
  | .holdoverEnter => Sys2Proof.Machine.execHoldoverEnter s
  | .holdoverExpire => Sys2Proof.Machine.execHoldoverExpire s
  | .ppsRise => Sys2Proof.Machine.execPpsRise s
  | .ppsFall => Sys2Proof.Machine.execPpsFall s
  | .gaugeInterval eCore eHbmRail engineBeats allBeats => Sys2Proof.Machine.execGaugeInterval eCore eHbmRail engineBeats allBeats s
  | .gaugeMdieReport energy => Sys2Proof.Machine.execGaugeMdieReport energy s
  | .gaugeSupervisionWindow edges => Sys2Proof.Machine.execGaugeSupervisionWindow edges s
  | .gaugePowerUp calFail => Sys2Proof.Machine.execGaugePowerUp calFail s
  | .gaugeSign => Sys2Proof.Machine.execGaugeSign s
  | .metrologyRead kind nonce => Sys2Proof.Machine.execMetrologyRead kind nonce s
  | .metrologyInject detector => Sys2Proof.Machine.execMetrologyInject detector s
  | .metrologyCalWrite word value => Sys2Proof.Machine.execMetrologyCalWrite word value s
  | .sealBlow => Sys2Proof.Machine.execSealBlow s
  | .laneTest polder => Sys2Proof.Machine.execLaneTest polder s
  | .csramMacroTest polder => Sys2Proof.Machine.execCsramMacroTest polder s
  | .cpHeartbeatTimeout => Sys2Proof.Machine.execCpHeartbeatTimeout s
  | .injectionArmTime => Sys2Proof.Machine.execInjectionArmTime s
  | .injCtlWrite value => Sys2Proof.Machine.execInjCtlWrite value s
  | .railFault rail => Sys2Proof.Machine.execRailFault rail s
  | .coldReset => Sys2Proof.Machine.execColdReset s
  | .coldResetRelease => Sys2Proof.Machine.execColdResetRelease s
  | .bootSelftest found => Sys2Proof.Machine.execBootSelftest found s
  | .engReset => Sys2Proof.Machine.execEngReset s
  | .fwLoad => Sys2Proof.Machine.execFwLoad s
  | .svnCommit => Sys2Proof.Machine.execSvnCommit s
  | .cfgCommit => Sys2Proof.Machine.execCfgCommit s
  | .rctBaseWrite value => Sys2Proof.Machine.execRctBaseWrite value s
  | .ring0Enable => Sys2Proof.Machine.execRing0Enable s
  | .ring0Disable => Sys2Proof.Machine.execRing0Disable s
  | .stageWrite offset value => Sys2Proof.Machine.execStageWrite offset value s
  | .stageDiscard => Sys2Proof.Machine.execStageDiscard s
  | .irqMaskWrite value => Sys2Proof.Machine.execIrqMaskWrite value s
  | .registerWrite offset size value => Sys2Proof.Machine.execRegisterWrite offset size value s
  | .memoryTrained hbmRate lpRate => Sys2Proof.Machine.execMemoryTrained hbmRate lpRate s
  | .metrologySessionOpen calWrite => Sys2Proof.Machine.execMetrologySessionOpen calWrite s
  | .laneTestEnd polder pass => Sys2Proof.Machine.execLaneTestEnd polder pass s
  | .csramMacroTestEnd polder outcome => Sys2Proof.Machine.execCsramMacroTestEnd polder outcome s
  | .repairApplyPoint => Sys2Proof.Machine.execRepairApplyPoint s
  | .selftestRun found => Sys2Proof.Machine.execSelftestRun found s
  | .misalignedRegisterRead offset size => Sys2Proof.Machine.execMisalignedRegisterRead offset size s

end Sys2Proof.Machine
end

