-- ==== Sys2Proof/Machine/Step.lean ====
section
/-! DEFINITION. One step: the command at the front of the queue, or a CLK_TIME edge where none waits (log entry 2). -/

namespace Sys2Proof.Machine

/-- Take the command at the front of the queue and run it with the queue's rest; with none waiting, one edge of CLK_TIME
passes, and a packet that no row stands for is accepted (log entry 78). -/
def step (s : State) : Host.Outcome State Fault Refusal :=
  match s.pending with
  | [] => leaves s (takeUnlisted (clockEdge s))
  | c :: rest => exec c { s with pending := rest }

/-- The state with the command that a word spells put at the front of its queue; no word spells one. -/
def State.withFetchWord (s : State) (nbits w : Nat) : State :=
  match decodeTableWord nbits w with
  | none => s
  | some c => { s with pending := c :: s.pending }

end Sys2Proof.Machine
end

