-- ==== Sys2Proof/Safety.lean ====
section
/-! DEFINITION. What claims are stated in: the invariant that every step keeps, and how the engine accepts a packet. -/

namespace Sys2Proof.Machine

/-! ### The invariant -/

/-- No register holds a bit that its field map reserves (R4, Table Reg-1), and every task's number lies below the next one to be
given (log entry 22). -/
def State.Inv (s : State) : Prop := s.regs.tidy = s.regs ∧ ∀ t ∈ s.cmd.tasks, t.id < s.cmd.nextTask

/-! ### Acceptance of a packet (R45, R46) -/

/-- The packet as the task keeps it: QUIET is set where the ring's flags ask for it (Table Cmd-2). -/
def keptPacket (s : State) (n : Nat) (p : Packet) : Packet := taskPacket true (ringGet s n) p

/-- The task of a packet accepted now. -/
def packetTask (op : Byte) (n : Nat) (p : Packet) (s : State) : Task :=
  newTask s.cmd.nextTask n op (keptPacket s n p) (ringGet s n).proto (liveCfg s)

/-- The state once a packet has been read as the task `t`: its ring's sq_head and RCT entry, the counts and turns, and its task, not
begun. -/
def tookTask (op : Byte) (n : Nat) (t : Task) (s : State) : State :=
  let r := ringGet s n
  let s1 := noteTurn n (countAccept op (ringSet n { r with sqHead := r.sqHead + 1 } s))
  { s1 with cmd := { s1.cmd with nextTask := s.cmd.nextTask + 1, tasks := s1.cmd.tasks ++ [t] } }

/-- The same for a packet whose CRC holds. -/
def tookPacket (op : Byte) (n : Nat) (p : Packet) (s : State) : State := tookTask op n (packetTask op n p s) s

/-- The engine would read a packet of this opcode from this ring now, the ring's RCT entry is sound, no line of the slot is poisoned,
nothing is injected, and the packet's CRC holds (R36, R32, R41, Table Mem-6). -/
def Reads (op : Byte) (n : Nat) (p : Packet) (s : State) : Prop :=
  mayAccept s op n = true ∧ rctOk n s = (true, false, s) ∧ slotPoison n s = (false, s) ∧ s.rep.inj = none ∧ packetCrcOk op p = true

/-- The packet passes steps 1 to 4 of R45 too, those of its opcode being `step4`. -/
def Accepts (op : Byte) (step4 : Byte → Packet → Checks) (n : Nat) (p : Packet) (s : State) : Prop :=
  Reads op n p s ∧
  headChecks op n (ringGet s n).proto ((ringGet s n).sqHead.toNat % ringDepth (ringGet s n)) true p = none ∧
  step4Fail op (ringGet s n).proto p (step4 (ringGet s n).proto p) = none

/-- A task of a state may start: no full fault collector turns it away, and ORDERED does not hold it (R340, Table Cmd-5). -/
def mayBegin (t : Task) (s : State) : Bool := !(s.xl.overflow && !overflowExempt t.op) && !(pOrdered t.pkt && earlierTask s t)

/-- The phase of the task of a number. -/
def phaseOf (s : State) (id : Nat) : Option Phase := (taskOf s id).map (·.phase)

/-! ### Messages (R403 to R417) -/

/-- The command by which a message of a type arrives (Table Fab-4); a PROBE and its reply come with their port. -/
def messageCommand : Nat → Option (Header → Bytes → Instr)
  | 0x03 => some .ackReceive
  | 0x04 => some .nackReceive
  | 0x05 => some .creditReqReceive
  | 0x06 => some .creditGrantReceive
  | 0x07 => some .peerDownReceive
  | 0x10 => some .indexListReceive
  | 0x11 => some .partialSumReceive
  | 0x12 => some .taskAckReceive
  | 0x13 => some .cancelReceive
  | 0x20 => some .gradBucketReceive
  | 0x21 => some .updateRowReceive
  | 0x22 => some .atomicGroupReceive
  | 0x23 => some .atomicDoneReceive
  | 0x30 => some .remoteWriteReceive
  | 0x31 => some .relayChunkReceive
  | 0x32 => some .semOpReceive
  | 0x33 => some .relayHopSetReceive
  | 0x34 => some .commandForwardReceive
  | 0x35 => some .migrateDataReceive
  | 0x40 => some .timeAnnounceReceive
  | 0x41 => some .timeSyncReceive
  | 0x42 => some .timeDelayReqReceive
  | 0x43 => some .timeDelayRespReceive
  | 0x50 => some .faultRecordReceive
  | 0x51 => some .faultNoticeReceive
  | 0x52 => some .xlateDropReceive
  | _ => none

/-- The engine takes messages: it is out of reset, has not failed, and its fast path runs. -/
def Listens (s : State) : Prop := s.boot.inReset = false ∧ s.rep.failed = false ∧ fastServed s = true ∧ s.rep.inj = none

/-- A message of another engine that is not lost, sound in its header, of this partition, for this engine (R403, R398, R418). -/
def Heard (h : Header) (s : State) : Prop :=
  Listens s ∧ hSrc h ≠ (ownEid s).toNat ∧ headerCrcOk h = true ∧ hPartition h = partitionOf s ∧ fabEnabled s = true ∧
  hDst h = (ownEid s).toNat ∧ isLost s (hSrc h) = false

/-- Such a message passes every further check of its arrival. -/
def Delivers (ty : Nat) (h : Header) (b : Bytes) (s : State) : Prop :=
  Heard h s ∧ badMessage ty h b = false ∧ tooOld h s = false ∧ (keptType ty && alreadySeen h s) = false ∧
  (hCtrl h = true → crcHolds b = true) ∧ (hCls h = 3 → creditUnits b.length ≤ grantLeft s (hSrc h) (relayType ty))

/-- The state once a message has been accepted: its credit used, its number remembered, its acknowledgement owed unless its bytes must
land first. -/
def noted (h : Header) (b : Bytes) (s : State) : State :=
  { s with fab := { s.fab with
    grants := (useGrant h b s).fab.grants
    seen := if keptType (hTyp h) then s.fab.seen ++ [(hSrc h, BitVec.ofNat 32 (hMsgId h), now s)] else s.fab.seen
    acksDue := if keptType (hTyp h) && !ackLate (hTyp h) then s.fab.acksDue ++ [(hSrc h, BitVec.ofNat 32 (hMsgId h))] else s.fab.acksDue } }

/-- How far a message is ahead of its flow's next turn. -/
def ahead (h : Header) (s : State) : Nat := (BitVec.ofNat 16 (hFseq h) - nextFseq s (flowOf h)).toNat

/-- What a message does at its receiver. -/
def deliverTo (h : Header) (b : Bytes) (s : State) : Except Stop Unit × State :=
  (serving (hSrc h) (hTask h) (hTag h) (deliverAny h b)).go none s

/-! ### Packets (R45, R46)

What the packet of each opcode is checked and begun with. -/

/-- The command by which a packet of an opcode is accepted (Tables Cmd-7 and Cmd-8). -/
def packetCommand : Nat → Option (Nat → Packet → Instr)
  | 0x00 => some .nop
  | 0x01 => some .hello
  | 0x02 => some .query
  | 0x03 => some .fence
  | 0x08 => some .ringConfig
  | 0x10 => some .tableDefine
  | 0x11 => some .tableCommit
  | 0x12 => some .tableRetire
  | 0x13 => some .shardMapSet
  | 0x14 => some .tableSnapshot
  | 0x15 => some .shardMigrate
  | 0x20 => some .lookupPool
  | 0x21 => some .lookupGather
  | 0x22 => some .slabGather
  | 0x23 => some .lookahead
  | 0x24 => some .lookupCancel
  | 0x30 => some .gradScatter
  | 0x31 => some .gradFlush
  | 0x32 => some .updateApply
  | 0x33 => some .updateProgramLoad
  | 0x34 => some .atomicAdd
  | 0x40 => some .streamArm
  | 0x41 => some .streamRearm
  | 0x42 => some .streamCancel
  | 0x43 => some .semSet
  | 0x44 => some .semSignal
  | 0x45 => some .semWait
  | 0x46 => some .culvertWrite
  | 0x47 => some .relayChainSet
  | 0x50 => some .xlatePrefetch
  | 0x51 => some .memAdvise
  | 0x52 => some .memMigrate
  | 0x53 => some .faultResolve
  | 0x54 => some .ptInvalidate
  | 0x55 => some .placementRegionSet
  | 0x60 => some .bermConfig
  | 0x61 => some .bermPin
  | 0x62 => some .bermFlush
  | 0x70 => some .govPolicy
  | 0x71 => some .timeCtl
  | 0x72 => some .gaugeRead
  | 0x78 => some .configStage
  | 0x79 => some .configCommit
  | 0x7C => some .diagInject
  | 0x7D => some .repairCtl
  | 0x7E => some .selftest
  | _ => none

/-- Its own checks of step 4. -/
def packetStep4 : Nat → Byte → Packet → Checks
  | 0x00 => noStep4
  | 0x01 => helloStep4
  | 0x02 => queryStep4
  | 0x03 => fenceStep4
  | 0x08 => ringConfigStep4
  | 0x10 => tableDefineStep4
  | 0x11 => tableCommitStep4
  | 0x12 => tableRetireStep4
  | 0x13 => shardMapStep4
  | 0x14 => snapshotStep4
  | 0x15 => migrateStep4
  | 0x20 => lookupPoolStep4
  | 0x21 => lookupGatherStep4
  | 0x22 => slabGatherStep4
  | 0x23 => lookaheadStep4
  | 0x24 => lookupCancelStep4
  | 0x30 => gradScatterStep4
  | 0x31 => gradFlushStep4
  | 0x32 => updateApplyStep4
  | 0x33 => programLoadStep4
  | 0x34 => atomicAddStep4
  | 0x40 => armStep4
  | 0x41 => rearmStep4
  | 0x42 => streamCancelStep4
  | 0x43 => noStep4
  | 0x44 => noStep4
  | 0x45 => semWaitStep4
  | 0x46 => culvertStep4
  | 0x47 => relaySetStep4
  | 0x50 => prefetchStep4
  | 0x51 => adviseStep4
  | 0x52 => migrateStep4'
  | 0x53 => noStep4
  | 0x54 => invalidateStep4
  | 0x55 => regionStep4
  | 0x60 => bermConfigStep4
  | 0x61 => bermPinStep4
  | 0x62 => bermFlushStep4
  | 0x70 => govPolicyStep4
  | 0x71 => timeCtlStep4
  | 0x72 => gaugeReadStep4
  | 0x78 => configStageStep4
  | 0x79 => configCommitStep4
  | 0x7C => diagInjectStep4
  | 0x7D => repairStep4
  | 0x7E => selftestStep4
  | _ => noStep4

/-- Its checks of steps 5 and 6, where its effect comes after them. -/
def packetCheck : Nat → Option (Task → Act Unit)
  | 0x00 => some noCheck
  | 0x01 => some helloCheck
  | 0x02 => some queryCheck
  | 0x03 => some noCheck
  | 0x11 => some tableCommitCheck
  | 0x12 => some tableRetire
  | 0x14 => some snapshotCheck
  | 0x20 => some lookupPoolCheck
  | 0x21 => some lookupGatherCheck
  | 0x22 => some slabGatherCheck
  | 0x23 => some indexOnlyCheck
  | 0x24 => some noCheck
  | 0x30 => some gradScatterCheck
  | 0x31 => some gradFlushCheck
  | 0x32 => some updateApplyCheck
  | 0x34 => some atomicAddCheck
  | 0x41 => some rearmCheck
  | 0x42 => some streamCancelCheck
  | 0x43 => some noCheck
  | 0x44 => some noCheck
  | 0x45 => some noCheck
  | 0x50 => some prefetchCheck
  | 0x51 => some adviseCheck
  | 0x52 => some migrateCheck'
  | 0x53 => some resolveCheck
  | 0x54 => some noCheck
  | 0x60 => some bermConfigCheck
  | 0x61 => some indexOnlyCheck
  | 0x62 => some bermFlushCheck
  | 0x72 => some gaugeReadCheck
  | 0x79 => some configCommitCheck
  | 0x7D => some repairCheck
  | 0x7E => some selftestCheck
  | _ => none

/-- Its checks of steps 5 and 6 with its effect, where they are one access. -/
def packetWhole : Nat → Option (Task → Act Unit)
  | 0x08 => some ringConfigWhole
  | 0x10 => some (fun t => do tableDefine t; modify (finishOk t.id 0))
  | 0x13 => some shardMapWhole
  | 0x15 => some migrateAccept
  | 0x33 => some programLoad
  | 0x40 => some armWhole
  | 0x46 => some culvertWhole
  | 0x47 => some relaySetWhole
  | 0x55 => some regionWhole
  | 0x70 => some govPolicyWhole
  | 0x71 => some timeCtl
  | 0x78 => some configStageWhole
  | 0x7C => some diagInjectWhole
  | _ => none

/-- The state that the checks of steps 5 and 6 start from: a HELLO has bound its ring to the version chosen by then (R56). -/
def atChecks (op n : Nat) (p : Packet) (s : State) : State :=
  let u := tookPacket (BitVec.ofNat 8 op) n p s
  if op = 0x01 then helloBind s.cmd.nextTask u else u

/-- A packet is accepted, its checks leave the state `u` with its task `t`, and nothing holds the task. -/
def Starts (op n : Nat) (p : Packet) (s u : State) (t : Task) : Prop :=
  Accepts (BitVec.ofNat 8 op) (packetStep4 op) n p s ∧
  (∃ c, packetCheck op = some c ∧
    (c (packetTask (BitVec.ofNat 8 op) n p s)).go (some s.cmd.nextTask) (atChecks op n p s) = (.ok (), u)) ∧
  taskOf u s.cmd.nextTask = some t ∧ t.op = BitVec.ofNat 8 op ∧ t.early = none ∧ mayBegin t u = true

/-- A packet is accepted, its one access leaves the state `u`, and nothing holds its task. -/
def Runs (op n : Nat) (p : Packet) (s u : State) : Prop :=
  Accepts (BitVec.ofNat 8 op) (packetStep4 op) n p s ∧
  (∃ w, packetWhole op = some w ∧
    (w (packetTask (BitVec.ofNat 8 op) n p s)).go (some s.cmd.nextTask) (tookPacket (BitVec.ofNat 8 op) n p s) = (.ok (), u)) ∧
  mayBegin (packetTask (BitVec.ofNat 8 op) n p s) (tookPacket (BitVec.ofNat 8 op) n p s) = true

/-! ### Frames -/

/-- No copy of a line of the error log's ring is held by the host or the near-add cache. -/
def LogClear (s : State) : Prop :=
  (∀ d ∈ s.host.dir, d.line * 64 < errRingBase s ∨ errRingBase s + 64 * 2 ^ errElog2 s ≤ d.line * 64) ∧
  ∀ x ∈ s.host.near, x.link = none → x.line * 64 < errRingBase s ∨ errRingBase s + 64 * 2 ^ errElog2 s ≤ x.line * 64

/-- What an error record on its way to the log touches at most (R465, R471 to R473): the log's own counts and buffer, its ring in
device memory, the pending event and table bits, and the messages sent. Copies that the host or the near-add cache hold of a line of
the ring are asked back (R391). -/
structure LogOnly (s t : State) : Prop where
  fuses : t.fuses = s.fuses
  boot : t.boot = s.boot
  tab : t.tab = s.tab
  hold : t.hold = s.hold
  grad : t.grad = s.grad
  berm : t.berm = s.berm
  strm : t.strm = s.strm
  xl : t.xl = s.xl
  gov : t.gov = s.gov
  host : { t.host with near := s.host.near, backInv := s.host.backInv, bisnp := s.host.bisnp } = s.host
  fab : t.fab = s.fab
  clk : t.clk = s.clk
  time : t.time = s.time
  gauge : t.gauge = s.gauge
  draws : t.draws = s.draws
  pending : t.pending = s.pending
  tasks : t.cmd.tasks = s.cmd.tasks
  rings : t.cmd.rings = s.cmd.rings
  nextTask : t.cmd.nextTask = s.cmd.nextTask
  counts : { t.cmd with msix := s.cmd.msix } = s.cmd
  regs : { t.regs with irqPend := s.regs.irqPend, msixPend := s.regs.msixPend } = s.regs
  memory : { t.mem with dev := s.mem.dev, poison := s.mem.poison } = s.mem
  ring : ∀ a, a < errRingBase s ∨ errRingBase s + 64 * 2 ^ errElog2 s ≤ a → Memory.get t.mem.dev a = Memory.get s.mem.dev a
  repair : { t.rep with prod := s.rep.prod, lost := s.rep.lost, sev0 := s.rep.sev0, sev1 := s.rep.sev1, sev2 := s.rep.sev2, buffer := s.rep.buffer, fired := s.rep.fired, quiet := s.rep.quiet } = s.rep

end Sys2Proof.Machine
end

