-- ==== Sys2Proof/Certificates/Slice0/Obligations.lean ====
section
/-! DEFINITION. The statements for the provers: what each command does, what holds of the block as a whole, and what no command
changes. Each docstring names the rules of spec/ that it rests on. -/

open Sys2Proof Sys2Proof.Machine

/-! ### The block as a whole, formats and policy -/

/-- A step with a command at the front of the queue is that command's execution with the queue's rest; with none waiting, one edge of
CLK_TIME passes (log entry 2), and a packet at the head of the next ring whose opcode has no row is accepted (log entry 78). -/
def Obligations.StepRunsFront : Prop :=
  ∀ (s : State) (c : Instr) (rest : List Instr),
    step { s with pending := c :: rest } = exec c { s with pending := rest } ∧
    (s.pending = [] → step s = leaves s (takeUnlisted (clockEdge s)))

/-- The invariant is kept by every step. -/
def Obligations.StepKeepsInv : Prop := ∀ (s s' : State), s.Inv → step s = .next s' → s'.Inv

/-- R450, R451, R492: over any step the anti-rollback floor and the Gauge's epochs never fall, a blown seal stays blown, and behind it
the calibration words stay as they are. Register writes aside, one of which may carry svn_commit, the floor rises by SVN_COMMIT alone,
epochs by the island's power-up, the seal by its blow, and the calibration changes by the test port. No other fuse changes, save the
field repair bank, which repairs burn (R460). -/
def Obligations.FusesOnlyBurn : Prop :=
  ∀ (s t : State) (c : Instr),
    (∀ u, step s = .next u → s.fuses.svnFloor ≤ u.fuses.svnFloor ∧ s.fuses.epochBits ≤ u.fuses.epochBits ∧
      (s.fuses.sealed = true → u.fuses.sealed = true ∧ u.fuses.cal = s.fuses.cal) ∧
      { u.fuses with svnFloor := s.fuses.svnFloor, epochBits := s.fuses.epochBits, sealed := s.fuses.sealed, cal := s.fuses.cal
                     field := s.fuses.field } = s.fuses) ∧
    (exec c s = .next t → (∀ o n v, c ≠ .registerWrite o n v) →
      (c ≠ .svnCommit → t.fuses.svnFloor = s.fuses.svnFloor) ∧
      ((∀ k, c ≠ .gaugePowerUp k) → t.fuses.epochBits = s.fuses.epochBits) ∧
      (c ≠ .sealBlow → t.fuses.sealed = s.fuses.sealed) ∧
      ((∀ w v, c ≠ .metrologyCalWrite w v) → t.fuses.cal = s.fuses.cal))

/-! ### Packets -/

/-- R45, R46, R318, R340, Table Cmd-5: a packet that passes steps 5 and 6 starts. One that fails them ends with the failing check; one
that meets a page being moved begins again 1 µs later, with nothing kept but the version it bound; a full fault collector turns it
away with BUSY, resource 9; one with ORDERED behind an earlier task of its ring is held. RING_CONFIG, GOV_POLICY, TIME_CTL and
DIAG_INJECT take effect at their acceptance: where ORDERED holds one, its completion waits (log entry 34). -/
def Obligations.PacketsStart : Prop :=
  ∀ (s u v : State) (op n id : Nat) (c : Nat → Packet → Instr) (p : Packet) (t : Task) (r : Result) (a : Task → Act Unit), s.Inv →
    packetCommand op = some c → id = s.cmd.nextTask →
    (Starts op n p s u t → exec (c n p) s = leaves s (startOp t u)) ∧
    (Runs op n p s u → exec (c n p) s = leaves s u) ∧
    (Accepts (BitVec.ofNat 8 op) (packetStep4 op) n p s → packetCheck op = some a ∨ packetWhole op = some a →
      (a (packetTask (BitVec.ofNat 8 op) n p s)).go (some id) (atChecks op n p s) = (.error (.fail r), u) →
      exec (c n p) s = leaves s (finishTask id r u)) ∧
    (∀ va w, Accepts (BitVec.ofNat 8 op) (packetStep4 op) n p s → packetCheck op = some a ∨ packetWhole op = some a →
      v = atChecks op n p s → (a (packetTask (BitVec.ofNat 8 op) n p s)).go (some id) v = (.error (.mig va w), u) →
      (∀ x ∈ s.xl.walks, x.task ≠ some id) →
      exec (c n p) s = leaves s (mapTask id
        (fun t => { t with phase := .migWait va w (tick v), bind := t.bind.orElse fun _ => (taskOf u id).bind (·.bind) }) { v with xl := { v.xl with
          walks := v.xl.walks ++ [⟨v.xl.nextWalk, va, w, false, some id, none, some (tick v)⟩], nextWalk := v.xl.nextWalk + 1 } })) ∧
    (Accepts (BitVec.ofNat 8 op) (packetStep4 op) n p s → packetCheck op = some a →
      (a (packetTask (BitVec.ofNat 8 op) n p s)).go (some id) (atChecks op n p s) = (.ok (), u) →
      taskOf u id = some t → t.op = BitVec.ofNat 8 op →
      (u.xl.overflow = true → overflowExempt t.op = false → exec (c n p) s = leaves s (finishTask id (rBusy 9) u)) ∧
      ((u.xl.overflow && !overflowExempt t.op) = false → pOrdered t.pkt = true → earlierTask u t = true →
        (op = 0x60 → pf p 8 1 ≠ u.berm.size ∨ pf p 9 1 ≠ u.berm.share) →
        exec (c n p) s = leaves s (mapTask id (fun t => { t with phase := .held }) u))) ∧
    (op ∈ [0x08, 0x70, 0x71, 0x7C] → Accepts (BitVec.ofNat 8 op) (packetStep4 op) n p s → packetWhole op = some a →
      v = tookPacket (BitVec.ofNat 8 op) n p s → (a (packetTask (BitVec.ofNat 8 op) n p s)).go (some id) v = (.ok (), u) →
      v.xl.overflow = false → pOrdered p = true → earlierTask v (packetTask (BitVec.ofNat 8 op) n p s) = true →
      exec (c n p) s = leaves s (mapTask id (fun t => match t.phase with
        | .done r => { t with phase := .held, early := some r }
        | _ => t) u))

/-- What the packets that control the engine do where they start. NOP ends (R55). HELLO without a capability address binds its ring to
the version chosen and names it, and ends with BAD_VERSION where none can be (R56). FENCE ends where no task of its scope is left,
else waits for those (R47, R50). Semaphores: set, signalled here, at another engine, at a lost one; waited for (R292 to R294).
CONFIG_STAGE stages all its entries or none (R61, R516); CONFIG_COMMIT discards or waits for its commit point (R62). DIAG_INJECT
(R480), REPAIR_CTL's blow, its levels 1 and 2 at once, 3 and 4 later (R478, R479), and SELFTEST (R494). RING_CONFIG creates and resets
a disabled ring (R34, R35). BERM_CONFIG changes the threshold at once, sizes later (R253, R254). -/
def Obligations.ControlPacketsAct : Prop :=
  ∀ (s u : State) (n id : Nat) (p : Packet) (t : Task), s.Inv → id = s.cmd.nextTask →
    (Starts 0x00 n p s u t → exec (.nop n p) s = leaves s (finishOk id 0 u)) ∧
    (∀ v, Accepts 0x01 helloStep4 n p s → chosen p = some v → pf p 24 8 = 0 → s.xl.overflow = false →
      mayBegin (packetTask 0x01 n p s) (tookPacket 0x01 n p s) = true → u = tookPacket 0x01 n p s →
      exec (.hello n p) s = leaves s (finishTask id (resultOf stOk (v.toNat * 65536)) (ringSet n
        { ringGet u n with proto := v, driver := BitVec.ofNat 64 (pf p 32 8) } u))) ∧
    (Accepts 0x01 helloStep4 n p s → chosen p = none → exec (.hello n p) s = leaves s (finishTask id
      (resultOf stBadVersion (p.version.toNat * 65536 + (ringGet s n).proto.toNat * 256 + 0x20)) (tookPacket 0x01 n p s))) ∧
    (Starts 0x03 n p s u t → fenceScope t u = [] → exec (.fence n p) s = leaves s (finishOk id 0 u)) ∧
    (Starts 0x03 n p s u t → fenceScope t u ≠ [] →
      exec (.fence n p) s = leaves s (setWork id (.fence (fenceScope t u) (fenceScope t u).length) u)) ∧
    (Starts 0x43 n p s u t → (∀ x ∈ u.cmd.tasks, isSemWait (pf t.pkt 8 2) x = false) → exec (.semSet n p) s =
      leaves s (finishOk id 0 (semPut (pf t.pkt 8 2) (BitVec.ofNat 32 (pf t.pkt 12 4)) u))) ∧
    (Starts 0x44 n p s u t → semOwner u t.pkt = (ownEid u).toNat → isLost u (semOwner u t.pkt) = false →
      exec (.semSignal n p) s = leaves s (finishOk id 0 (semAdd (pf t.pkt 8 2) (pf t.pkt 12 4) (.task id) u))) ∧
    (Starts 0x44 n p s u t → semOwner u t.pkt ≠ (ownEid u).toNat → isLost u (semOwner u t.pkt) = false →
      exec (.semSignal n p) s = leaves s (setWork id (.semSignal u.fab.nextMsg) (sendMsg (semOwner u t.pkt) 0x32 id t.pkt.tag.toNat
        [(32, 2, pf t.pkt 8 2), (36, 4, pf t.pkt 12 4)] [] u))) ∧
    (Starts 0x44 n p s u t → isLost u (semOwner u t.pkt) = true →
      exec (.semSignal n p) s = leaves s (finishTask id (rPeerLost (semOwner u t.pkt)) u)) ∧
    (Starts 0x45 n p s u t → semHolds t.pkt (semGet u (pf t.pkt 8 2)) = true → exec (.semWait n p) s = leaves s (semExamine (pf t.pkt 8 2)
      (progress (finishOk id 0 (semPut (pf t.pkt 8 2) (semGet u (pf t.pkt 8 2) - BitVec.ofNat 32 (pf t.pkt 16 4)) u))))) ∧
    (Starts 0x45 n p s u t → semHolds t.pkt (semGet u (pf t.pkt 8 2)) = false →
      exec (.semWait n p) s = leaves s (setWork id .semWait (waitStarts u))) ∧
    (Accepts 0x78 configStageStep4 n p s → stageFits s.cmd.staged (stageEntries p) = true → u = tookPacket 0x78 n p s →
      mayBegin (packetTask 0x78 n p s) u = true → exec (.configStage n p) s = leaves s (finishOk id (stageEntries p).length
        { u with cmd := { u.cmd with staged := (stageEntries p).foldl stageOne s.cmd.staged } })) ∧
    (Accepts 0x78 configStageStep4 n p s → stageFits s.cmd.staged (stageEntries p) = false →
      exec (.configStage n p) s = leaves s (finishTask id (rBusy 2) (tookPacket 0x78 n p s))) ∧
    (Starts 0x79 n p s u t → pf t.pkt 10 1 = 1 →
      u = stageDiscard (mapTask id (fun t => { t with captured := s.cmd.staged }) (tookPacket 0x79 n p s)) ∧
      exec (.configCommit n p) s = leaves s (finishOk id s.cmd.staged.length u)) ∧
    (Starts 0x79 n p s u t → pf t.pkt 10 1 = 0 → exec (.configCommit n p) s = leaves s (setWork id (.configCommit [] 0) u)) ∧
    (Accepts 0x7C diagInjectStep4 n p s → u = tookPacket 0x7C n p s → mayBegin (packetTask 0x7C n p s) u = true →
      ((gaugeDetector (pf p 8 1) && s.fuses.sealed) = true → exec (.diagInject n p) s = leaves s (finishTask id (rBadParam 6 8) u)) ∧
      ((gaugeDetector (pf p 8 1) && s.fuses.sealed) = false → exec (.diagInject n p) s = leaves s (armInjection (pf p 8 1) (pf p 9 1)
        (pf p 10 2) (pf p 12 4) (BitVec.ofNat 64 (pf p 16 8)) (finishOk id 0 u)))) ∧
    (∀ r, Starts 0x7D n p s u t → pf t.pkt 9 1 = 2 → u.rep.soft = [r] → namesRepair t.pkt r = true → exec (.repairCtl n p) s =
      leaves s (finishOk id 0 { u with fuses := { u.fuses with field := u.fuses.field ++ [r] }, rep := { u.rep with soft := [] } })) ∧
    (Starts 0x7D n p s u t → pf t.pkt 9 1 < 2 → pf t.pkt 8 1 ≤ 2 →
      exec (.repairCtl n p) s = leaves s (repairNow t.pkt (finishTask id (resultOf stOk 0) u))) ∧
    (Starts 0x7D n p s u t → pf t.pkt 9 1 < 2 → 2 < pf t.pkt 8 1 →
      exec (.repairCtl n p) s = leaves s (setWork id .repair { u with rep := { u.rep with busy := some id } })) ∧
    (Starts 0x7E n p s u t → exec (.selftest n p) s = leaves s (setWork id .selftest { u with rep := { u.rep with busy := some id } })) ∧
    (Accepts 0x08 ringConfigStep4 n p s → u = tookPacket 0x08 n p s → mayBegin (packetTask 0x08 n p s) u = true → pf p 10 1 = 0 →
      (ringGet u (rcRing p)).st = .disabled → pf p 12 8 + 64 * ringDepth (createdRing p) ≤ 2 ^ 52 →
      pf p 20 8 + 32 * ringDepth (createdRing p) ≤ 2 ^ 52 →
      exec (.ringConfig n p) s = leaves s (finishOk id 0 (ringSet (rcRing p) (createdRing p) u))) ∧
    (Accepts 0x08 ringConfigStep4 n p s → u = tookPacket 0x08 n p s → mayBegin (packetTask 0x08 n p s) u = true → pf p 10 1 = 3 →
      (ringGet u (rcRing p)).st = .disabled → exec (.ringConfig n p) s = leaves s (finishOk id 0 (setRingStore (rcRing p) []
        (ringSet (rcRing p) { ringGet u (rcRing p) with sqHead := (ringGet u (rcRing p)).sqTail } u)))) ∧
    (Starts 0x60 n p s u t → pf t.pkt 8 1 = u.berm.size → pf t.pkt 9 1 = u.berm.share → exec (.bermConfig n p) s = leaves s
      (finishOk id 0 { u with berm := { u.berm with threshold := BitVec.ofNat 32 (pf t.pkt 12 4) } })) ∧
    (Starts 0x60 n p s u t → (pf t.pkt 8 1 ≠ u.berm.size ∨ pf t.pkt 9 1 ≠ u.berm.share) →
      exec (.bermConfig n p) s = leaves s (setWork id .bermConfig u))

/-- What the packets of policy, time, memory and the collector do where they start. GOV_POLICY sets its three fields together (R364).
TIME_CTL sets the trim, the priority and the pulse (R442). GAUGE_READ joins the island's queue (R452). BERM_FLUSH drops the sectors of
its scope and counts them (R274). MEM_ADVISE cuts what was held from its range and holds its own (R345). PLACEMENT_REGION_SET clears a
live region (R382). PT_INVALIDATE of one engine, where the host holds nothing in the range, drops translations and bumps the
generation (R329, R330). FAULT_RESOLVE of an unknown batch, or without a collector, fails (R342). XLATE_PREFETCH of pages already
translated walks nothing (R321). MEM_MIGRATE tells the module's engines first, and a lost one fails it (R348, R419). QUERY writes its
block (R65, R66). -/
def Obligations.PolicyPacketsAct : Prop :=
  ∀ (s u v : State) (n id k : Nat) (p : Packet) (t : Task), s.Inv → id = s.cmd.nextTask →
    (Accepts 0x70 govPolicyStep4 n p s → u = tookPacket 0x70 n p s → mayBegin (packetTask 0x70 n p s) u = true →
      bitsNat u.regs.govGain 32 16 < ceilOf (pf p 12 2) → exec (.govPolicy n p) s = leaves s (finishOk id 0 { u with regs := { u.regs with
        govCtl := BitVec.ofNat 64 (pf p 12 2 * 2 ^ 16 + pf p 9 1 * 2 ^ 8 + pf p 8 1) } })) ∧
    (Accepts 0x71 timeCtlStep4 n p s → u = tookPacket 0x71 n p s → mayBegin (packetTask 0x71 n p s) u = true →
      (pf p 8 1 = 1 → s.time.parent = none → exec (.timeCtl n p) s = leaves s (finishOk id 0 (stepTime (BitVec.ofNat 96 (pf p 16 8 * 2 ^ 32)) u))) ∧
      (pf p 8 1 = 2 → s.time.parent = none → exec (.timeCtl n p) s = leaves s (finishOk id 0
        { u with time := { u.time with trim := BitVec.ofNat 24 (pf p 16 8) } })) ∧
      (pf p 8 1 = 1 ∨ pf p 8 1 = 2 → s.time.parent ≠ none → exec (.timeCtl n p) s = leaves s (finishTask id (rBadParam 6 8) u)) ∧
      (pf p 8 1 = 3 → exec (.timeCtl n p) s = leaves s (finishOk id 0 (setFtimeCtl (setBits u.regs.ftimeCtl 0 8 (pf p 16 8)) u))) ∧
      (pf p 8 1 = 4 → exec (.timeCtl n p) s = leaves s (finishOk id 0 (setFtimeCtl (setBits u.regs.ftimeCtl 16 1 (pf p 16 8)) u)))) ∧
    (Starts 0x72 n p s u t → exec (.gaugeRead n p) s = leaves s (setWork id .gauge { u with gauge := { u.gauge with
      queue := u.gauge.queue ++ [⟨BitVec.ofNat 8 (pf t.pkt 8 1), BitVec.ofNat 128 (pf t.pkt 24 16), some id⟩] } })) ∧
    (Starts 0x62 n p s u t → u.hold.fetches = [] → u.berm.test = none → (∀ e ∈ u.berm.sets, ∀ x ∈ e.2, x.spec = false) →
      pf t.pkt 12 1 = 0 → pTid t.pkt = 0xFFFFFF → exec (.bermFlush n p) s = leaves s (finishOk id ((u.berm.sets.map (fun e => e.2.length)).sum)
        { u with berm := { u.berm with sets := [] } })) ∧
    (Starts 0x51 n p s u t → exec (.memAdvise n p) s = leaves s (finishOk id (pf t.pkt 16 8 / 65536)
      (relock { u with xl := { u.xl with advice := advised t.pkt u.xl.advice } }))) ∧
    (Accepts 0x55 regionStep4 n p s → u = tookPacket 0x55 n p s → mayBegin (packetTask 0x55 n p s) u = true → pf p 10 1 = 1 →
      ((smapGet s.host.regions (pf p 8 2)).isSome = true → exec (.placementRegionSet n p) s = leaves s (finishOk id 0
        { u with host := { u.host with regions := smapDel u.host.regions (pf p 8 2) } })) ∧
      (smapGet s.host.regions (pf p 8 2) = none → exec (.placementRegionSet n p) s = leaves s (finishTask id (rBadParam 6 8) u))) ∧
    (Starts 0x54 n p s u t → u.host.dir = [] → pf t.pkt 24 1 = 0 → tlbDrop (pf t.pkt 8 8) (pf t.pkt 16 8) (bumpGen
        (setWork id (.invalidate ⟨pf t.pkt 8 8, pf t.pkt 16 8, false, [], false, [], 0, none⟩) u)) = (k, v) →
      exec (.ptInvalidate n p) s = leaves s (finishOk id k v)) ∧
    (Accepts 0x53 noStep4 n p s → collectorSlot (tookPacket 0x53 n p s) = none →
      exec (.faultResolve n p) s = leaves s (finishTask id (rBadParam 5 8) (tookPacket 0x53 n p s))) ∧
    (Accepts 0x53 noStep4 n p s → u = tookPacket 0x53 n p s → collectorSlot u = some (ownSlot u) → (∀ x ∈ s.xl.written, x.1 ≠ pf p 8 3) →
      exec (.faultResolve n p) s = leaves s (finishTask id (rBadParam 5 8) u)) ∧
    (Starts 0x50 n p s u t → pf t.pkt 16 8 ≤ 65536 → (tlbFind u (pf t.pkt 8 8)).isSome = true → (∀ x ∈ u.xl.walks, x.task ≠ some id) →
      exec (.xlatePrefetch n p) s = leaves s (finishOk id 0
        (setWork id (.prefetch ⟨pf t.pkt 8 8, pf t.pkt 8 8 + pf t.pkt 16 8, if pf t.pkt 24 2 = 0xFFFF then none else some (pf t.pkt 24 2), 0⟩) u))) ∧
    (∀ a e, Starts 0x52 n p s u t → sendDrops id t.pkt.tag.toNat (pf t.pkt 8 8) 65536 1 (moduleRest u) (bumpGen u) = (a, some e, v) →
      exec (.memMigrate n p) s = leaves s (finishTask id (rPeerLost e) v)) ∧
    (∀ a, Starts 0x52 n p s u t → sendDrops id t.pkt.tag.toNat (pf t.pkt 8 8) 65536 1 (moduleRest u) (bumpGen u) = (a, none, v) →
      exec (.memMigrate n p) s = leaves s (moveStep id
        (setWork id (.memMigrate ⟨pf t.pkt 8 8, pf t.pkt 8 8 + pf t.pkt 16 8, none, [], [], 0⟩) v))) ∧
    (∀ b, Starts 0x02 n p s u t → b = queryBlock t.ring t.pkt u → b ≠ [] → (writeVa (pf t.pkt 16 8) b).go (some id) u = (.ok (), v) →
      exec (.query n p) s = leaves s (finishOk id b.length v))

/-- What the packets of tables, rows and streams do where they start. TABLE_DEFINE deletes a table that nothing refers to, and fails on
one not defined (R73). TABLE_COMMIT pends, and its point comes at once where it may (R238). TABLE_RETIRE ends with RETIRE_PENDING
where something holds the version, and frees it otherwise (R240). UPDATE_PROGRAM_LOAD releases a program that nothing names (R227).
Look-ups and pins begin, cancels that match nothing say so, and scatters, flushes, updates and snapshots begin, or wait their turn in
the order of their version (R107, R124, R185, R193, R245). A migration whose destination is another engine is sent there (R247). An
inline culvert write stores its bytes and signals (R311). Streams are armed (R281), rearmed and cancelled (R285, R296). -/
def Obligations.TablePacketsAct : Prop :=
  ∀ (s u v : State) (n id : Nat) (p : Packet) (t : Task) (tab : Table), s.Inv → id = s.cmd.nextTask →
    (Accepts 0x10 tableDefineStep4 n p s → u = tookPacket 0x10 n p s → mayBegin (packetTask 0x10 n p s) u = true → pf p 11 1 = 1 →
      (tabGet s (pTid p) = none → exec (.tableDefine n p) s = leaves s (finishTask id (rBadParam 5 8) u)) ∧
      (tabGet s (pTid p) = some tab → tab.versions = [] → exec (.tableDefine n p) s = leaves s (finishOk id 0 (deleteTable (.task id) (pTid p) u))) ∧
      (tabGet s (pTid p) = some tab → (∃ x ∈ tab.versions, referred u (pTid p) x.ver = true) →
        exec (.tableDefine n p) s = leaves s (finishTask id (rBadParam 6 11) u))) ∧
    (Starts 0x11 n p s u t → (tabGet u (pTid t.pkt)).bind (·.commit) =
        some ⟨BitVec.ofNat 16 (pf t.pkt 12 2), BitVec.ofNat 64 (pf t.pkt 16 8), id⟩ ∧
      exec (.tableCommit n p) s = leaves s (commitPoint (pTid t.pkt)
        (setWork id (.tableCommit (pTid t.pkt) (BitVec.ofNat 16 (pf t.pkt 12 2))) u))) ∧
    (∀ w, Starts 0x12 n p s u t → w = tabMap (pTid t.pkt) (fun tab => tab.mapVersion (BitVec.ofNat 16 (pf t.pkt 12 2)) (fun x =>
        { x with st := .retiring, retire := some ⟨BitVec.ofNat 64 (pf t.pkt 16 8), t.ring, t.pkt.tag, pQuiet t.pkt⟩ })) u →
      (freeable (pTid t.pkt) (BitVec.ofNat 16 (pf t.pkt 12 2)) w = none → exec (.tableRetire n p) s =
        leaves s (finishTask id (resultOf stRetirePending ((BitVec.ofNat 16 (pf t.pkt 12 2)).toNat * 256)) w)) ∧
      ((freeable (pTid t.pkt) (BitVec.ofNat 16 (pf t.pkt 12 2)) w).isSome = true → exec (.tableRetire n p) s =
        leaves s (finishOk id 0 (freeVersion (.task id) (pTid t.pkt) (BitVec.ofNat 16 (pf t.pkt 12 2)) w)))) ∧
    (∀ prog, Accepts 0x33 programLoadStep4 n p s → u = tookPacket 0x33 n p s → mayBegin (packetTask 0x33 n p s) u = true → pf p 10 1 = 1 →
      (smapGet s.tab.progs (pf p 8 2) = none → exec (.updateProgramLoad n p) s = leaves s (finishTask id (rBadParam 6 8) u)) ∧
      (smapGet s.tab.progs (pf p 8 2) = some prog → slotBound u (pf p 8 2) = true →
        exec (.updateProgramLoad n p) s = leaves s (finishTask id (rBadParam 6 8) u)) ∧
      (smapGet s.tab.progs (pf p 8 2) = some prog → slotBound u (pf p 8 2) = false → (∀ x ∈ s.cmd.tasks, x.op ≠ 0x33) → exec (.updateProgramLoad n p) s =
        leaves s (finishOk id prog.length { u with tab := { u.tab with progs := smapDel u.tab.progs (pf p 8 2) } }))) ∧
    ((lookupStart t).go (some id) (waitStarts u) = (.ok (), v) → (∀ x r, taskOf v id = some x → x.phase = .done r → statusDone r.status = true) →
      (Starts 0x20 n p s u t → exec (.lookupPool n p) s = leaves s v) ∧ (Starts 0x21 n p s u t → exec (.lookupGather n p) s = leaves s v) ∧
      (Starts 0x22 n p s u t → exec (.slabGather n p) s = leaves s v) ∧ (Starts 0x23 n p s u t → exec (.lookahead n p) s = leaves s v) ∧
      (Starts 0x61 n p s u t → exec (.bermPin n p) s = leaves s v)) ∧
    (∀ va w, (lookupStart t).go (some id) (waitStarts u) = (.error (.mig va w), v) → Starts 0x20 n p s u t →
      exec (.lookupPool n p) s = leaves s (stopFrom id (.mig va w) (waitStarts u) v)) ∧
    (Starts 0x24 n p s u t → (∀ x ∈ u.cmd.tasks, cancelMatches t x = false) → (∀ x ∈ s.cmd.tasks, ∀ a b c d, x.phase ≠ .running (.cancel a b c d)) →
      exec (.lookupCancel n p) s = leaves s (finishTask id ⟨stOk, 0x4, 0, 0⟩ u)) ∧
    (Starts 0x30 n p s u t → (scatterStart t).go (some id) (waitStarts u) = (.ok (), v) → (∀ x, taskOf v id = some x → x.isDone = false) →
      exec (.gradScatter n p) s = leaves s v) ∧
    (Starts 0x31 n p s u t → serialBlocked t u = true → exec (.gradFlush n p) s = leaves s (mapTask id (fun t => { t with phase := .queued }) u)) ∧
    (∀ tid b, Starts 0x31 n p s u t → serialBlocked t u = false → t.bind = some (tid, b) → pf t.pkt 14 1 = 1 →
      exec (.gradFlush n p) s = leaves s (finishOk id
        (u.grad.grads.filter (fun g => (g.tid == tid && g.ver == b) && g.lost.isNone)).length { u with
          grad := { u.grad with grads := u.grad.grads.filter (fun g => !(g.tid == tid && g.ver == b)) } })) ∧
    (Starts 0x32 n p s u t → serialBlocked t u = true → exec (.updateApply n p) s = leaves s (mapTask id (fun t => { t with phase := .queued }) u)) ∧
    (Starts 0x32 n p s u t → serialBlocked t u = false → (updateStart t).go (some id) u = (.ok (), v) → exec (.updateApply n p) s = leaves s v) ∧
    (Starts 0x14 n p s u t → pf t.pkt 14 1 = 0 → serialBlocked t u = true →
      exec (.tableSnapshot n p) s = leaves s (mapTask id (fun t => { t with phase := .queued }) u)) ∧
    (Starts 0x14 n p s u t → pf t.pkt 14 1 = 1 ∨ serialBlocked t u = false → exec (.tableSnapshot n p) s = leaves s (runSnapshot t u)) ∧
    (Starts 0x34 n p s u t → (atomicStart t).go (some id) u = (.ok (), v) → exec (.atomicAdd n p) s = leaves s v) ∧
    (Accepts 0x15 migrateStep4 n p s → u = tookPacket 0x15 n p s → mayBegin (packetTask 0x15 n p s) u = true →
      migDst p ≠ (ownEid u).toNat → oldPeer u (migDst p) = false →
      (isLost u (migDst p) = true → exec (.shardMigrate n p) s = leaves s (finishTask id (rPeerLost (migDst p)) u)) ∧
      (isLost u (migDst p) = false → exec (.shardMigrate n p) s = leaves s (setWork id (.forwarded (migDst p))
        (sendMsg (migDst p) 0x34 id p.tag.toNat [(32, 2, n), (34, 2, (ownEid u).toNat)] (packetBytes 0x15 (keptPacket s n p)) u)))) ∧
    (∀ w, Accepts 0x46 culvertStep4 n p s → u = tookPacket 0x46 n p s → mayBegin (packetTask 0x46 n p s) u = true → culvertInline p = true →
      (translateNeeds n p.tag.toNat (rangeNeeds (pf p 8 8) (culvertLen p) true 5 0)).go (some id) u = (.ok (), w) →
      (writeVa (pf p 8 8) (inlineBytes p (culvertLen p))).go (some id) w = (.ok (), v) →
      (∀ x, x = setWork id .landing (gaugeBytes (culvertLen p) v) →
        (heldLines v = [] → pf p 18 2 = 0xFFFF → exec (.culvertWrite n p) s = leaves s (finishOk id (culvertLen p) x)) ∧
        (heldLines v = [] → pf p 18 2 ≠ 0xFFFF →
          exec (.culvertWrite n p) s = leaves s (finishOk id (culvertLen p) (semAdd (pf p 18 2) 1 (.task id) x))) ∧
        (heldLines v ≠ [] → exec (.culvertWrite n p) s = leaves s { x with host := { x.host with
          landings := x.host.landings ++ [⟨heldLines v, .culvert id⟩] } }))) ∧
    (∀ b d, Accepts 0x40 armStep4 n p s → u = tookPacket 0x40 n p s → mayBegin (packetTask 0x40 n p s) u = true →
      smapGet s.strm.streams (pf p 8 2) = none → (readVa (pf p 12 8) 256).go (some id) u = (.ok b, v) → crcHolds b = true →
      d = BitVec.ofNat 2048 (leNat b) → firstFail (armChecks v d) = none → sd d 112 4 = 0 → sd d 104 8 ≤ 2 ^ 51 →
      (pf p 24 2 = 0xFFFF → sFullRemote d = false) → (pf p 26 2 = 0xFFFF → sEmptyRemote d = false) →
      v.rep.inj = none → (freeTileKib v < 2 * tileBytes d / 1024 →
        exec (.streamArm n p) s = leaves s (finishTask id (resultOf stNoBuffer (min (freeTileKib v) (2 ^ 24 - 1))) v)) ∧
      (2 * tileBytes d / 1024 ≤ freeTileKib v → exec (.streamArm n p) s = leaves s (finishOk id 0 { v with strm := { v.strm with
        streams := smapSet v.strm.streams (pf p 8 2)
          { desc := d, persistent := pflag p 8, full := BitVec.ofNat 16 (pf p 24 2), empty := BitVec.ofNat 16 (pf p 26 2)
            src := sd d 8 8, dst := sd d 16 8, outer := outermost d, xlist := [], srcFrames := true, dstFrames := true
            disarming := none, lastStatus := 0, transfers := 0, transferSat := false, tilesDone := 0, waits := 0 }
        past := smapDel v.strm.past (pf p 8 2) } }))) ∧
    (∀ x, Starts 0x41 n p s u t → streamGet u (pf t.pkt 8 2) = some x → (∀ y ∈ u.cmd.tasks, y.id ≠ id → transferRunOf y = none ∧ y.op ≠ 0x41) →
      (∀ e ∈ streamPeers u (rearmed t.pkt x), isLost u e = false) →
      exec (.streamRearm n p) s = leaves s (transferMap id (fun r => { r with context := some (streamPolder (pf t.pkt 8 2)) })
        (streamMap (pf t.pkt 8 2) (fun x => { x with tilesDone := 0 }) (waitStarts (setWork id (.transfer
          { stream := pf t.pkt 8 2, src := (rearmed t.pkt x).src, dst := (rearmed t.pkt x).dst, outer := (rearmed t.pkt x).outer
            srcFrames := (rearmed t.pkt x).srcFrames, dstFrames := (rearmed t.pkt x).dstFrames, context := none, next := 0
            signalled := 0, flight := [], bytes := 0, waited := false, spoiled := none, refused := false, failing := none })
          (streamMap (pf t.pkt 8 2) (fun _ => rearmed t.pkt x) u)))))) ∧
    (Starts 0x42 n p s u t → pf t.pkt 10 1 = 0 → (∀ x ∈ u.cmd.tasks, x.op ≠ 0x41) → (∀ x ∈ s.cmd.tasks, ∀ a b c d, x.phase ≠ .running (.cancel a b c d)) →
      exec (.streamCancel n p) s = leaves s (finishTask id ⟨stOk, 0x4, 0, 0⟩ u))

/-! ### Tests, repairs and injections -/

/-- R461: a polder whose spare is free tests its next lane; a lane that passes goes back, and one that fails is retired: a record of
detector 0x04, a level-3 repair, and the running tasks marked DEGRADED. R462: the same for a control-SRAM macro and the polder's spare
macro, detector 0x06 and level 2. Where the spare is spent, or the engine has failed, no test starts; with no test nothing ends. -/
def Obligations.PolderTestsRun : Prop :=
  ∀ (s : State) (p k : Nat) (o : TestOutcome) (b : Bool), s.Inv →
    (s.boot.inReset = true ∨ s.rep.failed = true ∨ 8 ≤ p → exec (.laneTest p) s = .next s ∧ exec (.csramMacroTest p) s = .next s) ∧
    ((s.rep.laneTest[p]?).getD none = none → exec (.laneTestEnd p b) s = .next s) ∧
    ((s.rep.csramTest[p]?).getD none = none → exec (.csramMacroTestEnd p o) s = .next s) ∧
    (laneFree s (physOf s p) = false → exec (.laneTest p) s = .next s) ∧
    (csramFree s (physOf s p) = false → exec (.csramMacroTest p) s = .next s) ∧
    (s.boot.inReset = false → s.rep.failed = false → p < 8 → laneFree s (physOf s p) = true → (s.rep.laneTest[p]?).getD none = none →
      exec (.laneTest p) s = .next { s with rep := { s.rep with
        laneTest := s.rep.laneTest.set p (some ((s.rep.nextLane[p]?).getD 0))
        nextLane := s.rep.nextLane.set p (((s.rep.nextLane[p]?).getD 0 + 1) % 17) } }) ∧
    (s.boot.inReset = false → s.rep.failed = false → p < 8 → csramFree s (physOf s p) = true → (s.rep.csramTest[p]?).getD none = none →
      exec (.csramMacroTest p) s = .next { s with rep := { s.rep with
        csramTest := s.rep.csramTest.set p (some ((s.rep.nextCsram[p]?).getD 0))
        nextCsram := s.rep.nextCsram.set p (((s.rep.nextCsram[p]?).getD 0 + 1) % 8) } }) ∧
    (s.rep.inj = none → (s.rep.laneTest[p]?).getD none = some k →
      exec (.laneTestEnd p true) s = .next { s with rep := { s.rep with laneTest := s.rep.laneTest.set p none } } ∧
      (laneFree s (physOf s p) = true → ∃ t, exec (.laneTestEnd p false) s = .next t ∧ t.rep.laneTest = s.rep.laneTest.set p none ∧
        t.rep.soft = s.rep.soft ++ [⟨3, laneUnit (physOf s p) k, 0⟩] ∧ t.rep.prod = s.rep.prod + 1 ∧
        t.rep.sev1 = satAdd s.rep.sev1 1 ∧ t.cmd.tasks = (degradeTasks 0x04 (nextErrIdx s) s).cmd.tasks ∧
        t.regs.irqPend = s.regs.irqPend ||| 2 ∧ t.tab = s.tab ∧ t.hold = s.hold ∧ t.grad = s.grad ∧ t.berm = s.berm ∧
        t.strm = s.strm ∧ t.xl = s.xl ∧ t.fab = s.fab ∧ t.fuses = s.fuses)) ∧
    (s.rep.inj = none → (s.rep.csramTest[p]?).getD none = some k →
      exec (.csramMacroTestEnd p .pass) s = .next { s with rep := { s.rep with csramTest := s.rep.csramTest.set p none } } ∧
      (csramFree s (physOf s p) = true → ∃ t, exec (.csramMacroTestEnd p .fail) s = .next t ∧
        t.rep.csramTest = s.rep.csramTest.set p none ∧ t.rep.soft = s.rep.soft ++ [⟨2, csramUnit (physOf s p) k, 0⟩] ∧
        t.rep.prod = s.rep.prod + 1 ∧ t.rep.sev1 = satAdd s.rep.sev1 1 ∧
        t.cmd.tasks = (degradeTasks 0x06 (nextErrIdx s) s).cmd.tasks ∧ t.tab = s.tab ∧ t.hold = s.hold ∧ t.grad = s.grad ∧
        t.berm = s.berm ∧ t.strm = s.strm ∧ t.xl = s.xl ∧ t.fab = s.fab ∧ t.fuses = s.fuses))

/-- R277, R278: the berm tests one macro at a time, passing over withdrawn ones; through its bank's spare where that is free. A macro
that passes gets its sectors back; one that fails, tested through the spare, is replaced by it. -/
def Obligations.BermTestsRun : Prop :=
  ∀ (s : State) (o : TestOutcome) (m : Nat) (l : List (Nat × Sector)), s.Inv →
    (s.boot.inReset = true ∨ s.rep.failed = true ∨ s.berm.test.isSome = true → exec .bermMacroTest s = .next s) ∧
    (s.berm.test = none → exec (.bermMacroTestEnd o) s = .next s) ∧
    (s.boot.inReset = false → s.rep.failed = false → s.berm.test = none → m = s.berm.nextMacro % bermMacros s →
      (s.berm.withdrawn.contains m = true → exec .bermMacroTest s =
        .next { s with berm := { s.berm with nextMacro := (m + 1) % bermMacros s } }) ∧
      (s.berm.withdrawn.contains m = false → llsFree s (m % 8) = true → exec .bermMacroTest s =
        .next { s with berm := { s.berm with nextMacro := (m + 1) % bermMacros s, test := some ⟨m, true, []⟩ } })) ∧
    (s.rep.inj = none → s.berm.test = some ⟨m, true, l⟩ →
      exec (.bermMacroTestEnd .pass) s = leaves s (refill ⟨m, true, l⟩ { s with berm := { s.berm with test := none } }) ∧
      (l = [] → exec (.bermMacroTestEnd .pass) s = .next { s with berm := { s.berm with test := none } }) ∧
      (llsFree s (m % 8) = true → ∃ t, exec (.bermMacroTestEnd .fail) s = .next t ∧ t.berm = { s.berm with test := none } ∧
        t.rep.soft = s.rep.soft ++ [⟨2, bermUnit m, 0⟩] ∧ t.rep.prod = s.rep.prod + 1 ∧ t.rep.sev1 = satAdd s.rep.sev1 1 ∧
        t.cmd.tasks = (degradeTasks 0x07 (nextErrIdx s) s).cmd.tasks ∧ t.tab = s.tab ∧ t.hold = s.hold ∧ t.mem.scratch = s.mem.scratch))

/-- R101, R102: what the coalescer reads of a window, packed into words and presented, is the window's indices and weights, in order, in
both widths. R104: while the bank to be written is handed over, the list reader writes nothing. R105: both copies of the pointers
agree after every cycle; a mismatch is recorded by detector 0x03, clears the polder's sluice, ends the tasks with a word in it and
counts as one strike. R469: an engine that fails is in phase 0x7, every task of its that had not ended is over, and it accepts no
packet from then on. -/
def Obligations.SluiceAndEngineFail : Prop :=
  ∀ (s : State) (p det phys n : Nat) (q : Packet), s.Inv →
    (∀ (task num : Nat) (wide : Bool) (l : List (Nat × F32)), (∀ x ∈ l, x.1 < 2 ^ (if wide then 64 else 32)) →
      throughSluice task num wide l = l) ∧
    (∀ (x : Sluice) (o : SluiceOffer), x.writeStalled = true → x.cycle false (some o) = x.cycle false none) ∧
    Sluice.empty.agree = true ∧ (∀ (x : Sluice) (take : Bool) (o : Option SluiceOffer), x.agree = true → (x.cycle take o).agree = true) ∧
    (s.boot.inReset = true ∨ s.rep.failed = true ∨ 8 ≤ p → exec (.sluicePointerMismatch p) s = .next s) ∧
    (∀ idx u, s.boot.inReset = false → s.rep.failed = false → p < 8 → sluiceReset p (sluiceTasks s p).head? false s = (idx, u) →
      exec (.sluicePointerMismatch p) s = leaves s (strikeOut p 0x03
        ((sluiceTasks s p).foldl (fun w id => stopLookup id (rHw 0x03 idx) w) u))) ∧
    (s.boot.inReset = false → s.rep.failed = false → p < 8 → sluiceTasks s p = [] →
      (s.rep.strikes.filter (fun x => x.1 == p && decide (usSince s x.2 < 1000000))).length < 3 → ∃ t,
      exec (.sluicePointerMismatch p) s = .next t ∧ t.rep.prod = s.rep.prod + 1 ∧ t.rep.sev2 = satAdd s.rep.sev2 1 ∧
      t.hold = { s.hold with sluice := s.hold.sluice.zipIdx.map (fun (x, k) => if k = p then Sluice.empty else x) } ∧
      (p, tick s) ∈ t.rep.strikes ∧ LogOnly s { t with hold := s.hold, rep := { t.rep with strikes := s.rep.strikes } }) ∧
    (let t := (engineFail det phys s).2
     t.rep.failed = true ∧ t.rep.busy = none ∧ t.boot.phase = 7 ∧ (s.cmd.tasks = [] → t.rep.prod = s.rep.prod + 1)) ∧
    (s.rep.failed = true → exec (.nop n q) s = .next s ∧ exec (.lookupPool n q) s = .next s)

/-- R480, R481, R483: a write of SOL_INJ_CTL that arms passes the checks of R480 or is discarded with a record; a pass arms its detector
at once, in place of any injection held, and all zeros disarm; one of the Gauge's, taken while the Gauge is not sealed, is in its log
(R451, log entry 57). A pending injection becomes armed when FTIME reaches its time. -/
def Obligations.InjectionsArm : Prop :=
  ∀ (s : State) (v : Word) (i : Injection), s.Inv → s.boot.inReset = false →
    (writesLive s = false → exec (.injCtlWrite v) s = .next (misuse 0x1718 s)) ∧
    (writesLive s = true → v.getLsbD 0 = false → exec (.injCtlWrite v) s =
      .next { s with regs := { s.regs with injCtl := v &&& 0xFFFFFFFFFFFFFF02 } }) ∧
    (writesLive s = true → v = 1 → exec (.injCtlWrite v) s =
      .next { s with regs := { s.regs with injCtl := 0 }, rep := { s.rep with inj := none } }) ∧
    (writesLive s = true → v.getLsbD 0 = true → bitsNat v 8 8 ≠ 0 → (isDetector (bitsNat v 8 8) = false ∨
      (gaugeDetector (bitsNat v 8 8) = true ∧ s.fuses.sealed = true) ∨ injUnitOk (bitsNat v 8 8) (bitsNat v 16 16) = false ∨
      (bitsNat v 1 1 = 0 ∧ bitsNat v 32 32 ≠ 0) ∨ (bitsNat v 1 1 = 1 ∧ bitsNat v 32 32 = 0)) →
      exec (.injCtlWrite v) s = .next (misuse 0x1718 s)) ∧
    (writesLive s = true → v.getLsbD 0 = true → isDetector (bitsNat v 8 8) = true → (gaugeDetector (bitsNat v 8 8) = false ∨ s.fuses.sealed = false) →
      injUnitOk (bitsNat v 8 8) (bitsNat v 16 16) = true → bitsNat v 8 8 ≠ 0x12 →
      ((bitsNat v 1 1 = 0 ∧ bitsNat v 32 32 = 0) ∨ (bitsNat v 1 1 = 1 ∧ bitsNat v 32 32 ≠ 0)) → ∃ t,
      exec (.injCtlWrite v) s = .next t ∧ t.regs.injCtl = v &&& 0xFFFFFFFFFFFFFF02 ∧
      t.rep.inj = some ⟨BitVec.ofNat 8 (bitsNat v 8 8), bitsNat v 1 1 == 1, BitVec.ofNat 16 (bitsNat v 16 16),
        BitVec.ofNat 32 (bitsNat v 32 32), 0, true, 0⟩ ∧
      t.gauge = (if gaugeDetector (bitsNat v 8 8) then (gaugeLog 0x0C (bitsNat v 8 8) s).gauge else s.gauge) ∧
      { t with regs := { t.regs with injCtl := s.regs.injCtl }, rep := { t.rep with inj := s.rep.inj }, gauge := s.gauge } = s) ∧
    (s.rep.inj = some i → i.detector ≠ 0x12 → i.armed = false → reached s i.armAt = true → exec .injectionArmTime s =
      .next { s with rep := { s.rep with inj := some { i with armed := true } } }) ∧
    (s.rep.inj = some i → i.armed = true ∨ reached s i.armAt = false → exec .injectionArmTime s = .next s) ∧
    (s.rep.inj = none → exec .injectionArmTime s = .next s)

/-- R254, R478, R495: a resize, a lane or polder repair, and a self-test act once every task accepted before them has completed, and
until then nothing happens. The resize drops every sector, sets size, share and threshold, and ends its task. The self-test runs its
sets, as the boot self-test does. R263: ageing halves every sector's freq. -/
def Obligations.DrainedWorkRuns : Prop :=
  ∀ (s : State) (t : Task) (found : List Finding), s.Inv →
    (runningWork s (fun w => w matches .bermConfig) = none → exec .bermConfigApply s = .next s) ∧
    (runningWork s (fun w => w matches .bermConfig) = some t → earlierGone s t.id = false → exec .bermConfigApply s = .next s) ∧
    (runningWork s (fun w => w matches .bermConfig) = some t → earlierGone s t.id = true → ∃ u, exec .bermConfigApply s = .next u ∧
      u.berm.size = pf t.pkt 8 1 ∧ u.berm.share = pf t.pkt 9 1 ∧ u.berm.threshold = BitVec.ofNat 32 (pf t.pkt 12 4) ∧
      u.berm.sets = [] ∧ ((∀ e ∈ s.berm.sets, ∀ x ∈ e.2, x.spec = false) → u.cmd.tasks = (finishOk t.id 0 s).cmd.tasks) ∧ u.mem.dev = s.mem.dev ∧ u.mem.host = s.mem.host ∧
      u.tab = s.tab ∧ u.grad = s.grad ∧ u.strm = s.strm ∧ u.hold.lists = s.hold.lists ∧ u.fab = s.fab ∧ u.rep = s.rep ∧ u.regs = s.regs) ∧
    (runningWork s (fun w => w matches .repair) = none → exec .repairApplyPoint s = .next s) ∧
    (runningWork s (fun w => w matches .repair) = some t → earlierGone s t.id = false → exec .repairApplyPoint s = .next s) ∧
    (runningWork s (fun w => w matches .repair) = some t → earlierGone s t.id = true → 2 < pf t.pkt 8 1 → ∃ u,
      exec .repairApplyPoint s = .next u ∧ u.rep.busy = none ∧
      (pf t.pkt 9 1 = 0 → u.rep.soft = s.rep.soft ++ [⟨pf t.pkt 8 1, pf t.pkt 10 2, BitVec.ofNat 32 (pf t.pkt 12 4)⟩]) ∧
      (pf t.pkt 9 1 ≠ 0 → u.rep.soft = s.rep.soft.filter (fun r => !namesRepair t.pkt r)) ∧
      u.tab = s.tab ∧ u.hold = s.hold ∧ u.grad = s.grad ∧ u.berm = s.berm ∧ u.strm = s.strm ∧ u.mem = s.mem ∧ u.fuses = s.fuses) ∧
    (runningWork s (fun w => w matches .selftest) = none → exec (.selftestRun found) s = .next s) ∧
    (runningWork s (fun w => w matches .selftest) = some t → earlierGone s t.id = false → exec (.selftestRun found) s = .next s) ∧
    (∀ x u y v r, runningWork s (fun w => w matches .selftest) = some t → earlierGone s t.id = true →
      (demand (pf t.pkt 12 8) true).go (some t.id) s = (.ok x, u) →
      v = (runSets (pf t.pkt 8 1) [] (.task t.id) { s with rep := { s.rep with busy := none } }).st →
      r = selftestBlock (pf t.pkt 8 1) ⟨[], [], none, none, v⟩ v → (writeVa (pf t.pkt 12 8) r.1).go (some t.id) r.2 = (.ok (), y) →
      exec (.selftestRun []) s = leaves s (finishTask t.id ⟨stOk, 0, 0,
        BitVec.ofNat 32 ((List.range 6).filter (fun k => pf t.pkt 8 1 / 2 ^ k % 2 == 1)).length⟩ y) ∧
      v.rep = { s.rep with busy := none } ∧ v.tab = s.tab ∧ v.grad = s.grad ∧ v.mem.dev = s.mem.dev ∧
        ((∀ e ∈ s.berm.sets, ∀ x ∈ e.2, x.spec = false) → v.cmd.tasks = s.cmd.tasks)) ∧
    (s.boot.inReset = true → exec .bermAgeing s = .next s) ∧
    (s.boot.inReset = false → ∃ u, exec .bermAgeing s = .next u ∧
      u.berm.sets = s.berm.sets.map (fun e => (e.1, e.2.map (ageSector s.berm.threshold))) ∧
      (∀ e ∈ u.berm.sets, ∀ x ∈ e.2, ∃ y : Sector, x = { y with freq := y.freq / 2, hot := x.hot }) ∧ { u with berm := s.berm } = s)

/-! ### Work in progress -/

/-- R149: windows are admitted for a running look-up that has not failed. R262: a fill serves and installs what it read, or nothing
where its table is gone; at a page being moved it waits. R176, R183: the next whole bucket is expanded, and answered with the
contributions added; one whose version is free here adds none. R193, R195: a row of a closed gradient is updated, unless a remote
update of it is awaited. -/
def Obligations.EngineWorkRuns : Prop :=
  ∀ (s v : State) (id lb off : Nat) (t : Task) (l : LookupRun) (u : UpdateRun) (g : Grad) (f : Fetch) (b : Bucket), s.Inv →
    (taskOf s id = none → exec (.windowAdmit id) s = .next s ∧ exec (.cucRowUpdate id lb off) s = .next s) ∧
    (taskOf s id = some t → lookupRunOf t = none → exec (.windowAdmit id) s = .next s) ∧
    (taskOf s id = some t → lookupRunOf t = some l → l.failing.isSome = true → exec (.windowAdmit id) s = .next s) ∧
    (taskOf s id = some t → lookupRunOf t = some l → l.failing = none → exec (.windowAdmit id) s = leaves s (runTask id (do
        let (tab, v) ← bindVersion t
        lookupAct id (admitAll t tab v.toNat l.windows)
        modify (lookupSettle id)) s)) ∧
    (s.hold.fetches.find? (fun f => f.id == id) = none → exec (.bermFillComplete id) s = .next s) ∧
    (s.hold.fetches.find? (fun f => f.id == id) = some f → tabGet s f.tid = none → s.hold.cancels = [] → exec (.bermFillComplete id) s =
      .next { s with hold := { s.hold with fetches := s.hold.fetches.filter (fun x => x.id != id) } }) ∧
    ((fillComplete id).go none s = (.ok (), v) → exec (.bermFillComplete id) s = leaves s v) ∧
    (∀ va w, (fillComplete id).go none s = (.error (.mig va w), v) →
      (s.xl.walks.any (fun k => k.va == va && k.mig.isSome) = true → exec (.bermFillComplete id) s = .next s) ∧
      (s.xl.walks.any (fun k => k.va == va && k.mig.isSome) = false → exec (.bermFillComplete id) s = leaves s (waitMig none va w s))) ∧
    (s.grad.buckets.find? (fun b => decide (b.segs ≤ b.got)) = none → exec .bucketExpand s = .next s) ∧
    (∀ lost o rest n st w y, s.grad.buckets.find? (fun b => decide (b.segs ≤ b.got)) = some b →
      readKept (bucketLists s b) none (useKept b s) = (lost, o) →
      (if lost = none ∧ ((tabGet o b.tid).bind (·.version b.ver)).isSome then
        expandEntries b (gradWidth s b.tid) (bucketRows o b) (bucketWho s b) (b.bytes.length + 1) b.bytes b.added o
       else ([], b.added, false, o)) = (rest, n, st, w) → y = countCmd 5 (n - b.added) (bucketWho s b) w →
      (st = true → exec .bucketExpand s = leaves s (let z := if y.grad.stalled then y else gradCount 4 (bucketWho s b) y
        { z with grad := { z.grad with
          stalled := true
          buckets := z.grad.buckets.map (fun x => if isBucket b x then { x with bytes := rest, added := n } else x) } })) ∧
      (st = false → exec .bucketExpand s = leaves s (sendTaskAck b.src b.task.toNat b.tag.toNat 0x11
        (match lost, y.grad.buckets.find? (isBucket b) with
         | some idx, _ => rHw 0x0A idx
         | none, some x => ⟨stOk, (if x.sat then 1 else 0) ||| (if x.spill then 2 else 0), 0, BitVec.ofNat 32 (min n (2 ^ 32 - 1))⟩
         | none, none => ⟨stOk, 0, 0, BitVec.ofNat 32 (min n (2 ^ 32 - 1))⟩)
        (creditBack b.src false (bucketUnits b.len)
          (progress { y with grad := { y.grad with stalled := false, buckets := y.grad.buckets.filter (fun x => !isBucket b x) } }))))) ∧
    (taskOf s id = some t → updateRunOf t = none → exec (.cucRowUpdate id lb off) s = .next s) ∧
    (taskOf s id = some t → updateRunOf t = some u → (closedBy s id).find? (fun g => g.lb == lb && g.off == off) = none →
      exec (.cucRowUpdate id lb off) s = .next s) ∧
    (taskOf s id = some t → updateRunOf t = some u → u.await.any (fun a => a.2.1 == lb && a.2.2 == off) = true →
      exec (.cucRowUpdate id lb off) s = .next s) ∧
    (taskOf s id = some t → updateRunOf t = some u → (closedBy s id).find? (fun g => g.lb == lb && g.off == off) = some g →
      u.failed = none → u.await.any (fun a => a.2.1 == lb && a.2.2 == off) = false → (drainRow t u g).go (some id) s = (.ok (), v) →
      exec (.cucRowUpdate id lb off) s = leaves s (updateSettle id v)) ∧
    (∀ x, taskOf s id = some t → updateRunOf t = some u → (closedBy s id).find? (fun g => g.lb == lb && g.off == off) = some g →
      u.failed = none → u.await.any (fun a => a.2.1 == lb && a.2.2 == off) = false → (drainRow t u g).go (some id) s = (.error x, v) →
      (∀ va w, x = .mig va w → exec (.cucRowUpdate id lb off) s = leaves s (stopFrom id x s v)) ∧
      (∀ c y, (∀ va w, x ≠ .mig va w) → stopCode id x v = (c, y) →
        exec (.cucRowUpdate id lb off) s = leaves s (updateSettle id (updateMap id (fun u => { u with failed := some c }) y))))

/-- R238, R239: a commit whose FTIME has come, judged only while time-locked, makes its version current, the one that was current
previous, and starts the refresh; before, nothing happens. R240: a retiring version that nothing refers to, past its grace, is freed:
its slot, its translations and its gradients go, and the second completion follows. -/
def Obligations.VersionsMove : Prop :=
  ∀ (s : State) (tid : Nat) (v : BitVec 16) (tab : Table) (c : Commit) (r : Retire), s.Inv →
    (tabGet s tid = none → exec (.tableCommitPoint tid) s = .next s ∧ exec (.versionFree tid v) s = .next s) ∧
    (tabGet s tid = some tab → tab.commit = none → exec (.tableCommitPoint tid) s = .next s) ∧
    (tabGet s tid = some tab → tab.commit = some c → c.ftime ≠ 0 → timeLocked s = false ∨ reached s c.ftime = false →
      exec (.tableCommitPoint tid) s = .next s) ∧
    (tabGet s tid = some tab → tab.commit = some c → (∀ t w, taskOf s c.task = some t → t.phase ≠ .running w) →
      exec (.tableCommitPoint tid) s = .next s) ∧
    (∀ t w, tabGet s tid = some tab → tab.commit = some c → taskOf s c.task = some t → t.phase = .running w →
      c.ftime = 0 ∨ (timeLocked s = true ∧ reached s c.ftime = true) →
      exec (.tableCommitPoint tid) s = leaves s (refreshStart tid c.ver c.task (tabMap tid (makeCurrent c.ver) s))) ∧
    (∀ x ∈ (makeCurrent v tab).versions, x.st = .current ↔ x.ver = v) ∧ (makeCurrent v tab).commit = none ∧
    (makeCurrent v tab).versions.map (·.ver) = tab.versions.map (·.ver) ∧
    (freeable tid v s = none → exec (.versionFree tid v) s = .next s) ∧
    (∀ id w, freeable tid v s = some r → id = s.cmd.nextTask →
      w = { s with cmd := { s.cmd with nextTask := id + 1, tasks := s.cmd.tasks ++
        [{ newTask id r.ring 0x12 ⟨0x20, if r.quiet then 4 else 0, r.tag, 0, 0⟩ 0x20 (liveCfg s) with bind := some (tid, v) }] } } →
      exec (.versionFree tid v) s = leaves s (completeTask id (freeRetired id tid v w)) ∧
      (s.rep.inj = none → freeRetired id tid v w = finishOk id 0 (freeVersion (.task id) tid v w)) ∧
      (∀ idx u, tagSweep tid v w = (some idx, u) →
        freeRetired id tid v w = finishTask id (rHw 0x05 idx) (freeVersion (.task id) tid v u))) ∧
    (freeable tid v s = some r → referred s tid v = false ∧ (r.grace = 0 ∨ reached s r.grace = true)) ∧
    (∀ k : Who, tabGet s tid = some tab → ((tabGet (freeVersion k tid v s) tid).map (·.versions)) = some (tab.versions.filter (fun x => x.ver != v))) ∧
    (∀ k : Who, ∀ g ∈ (freeVersion k tid v s).grad.grads, tabGet s tid = some tab → ¬ (g.tid = tid ∧ g.ver = v))

/-- R287: a running transfer writes its next tile while fewer than two are in flight, once its empty semaphore lets it; one that must
wait counts its wait once. The oldest tile in flight has landed once nothing of it is awaited: its full semaphore is signalled, and
the next may follow. R298 to R300: the watchdog, enabled, ends the newest waiting task of a cycle, else of the engine, with
DEADLOCK_BREAK, once nothing has progressed for its period. -/
def Obligations.StreamsRun : Prop :=
  ∀ (s u : State) (n i : Nat) (t : Task) (r : TransferRun) (x : Stream) (ids : List (BitVec 32)), s.Inv → s.rep.inj = none →
    (activeTransfer s n = none → exec (.streamTileWrite n) s = .next s ∧ exec (.streamTileLanded n) s = .next s) ∧
    (activeTransfer s n = some (t, r) → streamGet s n = some x →
      (r.failing.isSome = true ∨ 2 ≤ r.flight.length ∨ tileCount x.desc r ≤ r.next → exec (.streamTileWrite n) s = .next s) ∧
      (r.failing = none → r.flight.length < 2 → r.next < tileCount x.desc r →
        (∀ s1, takeEmpty x s = (false, s1) →
          (r.waited = true → exec (.streamTileWrite n) s = leaves s s1) ∧
          (r.waited = false → exec (.streamTileWrite n) s = leaves s (transferMap t.id (fun r => { r with waited := true })
            (streamMap n (fun x => { x with waits := satAdd x.waits 1 }) s1)))) ∧
        (∀ s1, takeEmpty x s = (true, s1) → (orTileFault t.ring t.pkt.tag.toNat (tileStart x.desc r.next) (tileNeeds x.desc r (r.next + 1))
            (moveTile t x r r.next)).go (some t.id) s1 = (.ok ids, u) →
          exec (.streamTileWrite n) s = leaves s (progress (transferMap t.id (fun q => { q with
            next := q.next + 1
            waited := false
            bytes := if writtenHere x.desc then q.bytes + (tileEnd x.desc r r.next - tileStart x.desc r.next) else q.bytes
            flight := q.flight ++ [(r.next, ids)] }) ((walkAhead x r r.next).go (some t.id) u).2)))) ∧
      (emptyAway x s = false → x.empty ≠ 0xFFFF →
        (takeEmpty x s).1 = decide (semGet s x.empty.toNat ≠ 0) ∧ (semGet s x.empty.toNat = 0 → (takeEmpty x s).2 = s)) ∧
      (writesHeld s = true ∨ r.flight = [] → exec (.streamTileLanded n) s = .next s) ∧
      (∀ rest w y, writesHeld s = false → r.flight = (i, []) :: rest → r.failing = none → i < tileCount x.desc r →
        (∀ k ∈ r.spoiled, i < k) → signalFull t.id x (transferMap t.id (fun r => { r with flight := rest }) (waitStarts s)) = (none, w) →
        y = transferMap t.id (fun r => { r with
          signalled := r.signalled + 1
          bytes := if writtenHere x.desc then r.bytes else r.bytes + (tileEnd x.desc r i - tileStart x.desc i) })
          (gaugeBytes (tileEnd x.desc r i - tileStart x.desc i) (streamMap n (fun x => { x with tilesDone := x.tilesDone + 1 }) w)) →
        ((taskOf y t.id).bind transferRunOf).any (·.flight.isEmpty) = false → exec (.streamTileLanded n) s = leaves s y) ∧
      (∀ m ms rest, r.flight = (i, m :: ms) :: rest → exec (.streamTileLanded n) s = .next s) ∧
      (writesHeld s = false → r.flight = [(i, [])] → tileCount x.desc r ≤ i → r.failing = none → tileCount x.desc r ≤ r.signalled →
        (taskOf (transferMap t.id (fun r => { r with flight := [] }) (waitStarts s)) t.id).bind transferRunOf =
          some { r with flight := [] } → exec (.streamTileLanded n) s =
        leaves s (transferDone t.id (transferMap t.id (fun r => { r with flight := [] }) (waitStarts s))))) ∧
    (s.regs.wdogCtl.getLsbD 16 = false ∨ s.cmd.tasks.filter (isWaiting s) = [] → exec .watchdogFire s = .next s) ∧
    (usSince s s.strm.wdogSince < bitsNat s.regs.wdogCtl 0 16 * 1000 → exec .watchdogFire s = .next s) ∧
    (s.regs.wdogCtl.getLsbD 16 = true → bitsNat s.regs.wdogCtl 0 16 * 1000 ≤ usSince s s.strm.wdogSince →
      (∀ w ∈ s.cmd.tasks, cycleOf s w.id = none) → (s.cmd.tasks.filter (isWaiting s)).getLast? = some t →
      exec .watchdogFire s = leaves s (breakWait t none false s))

/-- R321, R318: a speculative walk fills the cache or ends; a walk that met a page being moved is made again, and waits on while the
page moves, for 1 ms in all. R339, R341: the open batch closes 10 µs after it opened, and waiting batches go to free slots in order.
R343: a conversion answers once, with the place of a cached page, or with cause 2 for a write that it forbids. R393: a near request is
answered NACK up to its sixteenth, or wins its line. -/
def Obligations.WalksAndFaults : Prop :=
  ∀ (s : State) (id : Nat) (w : Walk) (b : Batch) (rest : List Batch) (v : Word) (x : Xlat) (q : NearReq) (t0 : Word), s.Inv →
    (s.xl.walks.find? (fun w => w.id == id) = none → exec (.walkComplete id) s = .next s ∧ exec (.walkMigRetry id) s = .next s) ∧
    (s.xl.walks.find? (fun w => w.id == id) = some w → (w.spec = false ∨ w.mig.isSome = true) → exec (.walkComplete id) s = .next s) ∧
    (s.xl.walks.find? (fun w => w.id == id) = some w → w.spec = true → w.mig = none →
      exec (.walkComplete id) s = leaves s (prefetchSweep (specWalked w s))) ∧
    (s.xl.walks.find? (fun w => w.id == id) = some w → w.mig = none → exec (.walkMigRetry id) s = .next s) ∧
    (s.xl.walks.find? (fun w => w.id == id) = some w → w.mig = some t0 → stillMoving w.va s = true → usSince s t0 < 1000 →
      exec (.walkMigRetry id) s = .next s) ∧
    (∀ k, s.xl.walks.find? (fun w => w.id == id) = some w → w.mig = some t0 → w.spec = false → w.task = some k →
      (stillMoving w.va s = false ∨ 1000 ≤ usSince s t0) → exec (.walkMigRetry id) s = leaves s (dropWalk id (resumeTask k s))) ∧
    (s.xl.open_ = none → exec .faultBatchClose s = .next s) ∧
    (s.xl.open_ = some b → exec .faultBatchClose s = .next { s with xl := { s.xl with
      open_ := none, waiting := s.xl.waiting ++ [{ b with closed := now s, close := 3 }]
      overflow := s.xl.overflow || decide (4 ≤ s.xl.waiting.length) } }) ∧
    (s.xl.waiting = [] ∨ fcQlog2 s = 0 ∨ fcFree s = false → exec .faultBatchWrite s = .next s) ∧
    (∀ u, s.xl.waiting = b :: rest → fcQlog2 s ≠ 0 → fcFree s = true → placeBatch (fcBase s + fcSlot s * 2 ^ 17) (batchParts b s) s = some u →
      exec .faultBatchWrite s = leaves s (raiseEvent 0 { u with xl := { u.xl with
        waiting := rest, written := u.xl.written ++ [(b.seq, some (fcSlot s), b)], prod := u.xl.prod + 1, lastSeq := b.seq
        overflow := u.xl.overflow && decide (4 < rest.length), slotFail := false } })) ∧
    (s.boot.inReset = false → writesLive s = false → exec (.xlateReq v) s = .next (misuse 0x1538 s)) ∧
    (s.boot.inReset = false → writesLive s = true → s.xl.convert.isSome = true → exec (.xlateReq v) s = .next s) ∧
    (∀ a, s.boot.inReset = false → writesLive s = true → s.xl.convert = none → tlbFind s (bitsNat v 0 52) = some x →
      x.at (bitsNat v 0 52) = .dev a → (v.getLsbD 63 = false ∨ x.w = true) → exec (.xlateReq v) s =
        .next { s with xl := { s.xl with xlateResult := BitVec.ofNat 64 (pageCode x.lg * 2 ^ 60 + a) } }) ∧
    (s.boot.inReset = false → writesLive s = true → s.xl.convert = none → tlbFind s (bitsNat v 0 52) = some x → v.getLsbD 63 = true →
      x.w = false → exec (.xlateReq v) s = .next { s with xl := { s.xl with xlateResult := 0x0200000000000000 } }) ∧
    (∀ nk, s.host.nearReqs.find? (fun r => r.id == id) = none → exec (.nearRetry id nk) s = .next s) ∧
    (s.host.nearReqs.find? (fun r => r.id == id) = some q →
      (∀ nk, 16 ≤ q.nacks → exec (.nearRetry id nk) s = .next s) ∧
      (q.nacks < 15 → exec (.nearRetry id true) s = .next { s with host := { s.host with
        nearReqs := s.host.nearReqs.map (fun y => if y.id = id then { y with nacks := y.nacks + 1 } else y) } }) ∧
      (∀ u, q.nacks < 16 → hostHolds s q.line = none → (winNear q).go (some q.task) (dropReq id s) = (.ok (), u) →
        exec (.nearRetry id false) s = leaves s (atomicSettle q.task u)) ∧
      (∀ u, q.nacks = 15 → (turnFar q).go (some q.task) (dropReq id s) = (.ok (), u) →
        exec (.nearRetry id true) s = leaves s (atomicSettle q.task u)))

/-! ### Clocks -/

/-- R421, R431, R422: the settle delay's end starts the first comparison window, with the tolerance SOL_CLK_CTL holds; RCO direct
retries a lock, to the crystal where the last window passed and else to the RCO; a write of start to SOL_CLK_TEST runs a test window;
outside these states each does nothing. -/
def Obligations.ClockStartsAndRetries : Prop :=
  ∀ (s : State) (v : Word), s.Inv → s.boot.inReset = false →
    (s.clk.st = 1 → exec .xtalSettleEnd s =
      .next { s with clk := { s.clk with st := 2, tol := bitsNat s.regs.clkCtl 0 12 } }) ∧
    (s.clk.st ≠ 1 → exec .xtalSettleEnd s = .next s) ∧
    (s.clk.st = 7 → s.clk.locking = none → exec .rcoDirectRetry s =
      .next { s with clk := { s.clk with locking := some s.clk.lastPass } }) ∧
    (s.clk.st ≠ 7 → exec .rcoDirectRetry s = .next s) ∧
    (writesLive s = true → v.getLsbD 0 = true → s.clk.testBusy = false → exec (.clkTest v) s =
      .next { s with clk := { s.clk with testBusy := true, testTol := bitsNat s.regs.clkCtl 0 12 } }) ∧
    (writesLive s = true → (v.getLsbD 0 = false ∨ s.clk.testBusy = true) → exec (.clkTest v) s = .next s)

/-- R422: a window whose count lies within the tolerance passes. The first passing window starts a lock to the crystal; a passing test
window only reports. Nothing but the clock block changes. -/
def Obligations.ClockWindowPasses : Prop :=
  ∀ (s : State) (n : Nat), s.Inv → s.rep.inj = none →
    (s.clk.testBusy = true → exec (.clockWindowEnd n true) s =
      .next { s with clk := { s.clk with
        testBusy := false, testFail := !(windowPasses n s.clk.testTol s), lastCount := BitVec.ofNat 32 n } }) ∧
    (s.clk.st = 2 → s.clk.locking = none → windowPasses n s.clk.tol s = true → exec (.clockWindowEnd n false) s =
      .next { s with clk := { s.clk with
        lastCount := BitVec.ofNat 32 n, tol := bitsNat s.regs.clkCtl 0 12, lastPass := true, passes := 0
        locking := some true } }) ∧
    (s.clk.st = 4 → windowPasses n s.clk.tol s = true → exec (.clockWindowEnd n false) s =
      .next { s with clk := { s.clk with
        lastCount := BitVec.ofNat 32 n, tol := bitsNat s.regs.clkCtl 0 12, lastPass := true, passes := s.clk.passes + 1 } })

/-- R423, R428: on a crystal failure the engine coasts: the record of detector 0x15 is written, SOL_CLK_STATUS reports the failure, time
lock clears, the dividers ramp up, and (R437, an engine in coast being no candidate) the grandmaster is chosen again. Losing the PLL's
lock on the crystal is such a failure. -/
def Obligations.CrystalFails : Prop :=
  ∀ (s : State), s.Inv → s.boot.inReset = false → s.clk.coast = false → s.clk.src = .pllCrystal →
    exec .xtalEdgeLoss s = leaves s (elect (gaugeCoast true (loseLock { logErr { det := 0x15, sev := 1 } s with
      clk := { s.clk with coast := true, xtalFail := true, coasts := satAdd s.clk.coasts 1, passes := 0, lastPass := false, st := 3,
                          pllLock := false, ramp := .up, locking := none } }))) ∧
    (s.clk.pllLock = true → exec .pllLockLoss s = exec .xtalEdgeLoss s) ∧
    (s.clk.pllLock = false → exec .pllLockLoss s = .next s)

/-- R427: at a lock the domains move to root ÷64 at one edge, FTIME's lock clears and its servo acquires again. R431: where no lock to
the RCO comes in time all domains stay on the RCO, state 7 is reported and detector 0x16 logs it. R426: each RAMP_INTERVAL moves every
divider one step: up toward ÷64, down toward 4, 5 and 8, and no further. The ramp alone changes nothing else until every divider is at
its end. -/
def Obligations.PllLocks : Prop :=
  (∀ (s : State) (x : Bool), s.Inv → s.rep.inj = none → s.clk.locking = some x →
      exec .pllLock s = .next { s with
        clk := { s.clk with src := if x then .pllCrystal else .pllRco, pllLock := true, locking := none, ramp := .down, divA := 64, divF := 64,
                            divC := 64, st := if x && s.clk.coast then 6 else 3 }
        time := { s.time with lock := false, good := 0, bad := 0, ppsOut := false, acquire := some [], lastSync := none,
                              lastPair := none } } ∧
      (x = false → exec .pllLockTimeout s = leaves s (logErr { det := 0x16, sev := 1 } { s with
        clk := { s.clk with locking := none, st := 7 }
        boot := { s.boot with phase := if s.boot.phase = 1 then 2 else s.boot.phase } })) ∧
      (x = true → exec .pllLockTimeout s = leaves s (crystalFail 0x15 false s))) ∧
  (∀ (s : State), s.Inv →
      (s.clk.ramp = .none → exec .clockRampStep s = .next s) ∧
      (s.clk.ramp = .up → (s.clk.divA < 63 ∨ s.clk.divF < 63 ∨ s.clk.divC < 63) → exec .clockRampStep s =
        .next { s with clk := { s.clk with
          divA := min 64 (s.clk.divA + 1), divF := min 64 (s.clk.divF + 1), divC := min 64 (s.clk.divC + 1) } }) ∧
      (s.clk.ramp = .down → (5 < s.clk.divA ∨ 6 < s.clk.divF ∨ 9 < s.clk.divC) → exec .clockRampStep s =
        .next { s with clk := { s.clk with
          divA := if 4 < s.clk.divA then s.clk.divA - 1 else s.clk.divA
          divF := if 5 < s.clk.divF then s.clk.divF - 1 else s.clk.divF
          divC := if 8 < s.clk.divC then s.clk.divC - 1 else s.clk.divC } }))

/-! ### The Gauge -/

/-- R445, R453: in every 10 µs interval the channels take the core's energy, the engine's share of the HBM rail's (by beats granted;
free where none was) and the M-die's report, or nothing where none came; total takes the sum; each saturates at 2^64 − 1, and the
interval's powers replace the last ones. Beside the Gauge only a record of detector 0x1E may be written. -/
def Obligations.GaugeIntervalAdds : Prop :=
  ∀ (s : State) (eCore eRail mine all : Nat), s.Inv → s.rep.inj = none → s.gauge.portInj = none →
    ∃ t f, exec (.gaugeInterval eCore eRail mine all) s = .next t ∧ (0 < all → f = eRail * mine / all) ∧
      t.gauge.eCore = satAdd s.gauge.eCore eCore ∧ t.gauge.eHbm = satAdd s.gauge.eHbm f ∧
      t.gauge.eMdie = satAdd s.gauge.eMdie (s.gauge.report.getD 0) ∧
      t.gauge.eTotal = satAdd s.gauge.eTotal (eCore + f + s.gauge.report.getD 0) ∧
      t.gauge.pCore = intervalPower eCore ∧ t.gauge.pHbm = intervalPower f ∧
      t.gauge.pMdie = intervalPower (s.gauge.report.getD 0) ∧
      t.gauge.pTotal = intervalPower (eCore + f + s.gauge.report.getD 0) ∧
      t.gauge.report = none ∧ t.gauge.mdieAbsent = s.gauge.report.isNone ∧ t.gauge.epoch = s.gauge.epoch ∧
      t.gauge.queue = s.gauge.queue ∧ t.gauge.rows = s.gauge.rows ∧ t.gauge.bytes = s.gauge.bytes ∧
      t.gauge.records = s.gauge.records ∧ LogOnly s { t with gauge := s.gauge, draws := s.draws }

/-- R445: the M-die's report of the present interval is kept until the interval ends. R449: a window whose edges deviate by 0.2 % or
less declares nothing, and ends a fault with a log entry of code 0x03. -/
def Obligations.GaugeReportsAndSupervision : Prop :=
  ∀ (s : State) (e edges : Nat), s.Inv →
    exec (.gaugeMdieReport e) s = .next { s with gauge := { s.gauge with report := some e } } ∧
    (s.rep.inj = none → s.gauge.portInj = none →
      (((4 * edges : Int) - expectedEdges4 s).natAbs * 1000000 ≤ 2000 * expectedEdges4 s) →
      (s.gauge.supervision = false → exec (.gaugeSupervisionWindow edges) s = .next s) ∧
      (s.gauge.supervision = true → exec (.gaugeSupervisionWindow edges) s =
        .next (gaugeLog 0x03 0 { s with gauge := { s.gauge with supervision := false } }))) ∧
    (s.rep.inj = none → s.gauge.portInj = none → s.gauge.supervision = false →
      (2000 * expectedEdges4 s < ((4 * edges : Int) - expectedEdges4 s).natAbs * 1000000) →
      ∃ t, exec (.gaugeSupervisionWindow edges) s = .next t ∧ t.gauge.supervision = true ∧ t.gauge.logCount = s.gauge.logCount + 1 ∧
        LogOnly s { t with gauge := s.gauge })

/-- R452, R457: a readout for the test port takes its place from the queue, uses one sequence number and is given to the port; a
tester's request joins the queue while it has fewer than 16. -/
def Obligations.GaugeServesTestPort : Prop :=
  ∀ (s : State) (r : Readout) (rest : List Readout) (kind : Byte) (nonce : BitVec 128), s.Inv →
    (s.gauge.queue = r :: rest → r.task = none → ∃ t, exec .gaugeSign s = .next t ∧ t.gauge.queue = rest ∧
      t.gauge.seq = s.gauge.seq + 1 ∧
      t.gauge.portOut = (readoutBlock r { s with gauge := { s.gauge with queue := rest, seq := s.gauge.seq + 1 } }).1 ∧
      { t with gauge := s.gauge, draws := s.draws } = s) ∧
    (s.gauge.queue = [] → exec .gaugeSign s = .next s) ∧
    (kind.toNat < 3 → s.gauge.queue.length < 16 → exec (.metrologyRead kind nonce) s =
      .next { s with gauge := { s.gauge with queue := s.gauge.queue ++ [⟨kind, nonce, none⟩] } }) ∧
    (3 ≤ kind.toNat ∨ 16 ≤ s.gauge.queue.length → exec (.metrologyRead kind nonce) s = .next s)

/-- R457, R451: the test port injects the Gauge's three detectors alone, each logged by code 0x0C; a session is logged by code 0x0A. A
calibration write is applied before the seal is blown; afterwards it is refused and logged by code 0x0B. The seal is blown once. -/
def Obligations.GaugeTestPortAndSeal : Prop :=
  ∀ (s : State) (d : Byte) (w : Nat) (v : BitVec 32) (b : Bool), s.Inv →
    (d = 0x1C ∨ d = 0x1D ∨ d = 0x1E → exec (.metrologyInject d) s =
      .next (gaugeLog 0x0C d.toNat { s with gauge := { s.gauge with portInj := some d } })) ∧
    (¬ (d = 0x1C ∨ d = 0x1D ∨ d = 0x1E) → exec (.metrologyInject d) s = .next s) ∧
    exec (.metrologySessionOpen b) s = .next (gaugeLog 0x0A (if b then 1 else 0) s) ∧
    (s.fuses.sealed = false → exec (.metrologyCalWrite w v) s =
      .next { s with fuses := { s.fuses with cal := smapSet s.fuses.cal w v } }) ∧
    (s.fuses.sealed = true → exec (.metrologyCalWrite w v) s = .next (gaugeLog 0x0B w s)) ∧
    (s.fuses.sealed = false → exec .sealBlow s = .next (gaugeLog 0x09 0 { s with fuses := { s.fuses with sealed := true } })) ∧
    (s.fuses.sealed = true → exec .sealBlow s = .next s)

/-! ### Fabric Time -/

/-- R437, R438: at its period an engine elects anew and announces the best grandmaster it knew to each time neighbour, or itself with
priority 255 where it knew none; it sends TIME_SYNC, each with the neighbour's next sequence, to every neighbour but its parent. An
engine that is not its module's agent has the agent as its one neighbour. -/
def Obligations.TimePeriodsSend : Prop :=
  ∀ (s : State), s.Inv →
    (exec .timeAnnouncePeriod s = leaves s ((timeNeighbours s).foldl (fun u n => sendTime n 0x40
      (if s.time.gmPrio < 255 then [(32, 8, (now s).toNat), (40, 2, s.time.gmEid), (42, 1, s.time.gmPrio), (43, 1, s.time.steps)]
       else [(32, 8, (now s).toNat), (40, 2, (ownEid s).toNat), (42, 1, 255), (43, 1, 0)]) u) (elect s))) ∧
    (isAgent s = false → ∀ k, s.fab.otherAgent = some k → timeNeighbours s = [(eidOf (ownModule s) k, none)]) ∧
    (∀ n, timeNeighbours s = [n] → s.time.parent ≠ some n.1 → s.time.egress = [] → ∃ t,
      exec .timeSyncPeriod s = leaves s t ∧ t.time.egress = [(n.1, 1, now s)] ∧
      t.fab = (sendTime n 0x41 [(32, 8, 0), (40, 4, 0)] s).fab) ∧
    (∀ n, timeNeighbours s = [n] → s.time.parent = some n.1 → exec .timeSyncPeriod s = .next s)

/-- R437: an announcement not renewed within 375 ms is forgotten, and the engine elects again; the parent's brings holdover first. A
younger one, and one never heard, stand. R433, R437, R440: an election touches Fabric Time alone. An engine with a priority below 255
whose crystal runs, and which has heard of no better grandmaster, is the grandmaster and time-locked. -/
def Obligations.AnnouncementsExpire : Prop :=
  (∀ (s : State) (src : Eid) (a : Announce), s.Inv → s.time.announces.find? (fun a => a.src == src.toNat) = some a →
      (usSince s a.at_ < 375000 → exec (.announceExpire src) s = .next s) ∧
      (375000 ≤ usSince s a.at_ → s.time.parent ≠ some src.toNat → exec (.announceExpire src) s =
        .next (elect { s with time := { s.time with announces := s.time.announces.filter (fun x => x.src != src.toNat) } })) ∧
      (375000 ≤ usSince s a.at_ → s.time.parent = some src.toNat → exec (.announceExpire src) s =
        .next (elect { s with time := { s.time with
          announces := s.time.announces.filter (fun x => x.src != src.toNat)
          parent := none, holdover := true, holdSince := some (tick s), acquire := none, lastSync := none } }))) ∧
  (∀ (s : State), { elect s with time := s.time } = s ∧
      (s.time.announces = [] → gmPrioOf s < 255 → s.clk.coast = false →
        (elect s).time = { s.time with parent := none, gmEid := (ownEid s).toNat, gmPrio := gmPrioOf s, steps := 0, holdover := false
                                       holdSince := none, acquire := none, lastSync := none } ∧
        timeLocked (elect s) = true) ∧
      (s.time.announces = [] → (255 ≤ gmPrioOf s ∨ s.clk.coast = true) → (elect s).time.gmPrio = 0xFF ∧ (elect s).time.parent = none))

/-- R441, R444: eight sync intervals without the parent bring holdover, in which trim stands; after holdover_ms time lock clears. The
pulse rises at the edge that advances the seconds, with pps_en and time lock set, and falls at the fraction 0x2000_0000. -/
def Obligations.HoldoverAndPulse : Prop :=
  ∀ (s : State), s.Inv →
    (∀ p, s.time.parent = some p → 7812 ≤ usSince s s.time.syncAt → exec .holdoverEnter s = .next { s with time := { s.time with
      announces := s.time.announces.filter (fun a => a.src != p)
      parent := none, holdover := true, holdSince := some (tick s), acquire := none, lastSync := none } }) ∧
    (s.time.parent = none → exec .holdoverEnter s = .next s) ∧
    (∀ t0, s.time.holdSince = some t0 → s.time.holdover = true → holdoverMs s * 1000 ≤ usSince s t0 →
      exec .holdoverExpire s = .next { s with time := { s.time with lock := false, good := 0, bad := 0, ppsOut := false } }) ∧
    (s.time.holdover = false → exec .holdoverExpire s = .next s) ∧
    (ppsEnabled s = true → timeLocked s = true → s.time.ftime.toNat % 2 ^ 64 < edgeStep s → bits s.time.ftime 64 32 ≠ s.time.ppsSec →
      exec .ppsRise s = .next { s with time := { s.time with ppsOut := true, ppsSec := bits s.time.ftime 64 32 } }) ∧
    (ppsEnabled s = false ∨ timeLocked s = false → exec .ppsRise s = .next s) ∧
    (0x20000000 ≤ bitsNat (now s) 0 32 → exec .ppsFall s = .next { s with time := { s.time with ppsOut := false } }) ∧
    (bitsNat (now s) 0 32 < 0x20000000 → exec .ppsFall s = .next s)

/-! ### Reset, firmware, registers and the staged set -/

/-- R486, R484: cold reset, and VDD_CORE or VDD_SRAM out of tolerance, clears the engine under Table Boot-2: no ring, task, table, list,
gradient, stream, translation or message is left; every register, the clocks, FTIME and the error log stand at their reset values;
device and host memory, fuses, the Gauge and what has left the engine stay. R484: the other rails are no reset of the engine's (log
entry 65). R486, R488: the release of cold reset starts phase 0x1, from which the clocks, once they run, lead to the boot self-test.
R421: a settle value from 9 to 15 is logged then, by detector 0x15. -/
def Obligations.ColdResetClears : Prop :=
  (∀ (s : State), s.Inv → ∃ t, exec .coldReset s = .next t ∧ exec (.railFault .core) s = .next t ∧ exec (.railFault .sram) s = .next t ∧
      t.boot = { BootState.cold with inReset := true } ∧ t.regs = Regs.cold s.fuses.eid ∧
      t.cmd = { CmdState.cold with msix := s.cmd.msix } ∧ t.tab = TableState.cold ∧ t.hold = HolderState.cold ∧
      t.grad = GradState.cold ∧ t.berm = BermState.cold ∧ t.strm.streams = [] ∧ t.strm.sems = [] ∧ t.strm.chains = [] ∧ t.strm.hops = [] ∧
      t.xl = XlateState.cold ∧ t.gov = GovState.cold ∧ t.clk = ClkState.cold ∧ t.time = TimeState.cold ∧
      t.mem = { MemState.cold with dev := s.mem.dev, host := s.mem.host, poison := s.mem.poison } ∧
      t.rep.prod = 0 ∧ t.rep.buffer = [] ∧ t.rep.inj = none ∧ t.rep.soft = [] ∧ t.rep.failed = false ∧
      t.fab.kept = [] ∧ t.fab.lost = [] ∧ t.fab.credits = [] ∧ t.fab.seen = [] ∧ t.fab.sent = s.fab.sent ∧
      t.host = { HostState.cold with readData := s.host.readData } ∧
      t.fuses = s.fuses ∧ t.gauge = s.gauge ∧ t.draws = s.draws ∧ t.pending = s.pending) ∧
  (∀ (s : State), s.Inv →
      exec (.railFault .aon) s = .next s ∧ exec (.railFault .io) s = .next s ∧
      (s.fuses.xsettle ≤ 8 → exec .coldResetRelease s = .next { s with boot := { s.boot with inReset := false } }) ∧
      (8 < s.fuses.xsettle → exec .coldResetRelease s = if s.boot.inReset then
        leaves s (logErr { det := 0x15, sev := 0 } { s with boot := { s.boot with inReset := false } }) else .next s))

/-- R487: an engine reset tells the open flows' engines and the module's, and then leaves no ring, task, table, list, gradient, stream,
translation or message, and registers at their reset values but for the clock block's; repairs in service, lost marks, memory, fuses
and the Gauge stay. In cold reset it does nothing; before phase 0x3 there is no firmware to restart. -/
def Obligations.EngineResetClears : Prop :=
  ∀ (s : State), s.Inv →
    (s.boot.inReset = true → exec .engReset s = .next s) ∧
    (s.boot.inReset = false → s.boot.phase = 7 → exec .engReset s = .next (misuse 0x100 s)) ∧
    (s.boot.inReset = false → s.boot.phase ≠ 7 →
      ((s.boot.phase = 1 ∨ s.boot.phase = 2) ∨ (s.regs.fwSrc.getLsbD 60 = false ∧ sha256 s.boot.image = s.boot.digest)) →
      ∃ t, exec .engReset s = .next t ∧
      t.boot = { s.boot with fwResult := 0, commitResult := 0, bootFail := 0
                             phase := if s.boot.phase = 1 ∨ s.boot.phase = 2 then s.boot.phase else 5 } ∧
      t.regs = { Regs.cold s.fuses.eid with clkCtl := s.regs.clkCtl, clkout := s.regs.clkout } ∧
      t.cmd.rings = [] ∧ t.cmd.tasks = [] ∧ t.cmd.staged = [] ∧ t.cmd.pendCommit = none ∧ t.tab = TableState.cold ∧
      t.hold = HolderState.cold ∧ t.grad = GradState.cold ∧ t.strm.streams = [] ∧ t.strm.sems = [] ∧ t.xl = XlateState.cold ∧
      t.gov = GovState.cold ∧ t.fab.kept = [] ∧ t.fab.lost = s.fab.lost ∧ t.clk = s.clk ∧ t.gauge = s.gauge ∧ t.fuses = s.fuses ∧
      t.mem.host = s.mem.host ∧ t.mem.scratch = [] ∧ t.rep.polderMap = s.rep.polderMap ∧ t.rep.soft = s.rep.soft ∧
      t.rep.inj = none)

/-- R490: while firmware is awaited a load runs the image that SOL_FW_SRC points at if it passes every check; the engine then is in
phase 0x5, with the image's version and svn and the image kept. Where the header cannot be read result 0x2 is reported and the engine
stays in phase 0x3. R492: svn_commit raises the floor to the running image's svn, and never lowers it. R466: after 10 ms without a
heartbeat detector 0x19 logs a record, the firmware's tasks end with HW_ERROR, and the control processor restarts from the image kept.
With no such task, and the image intact, firmware runs on in phase 0x5. -/
def Obligations.FirmwareLoads : Prop :=
  (∀ (s : State) (h body : Bytes), s.Inv → s.boot.inReset = false →
      (s.boot.phase = 3 → fwRead (fwPlace s.regs.fwSrc) 256 s = (some h, s) → fwLenOk (leField h 16 4) = true →
        fwRead ((fwPlace s.regs.fwSrc).add 256) (leField h 16 4) s = (some body, s) → fwJudge s.fuses h body = 1 →
        exec .fwLoad s = .next { s with boot := { s.boot with
          phase := 5, fwResult := 1, fwVersion := BitVec.ofNat 32 (leField h 12 4), fwSvn := BitVec.ofNat 8 (leField h 11 1)
          image := body, digest := fwSlice h 24 32 } }) ∧
      (s.boot.phase = 3 → fwRead (fwPlace s.regs.fwSrc) 256 s = (none, s) →
        exec .fwLoad s = .next { s with boot := { s.boot with phase := 3, fwResult := 2, fwVersion := 0, fwSvn := 0 } }) ∧
      (s.boot.phase ≠ 3 → exec .fwLoad s = .next (misuse 0x100 s)) ∧
      (s.boot.phase = 5 ∨ s.boot.phase = 6 → exec .svnCommit s = .next { s with fuses := { s.fuses with
        svnFloor := max s.fuses.svnFloor (min 127 s.boot.fwSvn.toNat) } })) ∧
  (∀ (s : State), s.Inv → s.boot.inReset = false → s.rep.inj = none →
      (writesLive s = true → fwTasks s = [] → sha256 s.boot.image = s.boot.digest → exec .cpHeartbeatTimeout s =
        .next { logErr { det := 0x19, sev := 2, action := 7 } s with boot := { s.boot with phase := 5 } }) ∧
      (writesLive s = false → exec .cpHeartbeatTimeout s = .next s))

/-- R496, R488: once the clocks run, the boot self-test runs every set: the berm and the scratchpad are emptied, and where nothing is
found the engine waits for firmware, with no set failing. In any other phase, and in cold reset, nothing happens. -/
def Obligations.BootSelftestRuns : Prop :=
  ∀ (s : State) (found : List Finding), s.Inv →
    (s.boot.inReset = false → s.boot.phase = 2 → ∃ t, exec (.bootSelftest []) s = .next t ∧
      t.boot = { s.boot with bootFail := 0, phase := 3 } ∧ t.berm.sets = [] ∧ t.mem.dev = s.mem.dev ∧
      t.mem.host = s.mem.host ∧ t.rep = s.rep ∧ t.fuses = s.fuses ∧ t.regs = s.regs ∧ t.cmd = s.cmd ∧ t.clk = s.clk) ∧
    (s.boot.inReset = true ∨ s.boot.phase ≠ 2 → exec (.bootSelftest found) s = .next s)

/-- R507: with an RCT base, and both queues translated, enabling ring 0 builds its entry from the SOL_RING0 registers; an enabled ring
ignores the write; without an RCT base it is discarded. Disabling ring 0 drains it; a disabled ring ignores that. -/
def Obligations.RingZeroSwitches : Prop :=
  ∀ (s : State), s.Inv → s.boot.inReset = false → writesLive s = true →
    ((ringGet s 0).st ≠ .disabled → exec .ring0Enable s = .next s) ∧
    ((ringGet s 0).st = .disabled → rctBase s = 0 → exec .ring0Enable s = .next (misuse 0x138 s)) ∧
    (∀ sq cq, (ringGet s 0).st = .disabled → rctBase s ≠ 0 →
      (ctRange false (2 ^ 11) (ring0Built s).sqBase.toNat ((ring0Built s).sqBase.toNat + 64 * ringDepth (ring0Built s))).go none s = (.ok (some sq), s) →
      (ctRange true (2 ^ 11) (ring0Built s).cqBase.toNat ((ring0Built s).cqBase.toNat + 32 * ringDepth (ring0Built s))).go none s = (.ok (some cq), s) →
      exec .ring0Enable s = leaves s (ringSet 0 (ring0Built s) { s with
        xl := { s.xl with ring0Store := sq ++ cq }, cmd := { s.cmd with ring0Moved := false } })) ∧
    ((ringGet s 0).st = .enabled → exec .ring0Disable s = leaves s (startDrain 0 none false s)) ∧
    ((ringGet s 0).st = .disabled → exec .ring0Disable s = .next s)

/-- R503, R61, R508: a write of a staged register joins the set as one whole register, in place of the entry the set held for it; a
discard empties the set; neither touches a live register. R503: SOL_MEM_CTL's hbm_online bits act at once. -/
def Obligations.StagingKeepsRegisters : Prop :=
  ∀ (s : State) (off : Nat) (v m : Word), s.Inv → s.boot.inReset = false → writesLive s = true → stagedMask off = some m →
    (off ≠ 0x160 → stageFits s.cmd.staged [(off, v &&& m)] = true → exec (.stageWrite off v) s =
      .next { s with cmd := { s.cmd with staged := stageOne s.cmd.staged (off, v &&& m) } }) ∧
    (stageFits s.cmd.staged [(off, v &&& m)] = false → exec (.stageWrite off v) s = .next (misuse off s)) ∧
    (stageFits s.cmd.staged [(0x160, v &&& 0xF00)] = true → exec (.hbmOnlineWrite v) s =
      leaves s { bringOnline v s with cmd := { (bringOnline v s).cmd with
        staged := stageOne (bringOnline v s).cmd.staged (0x160, v &&& 0xF00) } }) ∧
    exec .stageDiscard s = .next { s with cmd := { s.cmd with staged := [] } }

/-- R493: cfg_commit, in phase 0x5 with ring 0 disabled and no commit pending, captures the staged set and checks it: a set that fails
leaves commit_result 0x2, the set returned and the registers as they were; one that passes reaches its commit point. In another phase,
or with ring 0 in use, it is discarded. -/
def Obligations.CfgCommitChecks : Prop :=
  ∀ (s : State) (reason i : Nat), s.Inv → s.boot.inReset = false →
    (s.boot.phase = 5 → (ringGet s 0).st = .disabled → s.cmd.pendCommit = none →
      setChecks s.cmd.staged { s with cmd := { s.cmd with staged := [] } } = some (reason, i) → exec .cfgCommit s =
        .next { s with
          cmd := { s.cmd with lastReason := BitVec.ofNat 8 reason, lastIndex := BitVec.ofNat 16 i, pendCommit := none }
          boot := { s.boot with commitResult := 2 } }) ∧
    (s.boot.phase = 5 → (ringGet s 0).st = .disabled → s.cmd.pendCommit = none →
      setChecks s.cmd.staged { s with cmd := { s.cmd with staged := [] } } = none → exec .cfgCommit s =
        leaves s (configCommitPoint { s with cmd := { s.cmd with staged := [], pendCommit := some ⟨s.cmd.staged, none⟩ } })) ∧
    (s.boot.phase ≠ 5 ∨ (ringGet s 0).st ≠ .disabled ∨ s.cmd.pendCommit.isSome = true → exec .cfgCommit s = .next (misuse 0x100 s))

/-- R63: at its commit point a pending set that neither moves a queue, a spillway, the page-table root, the window, the routes, the
error ring nor Fabric Time puts its values in force at once, and its CONFIG_COMMIT completes with the number of entries. With no
commit pending nothing happens. -/
def Obligations.CommitPointApplies : Prop :=
  ∀ (s : State) (c : PendCommit) (id : Nat) (t : Task) (w : Work), s.Inv →
    (s.cmd.pendCommit = none → exec .configCommitPoint s = .next s) ∧
    (s.cmd.pendCommit = some c → commitReady c.entries s = true → c.task = some id → taskOf s id = some t → t.phase = .running w →
      firstBad c.entries (fun e => crossFails (applyEntries s.regs c.entries) s e.1) = none →
      (∀ e ∈ c.entries, e.1 = 0x150 ∨ e.1 = 0x160 ∨ e.1 = 0x1000 ∨ e.1 = 0x1018 ∨ e.1 = 0x1200 ∨ e.1 = 0x1208 ∨ e.1 = 0x1428) →
      exec .configCommitPoint s = leaves s (finishOk id c.entries.length { s with
        regs := applyEntries s.regs c.entries, cmd := { s.cmd with pendCommit := none } }))

/-- R510: clearing the mask bit of a pending event sends one message of the event's vector; a write that clears no pending event's bit
only stores the mask. R499, R501: a proper write of a register with no row of its own changes its writable fields and nothing else;
here SOL_STAGE_SEL, SOL_IRQ_PEND (write 1 to clear) and SOL_MIG_TAIL. A reserved offset takes no write. R499: a narrow or misaligned
read of a named register returns zero and is logged by detector 0x1A, and such a write is discarded and logged; a narrow read of a
reserved offset returns zero alone (R500). No read changes a register. -/
def Obligations.RegisterWritesAct : Prop :=
  (∀ (s : State) (v : Word), s.Inv → s.boot.inReset = false → writesLive s = true →
      ((∀ e < 4, s.regs.irqMask.getLsbD e = true → v.getLsbD e = true ∨ s.regs.irqPend.getLsbD e = false) → exec (.irqMaskWrite v) s =
        .next { s with regs := { s.regs with irqMask := v &&& 0xF } }) ∧
      (∀ e < 4, s.regs.irqMask.getLsbD e = true → v.getLsbD e = false → s.regs.irqPend.getLsbD e = true →
        (∀ k < 4, k ≠ e → s.regs.irqMask.getLsbD k = true → v.getLsbD k = true ∨ s.regs.irqPend.getLsbD k = false) →
        exec (.irqMaskWrite v) s = .next (msixOn (lowestLink s) (bitsNat s.regs.irqEvt (16 * e) 16)
          { s with regs := { s.regs with irqMask := v &&& 0xF } })) ∧
      exec (.registerWrite 0x208 8 v) s = .next { s with regs := { s.regs with stageSel := v &&& 0x1FF } } ∧
      exec (.registerWrite 0x408 8 v) s = .next { s with regs := { s.regs with irqPend := s.regs.irqPend &&& ~~~v } } ∧
      exec (.registerWrite 0x1550 8 v) s = .next { s with regs := { s.regs with migTail := v &&& 0x0000FFFFFFFFFFFF } } ∧
      exec (.registerWrite 0x1608 8 v) s = .next { s with rep := { s.rep with cons := bits v 32 32 } } ∧
      exec (.registerWrite 0x1528 8 v) s = .next { s with xl := { s.xl with cons := bits v 32 32 } } ∧
      exec (.registerWrite 0x28 8 v) s = .next s) ∧
  (∀ (s : State) (off size : Nat) (v : Word), s.Inv → s.boot.inReset = false → isMsix s off = false → ¬ (size = 8 ∧ off % 8 = 0) →
      (touchesReg off size = true → exec (.misalignedRegisterRead off size) s =
        .next (misuse off { s with host := { s.host with readData := some (zeroBytes size) } })) ∧
      (touchesReg off size = false → exec (.misalignedRegisterRead off size) s =
        .next { s with host := { s.host with readData := some (zeroBytes size) } }) ∧
      (touchesReg off size = true → exec (.registerWrite off size v) s = .next (misuse off s)) ∧
      (touchesReg off size = false → exec (.registerWrite off size v) s = .next s))

/-! ### Memory and the governor -/

/-- R355: training reports the rates and brings the packages online, unless the M-die path has been lost; a stack that has trained and
has not been lost comes online when SOL_MEM_CTL says so. R361: the highest MR4 rate of an online package sets lp_hot. -/
def Obligations.MemoryTrains : Prop :=
  ∀ (s : State) (hr lr : Nat), s.Inv →
    (hr ≠ 0 → lr ≠ 0 → s.mem.lpLost = false → exec (.memoryTrained hr lr) s = .next { s with mem := { s.mem with
      hbmTrained := true, hbmRate := BitVec.ofNat 8 hr, lpRate := BitVec.ofNat 16 lr
      lpOnline := BitVec.ofNat 3 (2 ^ s.fuses.lpCount - 1) } }) ∧
    (hr ≠ 0 → exec (.memoryTrained hr 0) s = .next { s with mem := { s.mem with hbmTrained := true, hbmRate := BitVec.ofNat 8 hr } }) ∧
    (s.mem.lpLost = true → lr ≠ 0 → exec (.memoryTrained 0 lr) s = .next { s with mem := { s.mem with lpRate := BitVec.ofNat 16 lr } }) ∧
    (s.mem.hbmTrained = true → ∀ v, bringOnline v s = { s with mem := { s.mem with
      hbmOnline := s.mem.hbmOnline ||| (bits v 0 2 &&& ~~~s.mem.hbmLost) } }) ∧
    (s.mem.lpOnline ≠ 0 → exec (.mr4Read true) s = .next { s with gov := { s.gov with lpHot := true } }) ∧
    exec (.mr4Read false) s = .next s

/-- R349: a stack that is lost goes offline for good and its translations are dropped; the M-die path takes every package with it. Each
loss is logged by detector 0x0A. A unit that is not online cannot be lost. R463, R358: the first report of a row writes a record of
detector 0x09 that names stack, pseudo-channel, bank and row; a row is reported once. -/
def Obligations.SitesGoOffline : Prop :=
  (∀ (s : State) (u : Nat), s.Inv →
      ((failUnits s u).any (unitOnline s) = false → exec (.siteOffline u) s = .next s) ∧
      ((failUnits s u).any (unitOnline s) = true → ∃ t, exec (.siteOffline u) s = .next t ∧
        (u < 2 → t.mem.hbmOnline = s.mem.hbmOnline &&& ~~~(1#2 <<< u) ∧ t.mem.hbmLost = s.mem.hbmLost ||| (1#2 <<< u) ∧
          t.mem.lpOnline = s.mem.lpOnline) ∧
        (2 ≤ u → t.mem.lpOnline = 0 ∧ t.mem.lpLost = true ∧ t.mem.hbmOnline = s.mem.hbmOnline) ∧
        (∀ x ∈ t.xl.tlb, inUnits s (failUnits s u) x.place = false) ∧ t.tab = s.tab ∧ t.strm = s.strm ∧ t.clk = s.clk ∧
        t.time = s.time ∧ t.gauge = s.gauge ∧ t.mem.scratch = s.mem.scratch ∧ t.cmd.tasks = s.cmd.tasks ∧
        (s.hold.kept = [] → s.hold.keptReq = [] → t.rep.prod = s.rep.prod + 1))) ∧
  (∀ (s : State) (k pc bank row : Nat), s.Inv → s.rep.inj = none →
      ((k, pc, bank, row) ∈ s.mem.ceRows → exec (.hbmRowCeReport k pc bank row) s = .next s) ∧
      ((k, pc, bank, row) ∉ s.mem.ceRows → exec (.hbmRowCeReport k pc bank row) s = .next (logErr
        { det := 0x09, sev := 0, phys := 64 * k + pc, address := unitFpa s k
          detail := [BitVec.ofNat 8 k, BitVec.ofNat 8 pc, BitVec.ofNat 8 bank, 0] ++ leBytes 4 row }
        { s with mem := { s.mem with ceRows := s.mem.ceRows ++ [(k, pc, bank, row)] } })))

/-- R362: with both stacks read, an update in the hard region halves the allowed fraction, down to 8, and reports region 2 and the hard
flag; below it the fraction is the loop's, or the busy floors' where they are higher. Only the governor's own state changes, but for
its event at the minimum. -/
def Obligations.GovernorUpdates : Prop :=
  ∀ (s : State) (a b : Nat), s.Inv → s.rep.inj = none → s.mem.hbmOnline = 3 →
    (hardEff s ≤ max a b → ∃ t, exec (.govUpdate (some a) (some b)) s = .next t ∧
      t.gov.allowed = BitVec.ofNat 9 (max 8 (s.gov.allowed.toNat / 2)) ∧ t.gov.region = 2 ∧ t.gov.hard = true ∧
      t.gov.integ = s.gov.integ ∧ t.gov.t0 = BitVec.ofNat 8 a ∧ t.gov.t1 = BitVec.ofNat 8 b ∧
      (8 < s.gov.allowed.toNat / 2 → { t with gov := s.gov } = s) ∧
      (s.gov.allowed.toNat / 2 ≤ 8 → t.gov.atMin = true ∧ t.regs.irqPend = s.regs.irqPend ||| 4)) ∧
    (max a b < hardEff s → ∃ t, exec (.govUpdate (some a) (some b)) s = .next t ∧ { t with gov := s.gov } = s ∧
      t.gov.region = (if max a b < bitsNat s.regs.govCtl 8 8 then 0 else 1) ∧
      t.gov.freeboard = BitVec.ofInt 8 ((hardEff s : Int) - (max a b : Nat)) ∧
      (busyFloors s ≤ (govLoop s (max a b) (f32Frac s.gauge.pTotal.toNat 64)).1 → t.gov.overridden = s.gov.overridden ∧
        t.gov.allowed = BitVec.ofNat 9 (govLoop s (max a b) (f32Frac s.gauge.pTotal.toNat 64)).1.toNat) ∧
      ((govLoop s (max a b) (f32Frac s.gauge.pTotal.toNat 64)).1 < busyFloors s → t.gov.overridden = true ∧
        t.gov.allowed = BitVec.ofNat 9 (busyFloors s)))

/-- R366: start with op 0 or 1 begins an operation on a stack that is offline; an online stack refuses with result 0x2; the register is
not taken while one runs. The operation's end clears busy and reports result and spares. -/
def Obligations.StackRepairRuns : Prop :=
  ∀ (s : State) (v : Word) (r n : Nat), s.Inv → s.boot.inReset = false → writesLive s = true → bitsNat v 56 3 < 2 → v.getLsbD 63 = true →
    (s.mem.pprBusy = false → s.mem.hbmOnline.getLsbD (bitsNat v 59 1) = false →
      exec (.hbmPprRepair v) s = .next { s with
        regs := { s.regs with hbmPpr := v &&& 0x0FFFFFFFFC000000 }, mem := { s.mem with pprBusy := true } } ∧
      exec (.hbmPprCountSpares v) s = exec (.hbmPprRepair v) s) ∧
    (s.mem.pprBusy = false → s.mem.hbmOnline.getLsbD (bitsNat v 59 1) = true →
      exec (.hbmPprRepair v) s = .next { s with
        regs := { s.regs with hbmPpr := v &&& 0x0FFFFFFFFC000000 }, mem := { s.mem with pprResult := 2 } } ∧
      exec (.hbmPprCountSpares v) s = exec (.hbmPprRepair v) s) ∧
    (s.mem.pprBusy = true → exec (.hbmPprRepair v) s = .next s ∧ exec (.hbmPprCountSpares v) s = .next s ∧
      exec (.hbmPprDone r n) s = .next { s with mem := { s.mem with
        pprBusy := false, pprResult := BitVec.ofNat 2 r, pprSpares := BitVec.ofNat 8 (min n 255) } }) ∧
    (s.mem.pprBusy = false → exec (.hbmPprDone r n) s = .next s)

/-! ### The host link -/

/-- R369: a link comes up at a width of x8 or x16 (codes 3, 4) and a rate of 32 or 64 GT/s (codes 5, 6), unless it has been lost. R370:
a link that goes down is lost for good: detector 0x13 logs it, near-held lines of its memory go, the directory forgets its lines, and,
as here no ring lies behind it and no back-invalidate waits on it, nothing else changes. -/
def Obligations.HostLinksComeAndGo : Prop :=
  ∀ (s : State) (l w r : Nat) (k : HostLink), s.Inv → s.host.links[l]? = some k →
    (k.lost = false → (w = 3 ∨ w = 4) → (r = 5 ∨ r = 6) → exec (.hostLinkUp l w r) s = .next { s with host := { s.host with
      links := s.host.links.set l ⟨true, false, BitVec.ofNat 4 w, BitVec.ofNat 4 r⟩ } }) ∧
    (k.lost = true ∨ (w ≠ 3 ∧ w ≠ 4) ∨ (r ≠ 5 ∧ r ≠ 6) → exec (.hostLinkUp l w r) s = .next s) ∧
    (k.up = false → exec (.hostLinkLost l) s = .next s) ∧
    (k.up = true → s.host.backInv = [] → ringsBehind (onLink l) s = [] → LogClear s → ∃ t, exec (.hostLinkLost l) s = .next t ∧
      t.host = { s.host with
        links := s.host.links.set l ⟨false, true, 0, 0⟩
        near := s.host.near.filter (fun x => x.link != some l)
        waiting := s.host.waiting.filter (fun r => r.link != l)
        dir := s.host.dir.filter (fun d => d.link != l) } ∧
      t.rep.prod = s.rep.prod + 1 ∧ LogOnly s { t with host := s.host })

/-- R377, R378: while the window is closed, or for a write while its wr bit is clear, an access fails: a write is dropped and counted, a
read returns poison and is counted. Otherwise the access is translated, and a place in this module whose lines no back-invalidate
holds is served; a write passes the host's own copy over the same link, and every other copy goes. Offsets beyond 2 GiB are not the
window's. -/
def Obligations.HostWindowServes : Prop :=
  ∀ (s u v : State) (l o n : Nat) (d : Option Bytes) (b : Bytes) (x : Xlat) (a : Nat), s.Inv → s.boot.inReset = false → s.rep.inj = none →
    linkUp s l = true →
    (2 ^ 31 ≤ o → exec (.hostWindowAccess l o n d) s = .next s) ∧
    (o < 2 ^ 31 → s.regs.hwinCtl.getLsbD 0 = false ∨ s.regs.hwinCtl.getLsbD 1 = false →
      ∃ t, exec (.hostWindowAccess l o n (some b)) s = .next t ∧
      t.host.droppedWr = satAdd s.host.droppedWr 1 ∧ LogOnly s { t with host := s.host, draws := s.draws }) ∧
    (o < 2 ^ 31 → s.regs.hwinCtl.getLsbD 0 = false → ∃ t, exec (.hostWindowAccess l o n none) s = .next t ∧
      t.host.poisonRd = satAdd s.host.poisonRd 1 ∧ t.host.readData = none ∧ LogOnly s { t with host := s.host, draws := s.draws }) ∧
    (o < 2 ^ 31 → s.regs.hwinCtl.getLsbD 0 = true → (d.isSome = true → s.regs.hwinCtl.getLsbD 1 = true) →
      v = { s with host := { s.host with nextReq := s.host.nextReq + 1 } } →
      (demand (hwinBase s + o) d.isSome).go none v = (.ok x, v) → x.at (hwinBase s + o) = .dev a → fpaModule a = ownModule s →
      s.host.backInv = [] → (∀ k, dirVictim k l v = none) → (hwinServe l (hwinBase s + o) (.dev a) n d).go none v = (.ok (), u) →
      exec (.hostWindowAccess l o n d) s = leaves s u) ∧
    ((∀ k, ownUnit s a = some k → unitOnline s k = true) → (hwinServe l (hwinBase s + o) (.dev a) n (some b)).go none s =
      (.ok (), (splitLines b.length a b).foldl (fun s y => hostWriteLine l y.1 y.2 s) s))

/-- R384, R385: an adapter access in no set region is unclaimed and counted, and a read of it ends with Unsupported Request; in a region
a write goes to its target with invalidation, and a read returns memory's bytes as they stand. -/
def Obligations.ApertureServes : Prop :=
  ∀ (s : State) (o n : Nat) (b : Bytes) (r : Region) (bytes : Bytes), s.Inv → s.boot.inReset = false →
    (regionAt s o b.length = none → exec (.apertureWrite o b) s =
      .next { s with host := { s.host with unclaimed := satAdd s.host.unclaimed 1 } }) ∧
    (regionAt s o n = none → exec (.apertureRead o n) s =
      .next { s with host := { s.host with unclaimed := satAdd s.host.unclaimed 1, readData := none } }) ∧
    (regionAt s o b.length = some r → exec (.apertureWrite o b) s =
      leaves s ((writePieces (regionPieces r o b.length) b).go none s).2) ∧
    (regionAt s o n = some r → (readRaw (regionPieces r o n)).go none s = (.ok bytes, s) → exec (.apertureRead o n) s =
      .next { s with host := { s.host with readData := some bytes } })

/-- R386: where no line of a placement target is dirty here or held by the host, and no read waits, a read of SOL_PLACE_FENCE returns
the count of such reads, this one included. R390: a snooped line leaves the near-add cache, a dirty one reaching memory first. R391: a
response that no back-invalidate waits for changes nothing; the awaited one lets the held writes and the waiting host accesses go on. -/
def Obligations.FencesAndSnoops : Prop :=
  ∀ (s : State) (k line : Nat) (d : Option Bytes) (x : NearLine), s.Inv →
    (s.boot.inReset = false → s.host.fenceReads = [] → (∀ y ∈ s.host.near, y.dirty = true → lineTarget s y.line = false) →
      (∀ y ∈ s.host.dir, lineTarget s y.line = false) → exec .placeFenceRead s = .next { s with host := { s.host with
        fence := s.host.fence + 1, readData := some (leBytes 8 (s.host.fence + 1).toNat) } }) ∧
    (s.host.near.find? (fun y => y.line == line && y.link == some k) = none → exec (.hostSnoop k line) s = .next s) ∧
    (s.host.near.find? (fun y => y.line == line && y.link == some k) = some x → exec (.hostSnoop k line) s = .next { s with
      host := { s.host with near := s.host.near.filter (fun y => !(y.line == line && y.link == some k)) }
      mem := if x.dirty then { s.mem with host := Memory.write s.mem.host (hostKey k (line * 64)) x.data } else s.mem }) ∧
    (s.host.backInv.any (fun y => y.line == line && y.link == k) = false → exec (.birspiReceive k line d) s = .next s) ∧
    (s.host.backInv.any (fun y => y.line == line && y.link == k) = true → exec (.birspiReceive k line d) s =
      leaves s (hostResume (fun r => r.line == some line) (lineReturned line d s)))

/-! ### Discovery and peers -/

/-- R399, R400: the discovery agent probes every port each period, answers a PROBE on the port it came through, and brings a port up at
its PROBE_REPLY, with the neighbour's entry and the fabric event where the entry changed; a port whose link goes down, or that left
three probes unanswered, is down. No other engine probes. -/
def Obligations.DiscoveryRuns : Prop :=
  ∀ (s : State) (n : Nat) (h : Header), s.Inv →
    (isAgent s = false → exec .probePeriod s = .next s ∧ exec (.portLinkDown n) s = .next s ∧ exec (.probeReceive n h) s = .next s ∧
      exec (.probeReplyReceive n h) s = .next s) ∧
    (s.boot.inReset = false → s.rep.failed = false → fastServed s = true → isAgent s = true →
      (∃ t, exec .probePeriod s = .next t ∧ t.fab.sent.length = s.fab.sent.length + portCount s ∧
        (∀ k < portCount s, (portGet t k).missed = (portGet s k).missed + 1 ∧
          (portGet t k).up = ((portGet s k).up && decide ((portGet s k).missed < 3))) ∧
        t.cmd.tasks = s.cmd.tasks ∧ t.tab = s.tab ∧ t.strm = s.strm ∧ t.grad = s.grad ∧ t.rep = s.rep ∧ t.time = s.time) ∧
      (n < portCount s → (∃ t, exec (.portLinkDown n) s = .next t ∧ (portGet t n).up = false ∧
        (portGet t n).entry = withState (portGet s n).entry 2 ∧ (∀ k, k ≠ n → portGet t k = portGet s k) ∧ t.fab.sent = s.fab.sent ∧
        (withState (portGet s n).entry 2 ≠ (portGet s n).entry → t.regs.irqPend = s.regs.irqPend ||| 8)) ∧
       (s.rep.inj = none → headerCrcOk h = true → malformed h 0 = false → isLost s (hSrc h) = false → tooOld h s = false →
        (hTyp h = 1 → exec (.probeReceive n h) s = .next { s with fab := { s.fab with
          nextMsg := s.fab.nextMsg + 1
          sent := s.fab.sent ++ [(n, newHeader (hSrc h) 0x02 0 0 0 (probeExt n s ++ [(40, 1, n)]) 0 s, [])] } }) ∧
        (hTyp h = 2 → ∃ t, exec (.probeReplyReceive n h) s = .next t ∧ (portGet t n).up = true ∧ (portGet t n).missed = 0 ∧
          (portGet t n).farAgent = hSrc h ∧ (∀ k, k ≠ n → portGet t k = portGet s k) ∧ t.fab.sent = s.fab.sent ∧
          ((portGet t n).entry ≠ (portGet s n).entry → t.regs.irqPend = s.regs.irqPend ||| 8) ∧
          ((portGet t n).entry = (portGet s n).entry → { t with fab := s.fab } = s)))))

/-- R413, R408: the numbers of up to six messages accepted from a sender go back in one ACK, none while a write waits for a
back-invalidate. R411: a grant unused for 1 ms counts as returned, at both ends, and is asked for again where messages wait for it.
R414: message numbers and discard records are forgotten. R418: SOL_FAB_REVIVE clears one engine's lost mark, or all. -/
def Obligations.EndpointForgets : Prop :=
  ∀ (s : State) (dst : Eid) (m tag : BitVec 32) (relay : Bool) (v : Word), s.Inv →
    (s.fab.acksDue = [(dst.toNat, m)] → s.rep.failed = false → writesHeld s = false → exec (.ackSend dst) s =
      leaves s (sendLoose dst.toNat 0x03 [(32, 4, m.toNat), (56, 1, 1)] { s with fab := { s.fab with acksDue := [] } })) ∧
    ((∀ a ∈ s.fab.acksDue, a.1 ≠ dst.toNat) ∨ writesHeld s = true ∨ s.rep.failed = true → exec (.ackSend dst) s = .next s) ∧
    (∀ u, u = { s with fab := { s.fab with credits := s.fab.credits.map fun c =>
        if c.peer = dst.toNat ∧ c.relay = relay then { c with used := c.granted } else c } } →
      ((∀ x ∈ s.fab.kept, x.tries ≠ 0) ∨ creditFree s dst.toNat relay = 0 → exec (.creditLapse dst relay false) s = .next u) ∧
      (creditFree s dst.toNat relay ≠ 0 →
        (∃ x ∈ s.fab.kept, x.dst = dst.toNat ∧ x.tries = 0 ∧ hCls x.header = 3 ∧ relayType (hTyp x.header) = relay) →
        exec (.creditLapse dst relay false) s = leaves s (askCredit dst.toNat relay (creditFree s dst.toNat relay) u))) ∧
    ((∀ c ∈ s.fab.grants, c.wanted = 0) → exec (.creditLapse dst relay true) s = .next { s with fab := { s.fab with
      grants := s.fab.grants.map fun c => if c.peer = dst.toNat ∧ c.relay = relay then
        { c with used := c.granted, returned := c.returned + (c.granted - c.used) } else c } }) ∧
    exec (.msgIdExpire (.seen dst m)) s = .next { s with fab := { s.fab with
      seen := s.fab.seen.filter (fun x => !(x.1 == dst.toNat && x.2.1 == m))
      unwritten := s.fab.unwritten.filter (· != (dst.toNat, m)) } } ∧
    exec (.msgIdExpire (.discard dst m tag)) s = .next { s with fab := { s.fab with
      discards := s.fab.discards.filter (· != (dst.toNat, m, tag))
      migEnded := s.fab.migEnded.filter (· != (dst.toNat, m, tag)) } } ∧
    (s.boot.inReset = false → writesLive s = true → exec (.fabRevive v) s = .next { s with fab := { s.fab with
      lost := if v.getLsbD 16 then [] else s.fab.lost.filter (· != bitsNat v 0 16) } }) ∧
    (s.boot.inReset = false → writesLive s = false → exec (.fabRevive v) s = .next (misuse 0x198 s))

/-- R413: a kept message whose wait has ended is sent again with RETRY set, at most eight times in all. R418, R419: after the eighth its
receiver is lost: nothing kept for it, or held for it as a requester, is left. The same for the engine of a die that is lost, whose
slot is no longer live. With no task and no list here, the lost mark and one record are all that its declaration adds. -/
def Obligations.PeersAreLost : Prop :=
  ∀ (s : State) (m : BitVec 32) (k : SentMsg) (slot e : Nat), s.Inv →
    (s.fab.kept.find? (fun x => x.msgId == m) = none → exec (.messageResend m) s = .next s) ∧
    (s.fab.kept.find? (fun x => x.msgId == m) = some k → s.rep.failed = false → 0 < k.tries → k.tries < 8 → ∃ t,
      exec (.messageResend m) s = .next t ∧ t.fab.retries = satAdd s.fab.retries 1 ∧ t.fab.kept = s.fab.kept.map (fun x =>
        if x.msgId = m then { x with header := retryHeader (hVer k.header) k.header, tries := x.tries + 1, sentAt := tick s } else x) ∧
      t.fab.lost = s.fab.lost ∧ t.cmd.tasks = s.cmd.tasks ∧ t.hold = s.hold ∧ t.tab = s.tab ∧ t.grad = s.grad ∧ t.strm = s.strm) ∧
    (s.fab.kept.find? (fun x => x.msgId == m) = some k → s.rep.failed = false → 8 ≤ k.tries → hTyp k.header ≠ 0x30 →
      exec (.messageResend m) s = leaves s (declareLost [k.dst] k.dst 0 false s)) ∧
    (isLost s e = true ∨ e = (ownEid s).toNat → declareLost [e] e 0 false s = s) ∧
    (isLost s e = false → e ≠ (ownEid s).toNat → (∀ x ∈ (declareLost [e] e 0 false s).hold.kept, x.req ≠ e) ∧
      (∀ x ∈ (declareLost [e] e 0 false s).grad.buckets, x.src ≠ e) ∧ (∀ x ∈ (declareLost [e] e 0 false s).fab.early, hSrc x.1 ≠ e)) ∧
    (isLost s e = false → e ≠ (ownEid s).toNat → s.cmd.tasks = [] → s.hold.lists = [] → ∃ t, declareLost [e] e 0 false s = t ∧
      t.fab.lost = s.fab.lost ++ [e] ∧ (∀ x ∈ t.fab.kept, x.dst ≠ e) ∧ (fabEnabled s = false → t.rep.prod = s.rep.prod + 1) ∧
      t.cmd.tasks = [] ∧ t.tab = s.tab ∧ t.strm = s.strm ∧ t.xl = s.xl ∧ t.fuses = s.fuses ∧ t.gauge = s.gauge ∧ t.clk = s.clk) ∧
    (slot = ownSlot s ∨ s.boot.inReset = true → exec (.d2dDieLost slot) s = .next s) ∧
    (slot ≠ ownSlot s → s.boot.inReset = false → isLost s (eidOf (ownModule s) slot) = true → exec (.d2dDieLost slot) s =
      .next { s with fab := { s.fab with
        liveSlots := s.fab.liveSlots.filter (· != slot)
        otherAgent := if s.fab.otherAgent = some slot then (s.fab.liveSlots.filter (· != slot)).head? else s.fab.otherAgent
        otherCollector := if s.fab.otherCollector = some slot then none else s.fab.otherCollector } }) ∧
    (slot ≠ ownSlot s → s.boot.inReset = false → ∃ t, t.fab.liveSlots = s.fab.liveSlots.filter (· != slot) ∧
      { t with fab := s.fab } = s ∧ t.fab.lost = s.fab.lost ∧ t.fab.kept = s.fab.kept ∧
      exec (.d2dDieLost slot) s = leaves s (declareLost [eidOf (ownModule s) slot] (eidOf (ownModule s) slot) 0 false t))

/-! ### Messages -/

/-- R409, R413, R414: a message that passes every check is remembered and owed its acknowledgement. Outside fseq order it is delivered
at once. In order it is delivered in its turn; one ahead of its turn waits, and one behind it is dropped; one that meets a page being
moved waits. Its delivery passes the turn and, for class 3, gives its credit back. R396: a message of this engine to itself is
delivered from its own queue, the first of its flow, and crosses no port; what is not the first of its flow in that queue does
nothing. -/
def Obligations.MessagesInOrder : Prop :=
  (∀ (s u : State) (ty : Nat) (c : Header → Bytes → Instr) (h : Header) (b : Bytes), s.Inv → messageCommand ty = some c →
      Delivers ty h b s → hVer h = 0x20 →
      (outsideOrder ty = true → deliverTo h (bareLoad h b) s = (.ok (), u) → ownEid u = ownEid s →
        exec (c h b) s = leaves s u) ∧
      (outsideOrder ty = false → ahead h s = 0 → s.fab.stalled.any (fun m => flowOf m.2.1 == flowOf h) = false →
        deliverTo h (bareLoad h b) (noted h b s) = (.ok (), u) → (delivered h b u).fab.early = [] →
        exec (c h b) s = leaves s (delivered h b u)) ∧
      (outsideOrder ty = false → ahead h s = 0 → s.fab.stalled.any (fun m => flowOf m.2.1 == flowOf h) = true →
        exec (c h b) s = .next (noted h b s)) ∧
      (∀ va w, outsideOrder ty = false → ahead h s = 0 → s.fab.stalled.any (fun m => flowOf m.2.1 == flowOf h) = false →
        deliverTo h (bareLoad h b) (noted h b s) = (.error (.mig va w), u) → exec (c h b) s = .next { noted h b s with
          fab := { (noted h b s).fab with stalled := s.fab.stalled ++ [(s.xl.nextWalk, h, b)] }
          xl := { s.xl with walks := s.xl.walks ++ [⟨s.xl.nextWalk, va, w, false, none, none, some (tick s)⟩]
                            nextWalk := s.xl.nextWalk + 1 } }) ∧
      (outsideOrder ty = false → 0 < ahead h s → ahead h s < 2 ^ 15 → exec (c h b) s =
        .next { noted h b s with fab := { (noted h b s).fab with early := s.fab.early ++ [(h, b)] } }) ∧
      (outsideOrder ty = false → 2 ^ 15 ≤ ahead h s → exec (c h b) s = .next (noted h b s))) ∧
  (∀ (s u : State) (ty : Nat) (c : Header → Bytes → Instr) (h : Header) (b : Bytes), s.Inv → messageCommand ty = some c →
      Listens s → hSrc h = (ownEid s).toNat → hTyp h = ty → s.fab.stalled.any (fun m => flowOf m.2.1 == flowOf h) = false →
      (s.fab.selfQ.find? (fun m => flowOf m.1 == flowOf h) = some (h, b) →
        deliverTo h (bareLoad h b) { s with fab := { s.fab with selfQ := s.fab.selfQ.erase (h, b) } } = (.ok (), u) →
        ownEid u = ownEid s → exec (c h b) s = leaves s (delivered h b u) ∧
          (unwritten h u = false → delivered h b u = acked (hSrc h) h u)) ∧
      (s.fab.selfQ.find? (fun m => flowOf m.1 == flowOf h) ≠ some (h, b) → exec (c h b) s = .next s))

/-- What the control and time messages do where they are delivered. R413: an acknowledgement frees the messages it names. R416, R417:
NACK 1 or 2 brings a resend, 3 settles the version and resends, 4 brings nothing. R411: a request is granted as far as the pool goes;
a grant lets waiting messages leave. R419: PEER_DOWN declares its engine, or its module's engines, lost. R437, R438: an announcement
of a time neighbour is kept in place of its last one; a request is answered with FTIME; a sync is taken from the parent alone; a
response to the open request adds one delay. -/
def Obligations.ControlMessagesAct : Prop :=
  ∀ (s : State) (h : Header) (b : Bytes) (k : SentMsg), s.Inv →
    (hTyp h = 0x03 → hf h 56 1 = 1 → s.fab.kept = [k] → k.dst = hSrc h → k.msgId = BitVec.ofNat 32 (hf h 32 4) → hTyp k.header ≠ 0x52 →
      taskOf s (hTask k.header) = none → deliverTo h b s = (.ok (), { s with fab := { s.fab with kept := [] } })) ∧
    (hTyp h = 0x03 → (∀ x ∈ s.fab.kept, x.dst ≠ hSrc h) → deliverTo h b s = (.ok (), s)) ∧
    (hTyp h = 0x04 → (∀ x ∈ s.fab.kept, x.msgId ≠ BitVec.ofNat 32 (hf h 32 4)) → deliverTo h b s = (.ok (), s)) ∧
    (hTyp h = 0x04 → s.fab.kept.find? (fun x => x.msgId == BitVec.ofNat 32 (hf h 32 4) && x.dst == hSrc h) = some k →
      (hf h 36 1 = 4 → deliverTo h b s = (.ok (), s)) ∧
      (hf h 36 1 = 1 ∨ hf h 36 1 = 2 → k.tries < 8 → deliverTo h b s = (.ok (), resend k (hVer k.header) s)) ∧
      (hf h 36 1 = 3 → hf h 37 1 = 0x20 → k.tries < 8 →
        deliverTo h b s = (.ok (), resend k 0x20 (settleVersion (hSrc h) 0x20 s)))) ∧
    (hTyp h = 0x05 → s.fab.grants.any (fun c => c.peer == hSrc h && c.relay == (hf h 32 1 == 1)) = true → deliverTo h b s =
      (.ok (), grantAll (setGrant (hSrc h) (hf h 32 1 == 1) (fun c => { c with wanted := c.wanted + hf h 34 2 }) s))) ∧
    (hTyp h = 0x06 → s.fab.credits = [] → s.fab.kept = [] → deliverTo h b s = (.ok (), { s with fab := { s.fab with
      credits := [⟨hSrc h, hf h 32 1 == 1, hf h 34 2, 0, hf h 36 4, 0⟩] } })) ∧
    (hTyp h = 0x07 → deliverTo h b s = (.ok (), declareLost (if hf h 34 1 = 1 then moduleEids (hf h 32 2) else [hf h 32 2])
      (hf h 32 2) (hf h 34 1) false s)) ∧
    (hTyp h = 0x40 → (neighbourOf s (hSrc h)).isSome = true → hf h 43 1 < 32 → deliverTo h b s = (.ok (), elect { s with
      time := { s.time with announces := s.time.announces.filter (fun x => x.src != hSrc h) ++
        [⟨hSrc h, hf h 40 2, hf h 42 1, hf h 43 1, tick s⟩] } })) ∧
    (hTyp h = 0x40 → (neighbourOf s (hSrc h)).isNone = true ∨ 32 ≤ hf h 43 1 → deliverTo h b s = (.ok (), s)) ∧
    (hTyp h = 0x41 → s.time.parent ≠ some (hSrc h) → deliverTo h b s = (.ok (), s)) ∧
    (hTyp h = 0x41 → s.time.parent = some (hSrc h) → s.time.lastSync = none → (s.time.syncCount + 1) % 16 ≠ 0 → deliverTo h b s =
      (.ok (), { s with time := { s.time with
        lastSync := some (BitVec.ofNat 32 (hf h 40 4), now s), syncCount := s.time.syncCount + 1, syncAt := tick s } })) ∧
    (∀ n, hTyp h = 0x42 → neighbourOf s (hSrc h) = some n →
      deliverTo h b s = (.ok (), sendTime n 0x43 [(32, 8, (now s).toNat), (40, 4, hf h 40 4)] s)) ∧
    (∀ q t3 t1 t2, hTyp h = 0x43 → s.time.delayReq = some (q, t3) → s.time.lastPair = some (t1, t2) →
      (s.time.parent = some (hSrc h) → q.toNat = hf h 40 4 → s.time.delays.length < 8 → deliverTo h b s =
        (.ok (), { s with time := { s.time with
          delayReq := none, delays := s.time.delays ++ [((hf h 32 8 : Int) - t3.toNat) + (t2 - t1)] } })) ∧
      (q.toNat ≠ hf h 40 4 → deliverTo h b s = (.ok (), s)))

/-- What the messages of tasks do where they are delivered. R126: a list or a bucket of a cancelled task is discarded; a list of a
version that is free here is recorded by detector 0x1B; a late result of a task that has ended is dropped; a cancel makes the holder
forget the task, and is answered. R407: a bucket's segment joins it. R250: a write to a scratchpad outside its window is refused and
not written (log entry 100). R292: a semaphore operation adds. R303: a hop stores its entry, or lets go of a chain. R189: a forwarded
update is kept until its rows come. R337, R342: the collector takes a fault record; an engine drops the translations it is told to
drop. -/
def Obligations.TaskMessagesAct : Prop :=
  ∀ (s : State) (h : Header) (b : Bytes), s.Inv →
    (hTyp h = 0x10 → s.fab.discards.contains (hSrc h, BitVec.ofNat 32 (hTask h), BitVec.ofNat 32 (hTag h)) = true →
      deliverTo h b s = (.ok (), s)) ∧
    (hTyp h = 0x11 → taskOf s (hTask h) = none → deliverTo h b s = (.ok (), s)) ∧
    (hTyp h = 0x12 → deliverTo h b s = (.ok (), taskAcked (hSrc h) (hTask h) (hf h 44 1) ⟨BitVec.ofNat 8 (hf h 32 1),
      BitVec.ofNat 24 (hf h 33 3), BitVec.ofNat 32 (hf h 40 4), BitVec.ofNat 32 (hf h 36 4)⟩ s)) ∧
    (hTyp h = 0x13 → s.hold.lists = [] → s.hold.fetches = [] → s.hold.kept = [] → s.hold.cancels = [] → s.berm.sets = [] → s.grad.buckets = [] →
      s.fab.discards = [] → deliverTo h b s = (.ok (), sendTaskAck (hSrc h) (hTask h) (hTag h) 0x10 (resultOf stOk 0) { s with
        fab := { s.fab with discards := [(hSrc h, BitVec.ofNat 32 (hTask h), BitVec.ofNat 32 (hTag h))] } })) ∧
    (hTyp h = 0x20 → s.fab.discards.contains (hSrc h, BitVec.ofNat 32 (hTask h), BitVec.ofNat 32 (hTag h)) = true →
      deliverTo h b s = (.ok (), s)) ∧
    (hTyp h = 0x20 → s.fab.discards = [] → s.grad.buckets = [] → deliverTo h b s = (.ok (), { s with grad := { s.grad with
      buckets := [⟨hSrc h, BitVec.ofNat 32 (hTask h), BitVec.ofNat 32 (hTag h), hf h 32 3, BitVec.ofNat 16 (hf h 36 2), hf h 38 1,
        hf h 40 4, BitVec.ofNat 32 (hf h 44 4), hf h 50 2, 1, hf h 52 4, b, 0, false, false⟩] } })) ∧
    (hTyp h = 0x21 → s.grad.remote = [] →
      deliverTo h b s = (.ok (), sendTaskAck (hSrc h) (hTask h) (hTag h) 0x11 (rBadParam 5 8) s)) ∧
    (∀ d, hTyp h = 0x22 → hostHolds s (hf h 32 8 / 64) = some d → deliverTo h b s = (.ok (), queueGroup (hTask h)
      (some (hSrc h, hTask h, hTag h)) ⟨none, hf h 32 8 / 64, maskedAdds (BitVec.ofNat 16 (hf h 40 2)) (f32List 16 b)⟩ 16
      (backInvalidate d [] s))) ∧
    (hTyp h = 0x23 → taskOf s (hTask h) = none → deliverTo h b s = (.ok (), s)) ∧
    (hTyp h = 0x30 → hf h 40 1 = 1 → b ≠ [] → llsBytes s ≤ hf h 32 8 → hf h 32 8 + b.length ≤ scratchTop s →
      deliverTo h b s = (.ok (), writeScratch (hf h 32 8) b s)) ∧
    (hTyp h = 0x30 → hf h 40 1 = 1 → hf h 32 8 < llsBytes s ∨ scratchTop s < hf h 32 8 + b.length → deliverTo h b s =
      (.ok (), sendTaskAck (hSrc h) (hTask h) (hTag h) 0x11 (rBadParam 3 20) { s with
        fab := { s.fab with unwritten := s.fab.unwritten ++ [(hSrc h, BitVec.ofNat 32 (hMsgId h))] } })) ∧
    (hTyp h = 0x31 → s.strm.hops = [] → deliverTo h b s = (.ok (), logErr { det := 0x10, sev := 0, phys := 0xFFFF, eid := hSrc h } s)) ∧
    (hTyp h = 0x32 → deliverTo h b s = (.ok (), semAdd (hf h 32 2) (hf h 36 4) .nobody s)) ∧
    (hTyp h = 0x33 → hf h 35 1 = 0 → deliverTo h b s = (.ok (), { s with strm := { s.strm with
      hops := s.strm.hops.filter (fun x => !(x.owner == hSrc h && x.chain == hf h 32 2)) } })) ∧
    (hTyp h = 0x33 → 0 < hf h 35 1 → hSrc h ≠ (ownEid s).toNat → s.strm.hops = [] → hopEid (BitVec.ofNat 128 (leField b 0 16)) ≠ (ownEid s).toNat →
      deliverTo h b s = (.ok (), { s with strm := { s.strm with hops := [⟨hSrc h, hf h 32 2, hf h 35 1, hf h 36 1 % 2 == 1, hf h 37 1,
        [(hf h 34 1, BitVec.ofNat 128 (leField b 0 16))], []⟩] } })) ∧
    (hTyp h = 0x34 → leField b 0 1 = 0x32 →
      deliverTo h b s = (.ok (), keepRemote (hSrc h) (BitVec.ofNat 32 (hTask h)) (packetOf b) s)) ∧
    (hTyp h = 0x35 → s.cmd.tasks = [] → s.tab.tables = [] → s.fab.migEnded = [] → deliverTo h b s = (.ok (), sendTaskAck (hSrc h) (hTask h) (hTag h) 0x12
      (rBadParam 5 0) (logErr { det := 0x1B, sev := 0, eid := hSrc h, tag := hTag h, detail := fields 16 [(0, 3, hf h 32 3),
        (4, 2, hf h 36 2), (8, 4, hf h 40 4)] } s))) ∧
    (hTyp h = 0x50 → deliverTo h b s = (.ok (), (collect (recordOf b) s).2)) ∧
    (hTyp h = 0x51 → taskOf s (hTask h) = none → deliverTo h b s = (.ok (), s)) ∧
    (hTyp h = 0x52 → hf h 48 1 = 2 → deliverTo h b s = (.ok (), (tlbDrop (hf h 32 8) (hf h 40 8) s).2))

/-! ### Reset, firmware, registers and the staged set -/

/-- R506: SOL_RCT_BASE takes a write only while every ring is disabled; otherwise the write is discarded and logged by detector 0x1A.
R502: before phase 0x5, too. -/
def Obligations.RctBaseGuarded : Prop :=
  ∀ (s : State) (v : Word), s.Inv → s.boot.inReset = false →
    (writesLive s = true → (∀ e ∈ s.cmd.rings, e.2.st = .disabled) → exec (.rctBaseWrite v) s =
      .next { s with regs := { s.regs with rctBase := v &&& 0x00FFFFFFFFF00000 } }) ∧
    (writesLive s = true → (∃ e ∈ s.cmd.rings, e.2.st ≠ .disabled) → exec (.rctBaseWrite v) s = .next (misuse 0x120 s)) ∧
    (writesLive s = false → exec (.rctBaseWrite v) s = .next (misuse 0x120 s)) ∧
    readReg s 0x120 = s.regs.rctBase ∧ (∀ n, rctAddr s n = bitsNat s.regs.rctBase 20 36 * 2 ^ 20 + 64 * n)

/-! ### The Gauge -/

/-- R450: sub-island power starts the next epoch: counters of zero, its fuse blown, an entry of code 0x01. At 4,096 epochs the number
stays, and the readout says that the epochs are spent. A fuse word that fails its check is reported. R456: an event log entry joins
the log, which keeps the last 128; only the Gauge changes. -/
def Obligations.GaugePowersUp : Prop :=
  (∀ (s : State) (bad : Option Nat), s.Inv → s.rep.inj = none → s.gauge.portInj = none →
      ∃ t, exec (.gaugePowerUp bad) s = .next t ∧
        t.gauge.epoch = min (s.fuses.epochBits + 1) 4096 ∧ t.fuses = { s.fuses with epochBits := max s.fuses.epochBits (min (s.fuses.epochBits + 1) 4096) } ∧
        t.gauge.epochsSpent = decide (4096 ≤ s.fuses.epochBits) ∧
        readoutFlags t.gauge / 2 % 2 = (if 4096 ≤ s.fuses.epochBits then 1 else 0) ∧ t.gauge.calFail = bad.isSome ∧
        t.gauge.eTotal = 0 ∧ t.gauge.eCore = 0 ∧ t.gauge.eHbm = 0 ∧ t.gauge.eMdie = 0 ∧ t.gauge.rows = 0 ∧ t.gauge.bytes = 0 ∧
        t.gauge.records = 0 ∧ t.gauge.island = 0 ∧ t.gauge.seq = 0 ∧
        t.gauge.log.head? = some (logEntry 0 0x01 (min (s.fuses.epochBits + 1) 4096) 0) ∧
        t.gauge.logCount = (if bad.isSome then 2 else 1) ∧
        LogOnly s { t with gauge := s.gauge, fuses := s.fuses }) ∧
  (∀ (s : State) (code detail : Nat),
      gaugeLog code detail s = { s with gauge := { s.gauge with
        log := (s.gauge.log ++ [logEntry (islandTime s.gauge) code detail s.gauge.logCount.toNat]).drop (s.gauge.log.length + 1 - 128)
        logCount := s.gauge.logCount + 1 } } ∧
      (s.gauge.log.length ≤ 128 → (gaugeLog code detail s).gauge.log.length ≤ 128))

/-! ### Work in progress -/

/-- R30, R31, R502, R515: a doorbell takes both its halves on an enabled ring, its upper half alone on one in error or draining; a
disabled ring's, an early one and one not of 8 bytes are discarded and logged; a counter out of its ring puts an enabled ring in error
with cause 1. R35: a draining ring with no task left is disabled. R33: a task whose ring has no completion slot waits. -/
def Obligations.RingsServed : Prop :=
  ∀ (s u : State) (n size id : Nat) (v : Word) (r : Ring) (t : Task) (res : Result), s.Inv → s.boot.inReset = false → s.rep.inj = none →
    r = ringGet s n →
    (size ≠ 8 ∨ writesLive s = false ∨ r.st = .disabled → exec (.doorbellWrite n size v) s = .next (misuse (doorbellOffset n) s)) ∧
    (writesLive s = true → r.st = .enabled → (r.cqTail - bits v 32 32).toNat ≤ ringDepth r →
      (v.setWidth 32 - r.sqHead).toNat ≤ ringDepth r → exec (.doorbellWrite n 8 v) s = .next { s with cmd := { s.cmd with
        rings := smapSet s.cmd.rings n { r with
          sqTail := v.setWidth 32
          cqHead := bits v 32 32
          behind := (s.host.waiting.filter (·.data.isSome)).map (·.id)
          behindLines := (s.host.backInv.filter (fun b => !b.write.isEmpty)).map (·.line) } } }) ∧
    (writesLive s = true → r.st = .enabled → (ringDepth r < (r.cqTail - bits v 32 32).toNat ∨ ringDepth r < (v.setWidth 32 - r.sqHead).toNat) →
      exec (.doorbellWrite n 8 v) s = leaves s (ringIrq n (ringError n 1
        (logErr { det := 0x02, sev := 2, phys := n, address := doorbellOffset n, ring := n } s)))) ∧
    (writesLive s = true → (r.st = .error ∨ r.st = .draining) → (r.cqTail - bits v 32 32).toNat ≤ ringDepth r →
      exec (.doorbellWrite n 8 v) s = .next { s with cmd := { s.cmd with rings := smapSet s.cmd.rings n { r with cqHead := bits v 32 32 } } }) ∧
    (writesLive s = true → (r.st = .error ∨ r.st = .draining) → ringDepth r < (r.cqTail - bits v 32 32).toNat →
      exec (.doorbellWrite n 8 v) s = .next (logErr { det := 0x02, sev := 0, phys := n, address := doorbellOffset n, ring := n } s)) ∧
    (r.st = .draining → (∀ x ∈ ringTasks s n, x.id = id) → r.drainTask = some id → exec (.ringDrainEnd n) s = leaves s (finishOk id 0
      (setRingStore n [] (ringSet n { r with st := .disabled, sqHead := if r.drainReset then r.sqTail else r.sqHead, drainTask := none
                                             drainReset := false } s)))) ∧
    (r.st ≠ .draining → exec (.ringDrainEnd n) s = .next s) ∧
    (r.st = .draining → (∃ x ∈ ringTasks s n, some x.id ≠ r.drainTask) → exec (.ringDrainEnd n) s = .next s) ∧
    (r.st = .draining → ringTasks s n = [] → r.drainTask = none → exec (.ringDrainEnd n) s = leaves s (setRingStore n [] (ringSet n
      { r with st := .disabled, sqHead := if r.drainReset then r.sqTail else r.sqHead, drainTask := none, drainReset := false } s))) ∧
    (taskOf s id = none → exec (.completionWrite id) s = .next s) ∧
    (taskOf s id = some t → t.isDone = false → exec (.completionWrite id) s = .next s) ∧
    (taskOf s id = some t → t.phase = .done res → pPeerFlush t.pkt = false → t.origin = none → wantsRecord t res = true →
      (ringGet s t.ring).discard = false → cqFull (ringGet s t.ring) = true → exec (.completionWrite id) s = .next s) ∧
    (taskOf s id = some t → t.phase = .done res → pPeerFlush t.pkt = false → t.origin = none → wantsRecord t res = false →
      writesHeld s = false → exec (.completionWrite id) s = leaves s (endSweep (dropTask id (atCompletion t res s)))) ∧
    (taskOf s id = some t → t.phase = .done res → pPeerFlush t.pkt = false → t.origin = none → wantsRecord t res = true →
      writesHeld s = false → (ringGet s t.ring).discard = false → cqFull (ringGet s t.ring) = false → s.host.dir = [] → t.op ≠ 0x33 →
      ringWrite t.ring (cqSlot (ringGet s t.ring) (ringGet s t.ring).cqTail) (completionBytes t.pkt.tag res (now s)) s = (true, u) →
      ∃ w, exec (.completionWrite id) s = leaves s (endSweep (dropTask id w)) ∧
        (ringGet w t.ring).cqTail = (ringGet s t.ring).cqTail + 1 ∧ w.tab = s.tab ∧ w.hold = s.hold ∧ w.strm = s.strm)

/-! ### The block as a whole, formats and policy -/

/-- R364: GOV_POLICY is checked in order, and the first failure is reported with BAD_PARAM, reason 0x03: a hard threshold outside 70 to
95 at offset 8, a soft target below 40 or not below the hard threshold at 9, a ceiling that is not zero and outside 80 to 360 at 12, a
ceiling at or below the live P_idle at 12, zero meaning 180 W. A packet that passes sets the three fields of SOL_GOV_CTL together at
its acceptance, from which the next update takes them; running tasks and staged values are not waited for, and nothing else changes. -/
def Obligations.GovPolicyChecked : Prop :=
  ∀ (s u : State) (n : Nat) (p : Packet) (hard soft ceil : Nat), s.Inv → Reads 0x70 n p s → u = tookPacket 0x70 n p s →
    headChecks 0x70 n (ringGet s n).proto ((ringGet s n).sqHead.toNat % ringDepth (ringGet s n)) true p = none →
    reservedAt 0x70 (ringGet s n).proto p = none → hard = pf p 8 1 → soft = pf p 9 1 → ceil = pf p 12 2 →
    (hard < 70 ∨ 95 < hard → exec (.govPolicy n p) s = leaves s (finishTask s.cmd.nextTask (rBadParam 3 8) u)) ∧
    (70 ≤ hard → hard ≤ 95 → soft < 40 ∨ hard ≤ soft → exec (.govPolicy n p) s = leaves s (finishTask s.cmd.nextTask (rBadParam 3 9) u)) ∧
    (70 ≤ hard → hard ≤ 95 → 40 ≤ soft → soft < hard → ceil ≠ 0 → ceil < 80 ∨ 360 < ceil →
      exec (.govPolicy n p) s = leaves s (finishTask s.cmd.nextTask (rBadParam 3 12) u)) ∧
    (70 ≤ hard → hard ≤ 95 → 40 ≤ soft → soft < hard → ceil = 0 ∨ (80 ≤ ceil ∧ ceil ≤ 360) →
      (if ceil = 0 then 360 else ceil) ≤ bitsNat s.regs.govGain 32 16 →
      exec (.govPolicy n p) s = leaves s (finishTask s.cmd.nextTask (rBadParam 3 12) u)) ∧
    (70 ≤ hard → hard ≤ 95 → 40 ≤ soft → soft < hard → ceil = 0 ∨ (80 ≤ ceil ∧ ceil ≤ 360) →
      bitsNat s.regs.govGain 32 16 < (if ceil = 0 then 360 else ceil) → mayBegin (packetTask 0x70 n p s) u = true →
      exec (.govPolicy n p) s = leaves s (finishOk s.cmd.nextTask 0 { u with regs := { u.regs with
        govCtl := BitVec.ofNat 64 (ceil * 2 ^ 16 + soft * 2 ^ 8 + hard) } }) ∧
      ∃ t, exec (.govPolicy n p) s = .next t ∧ bitsNat t.regs.govCtl 0 8 = hard ∧ bitsNat t.regs.govCtl 8 8 = soft ∧
        bitsNat t.regs.govCtl 16 16 = ceil ∧ { t.regs with govCtl := s.regs.govCtl } = s.regs ∧ t.gov = s.gov ∧
        t.cmd.staged = s.cmd.staged ∧ hardEff t = min hard (min (tcritOf s.fuses.tcrit0) (tcritOf s.fuses.tcrit1)))

/-- Every command completes in every state: none faults and none is refused. It leaves the queue of waiting commands as it is, no bit
that a field map reserves set in a register, and every task's number below the next. -/
def Obligations.CommandsComplete : Prop :=
  ∀ (s : State) (c : Instr), ∃ t, exec c s = .next t ∧ t.pending = s.pending ∧ t.Inv

/-- After reset the invariant holds, the queue is empty, the engine stands in phase 0x1 with no ring, task, table, stream or
translation, and these registers read as the Reset columns of their field maps state. -/
def Obligations.ResetAsStated : Prop :=
  State.reset.Inv ∧ State.reset.pending = [] ∧ State.reset.boot.phase = 1 ∧ State.reset.cmd.rings = [] ∧ State.reset.cmd.tasks = [] ∧
    State.reset.tab.tables = [] ∧ State.reset.strm.streams = [] ∧ State.reset.xl.tlb = [] ∧
    State.reset.mem.dev = [] ∧ State.reset.mem.host = [] ∧ State.reset.mem.scratch = [] ∧
    [0x120, 0x128, 0x130, 0x138, 0x140, 0x148, 0x150, 0x178, 0x180, 0x188, 0x1A0, 0x200, 0x208, 0x210, 0x218, 0x400, 0x408, 0x410,
      0x1000, 0x1018, 0x1100, 0x1200, 0x1208, 0x1400, 0x1428, 0x1500, 0x1508, 0x1600, 0x1608, 0x1610, 0x1718].map (readReg State.reset) =
    [0, 6, 0, 0x120000000, 0, 0, 0x10032, 0xA0002, 0, 0, 0, 0, 0, 0, 0, 0x0003000200010000, 0, 0,
      0x104001F4, 0x5000, 0, 0x555F, 0x5001000800, 0, 0, 0, 0, 0, 0, 0, 0]

/-! ### Packets -/

/-- R36, R32, R41, R39, R45: a packet is taken only where the engine accepts from its ring now. A ring whose RCT entry fails its CRC
goes to the error state with cause 2 and a record, and gives nothing. A taken packet moves its ring's sq_head by one and becomes a
task with the next number; outside the ring's RCT entry device memory stays as it is. A packet whose own CRC fails ends with CRC_ERROR
under the tag 0xFFFF_FFFF, with a record; one that fails steps 1 to 4 ends with the first failure. -/
def Obligations.PacketsJudged : Prop :=
  ∀ (s u : State) (op n : Nat) (c : Nat → Packet → Instr) (p : Packet) (f : Result), s.Inv → packetCommand op = some c →
    (mayAccept s (BitVec.ofNat 8 op) n = false → exec (c n p) s = .next s) ∧
    (mayAccept s (BitVec.ofNat 8 op) n = true → s.rep.inj = none → rctOk n s = (false, false, u) → exec (c n p) s =
      leaves s (ringError n 2 (logErr { det := 0x02, sev := 2, phys := n, address := rctAddr u n, ring := n } u))) ∧
    (mayAccept s (BitVec.ofNat 8 op) n = true → s.rep.inj = none → rctOk n s = (true, false, s) →
      packetCrcOk (BitVec.ofNat 8 op) p = false → exec (c n p) s = leaves s (finishTask s.cmd.nextTask
        (resultOf stCrc (1 * 65536 + (ringGet s n).sqHead.toNat % ringDepth (ringGet s n)))
        (logErr { det := 0x01, sev := 0, ring := n, tag := 0 } (tookTask (BitVec.ofNat 8 op) n
          (newTask s.cmd.nextTask n (BitVec.ofNat 8 op) { p with tag := 0xFFFFFFFF, flags := 0 } (ringGet s n).proto (liveCfg s)) s)))) ∧
    (Reads (BitVec.ofNat 8 op) n p s → headChecks (BitVec.ofNat 8 op) n (ringGet s n).proto
        ((ringGet s n).sqHead.toNat % ringDepth (ringGet s n)) true p = some f →
      exec (c n p) s = leaves s (finishTask s.cmd.nextTask f (tookPacket (BitVec.ofNat 8 op) n p s))) ∧
    (Reads (BitVec.ofNat 8 op) n p s → headChecks (BitVec.ofNat 8 op) n (ringGet s n).proto
        ((ringGet s n).sqHead.toNat % ringDepth (ringGet s n)) true p = none →
      step4Fail (BitVec.ofNat 8 op) (ringGet s n).proto p (packetStep4 op (ringGet s n).proto p) = some f →
      exec (c n p) s = leaves s (finishTask s.cmd.nextTask f (tookPacket (BitVec.ofNat 8 op) n p s))) ∧
    (∀ t, t = tookPacket (BitVec.ofNat 8 op) n p s → s.host.near = [] →
      (ringGet t n).sqHead = (ringGet s n).sqHead + 1 ∧ t.cmd.tasks = s.cmd.tasks ++ [packetTask (BitVec.ofNat 8 op) n p s] ∧
      t.cmd.nextTask = s.cmd.nextTask + 1 ∧ t.boot = s.boot ∧ t.regs = s.regs ∧ t.tab = s.tab ∧ t.hold = s.hold ∧
      t.grad = s.grad ∧ t.berm = s.berm ∧ t.strm = s.strm ∧ t.xl = s.xl ∧ t.gov = s.gov ∧ t.fab = s.fab ∧ t.clk = s.clk ∧
      t.time = s.time ∧ t.gauge = s.gauge ∧ t.rep = s.rep ∧ t.mem.host = s.mem.host ∧ t.mem.scratch = s.mem.scratch ∧
      ∀ a, a < rctAddr s n ∨ rctAddr s n + 64 ≤ a → Memory.get t.mem.dev a = Memory.get s.mem.dev a)

/-! ### Messages -/

/-- R403, R398, R418, R416, R404, R414, R411: an arriving message is judged in order: header CRC, partition, the endpoint's enable,
destination, lost sender, version, form, age, repetition, payload CRC, credit. What fails is discarded, with the record, count or NACK
of its rule, and does nothing else; before the fast path runs, nothing is taken at all. -/
def Obligations.MessagesJudged : Prop :=
  ∀ (s : State) (ty : Nat) (c : Header → Bytes → Instr) (h : Header) (b : Bytes), s.Inv → messageCommand ty = some c →
    (s.boot.inReset = true ∨ s.rep.failed = true ∨ fastServed s = false → exec (c h b) s = .next s) ∧
    (Listens s → hSrc h ≠ (ownEid s).toNat →
      (headerCrcOk h = false → exec (c h b) s = .next (fabRecord 0 false s)) ∧
      (headerCrcOk h = true → hPartition h ≠ partitionOf s →
        exec (c h b) s = .next { s with fab := { s.fab with foreign := satAdd s.fab.foreign 1 } }) ∧
      (headerCrcOk h = true → hPartition h = partitionOf s → fabEnabled s = false → exec (c h b) s = .next s) ∧
      (headerCrcOk h = true → hPartition h = partitionOf s → fabEnabled s = true → hDst h ≠ (ownEid s).toNat →
        exec (c h b) s = .next (fabRecord (hSrc h) false s)) ∧
      (headerCrcOk h = true → hPartition h = partitionOf s → fabEnabled s = true → hDst h = (ownEid s).toNat →
        isLost s (hSrc h) = true → exec (c h b) s = .next s)) ∧
    (Heard h s →
      (hVer h ≠ 0x10 → hVer h ≠ 0x20 → exec (c h b) s = leaves s (nackMsg h 3 s)) ∧
      (hVer h = 0x10 ∨ hVer h = 0x20 → badMessage ty h b = true →
        exec (c h b) s = leaves s (nackMsg h 4 (fabRecord (hSrc h) false s))) ∧
      (badMessage ty h b = false → tooOld h s = true → exec (c h b) s = .next s) ∧
      (badMessage ty h b = false → tooOld h s = false → (keptType ty && alreadySeen h s) = true →
        exec (c h b) s = .next (seenAgain h s)) ∧
      (badMessage ty h b = false → tooOld h s = false → (keptType ty && alreadySeen h s) = false → hCtrl h = true →
        crcHolds b = false → exec (c h b) s = leaves s (nackMsg h 1 (fabRecord (hSrc h) false s))) ∧
      (badMessage ty h b = false → tooOld h s = false → (keptType ty && alreadySeen h s) = false → hCtrl h = false →
        hCls h = 3 → grantLeft s (hSrc h) (relayType ty) < creditUnits b.length → exec (c h b) s = leaves s (nackMsg h 2 s)))

/-! ### The block as a whole, formats and policy -/

/-- R81, R83: converting back what a finite code, or an infinity, decodes to gives that code, with no saturation: the elements of FP
formats 0x1 to 0x4 as they are, those of MX formats 0x5 to 0x9 under every scale from 2^−127 to 2^111. An FP32 row keeps its bits. -/
def Obligations.FormatsHoldWhatTheyDecode : Prop :=
  ∀ (fmt c : Nat) (k : Int) (xs : List F32), 1 ≤ fmt → fmt ≤ 9 → c < 2 ^ (elemFmt fmt).width →
    ((fmt < 5 ∧ k = 0) ∨ (5 ≤ fmt ∧ -127 ≤ k ∧ k ≤ 111)) →
    (c % 2 ^ ((elemFmt fmt).eb + (elemFmt fmt).mb) ≤ (elemFmt fmt).maxCode →
      convertElem (elemFmt fmt) divRne k (decodeElem (elemFmt fmt) k c) = (c, false)) ∧
    ((elemFmt fmt).inf = true → c % 2 ^ ((elemFmt fmt).eb + (elemFmt fmt).mb) = (2 ^ (elemFmt fmt).eb - 1) * 2 ^ (elemFmt fmt).mb →
      convertElem (elemFmt fmt) divRne k (decodeElem (elemFmt fmt) k c) = (c, false)) ∧
    decodeRow 0 xs.length (encodeRow 0 xs.length rneAll xs).bytes = xs

/-- R75, R78, R97: two rows of a table's version slots share no byte, neither of their working copies nor of their records, whichever
slots, local blocks and offsets they have; a working copy fits its stride; one of 256 B or less has the smallest stride of 16, 32, 64,
128 and 256 B that holds it, and crosses no 256 B boundary. -/
def Obligations.RowsLieApart : Prop :=
  ∀ (t : Table) (v v' lb lb' off off' : Nat), lb < t.localBlocks → lb' < t.localBlocks → off < 2 ^ t.sb → off' < 2 ^ t.sb →
    t.wcSizeB ≤ t.wcStrideB ∧
    (t.wcSizeB ≤ 256 → t.wcStrideB ∈ [16, 32, 64, 128, 256] ∧ ∀ n ∈ [16, 32, 64, 128, 256], t.wcSizeB ≤ n → t.wcStrideB ≤ n) ∧
    (256 < t.wcSizeB → t.wcStrideB % 256 = 0 ∧ t.wcStrideB < t.wcSizeB + 256) ∧
    (t.wcBase % 65536 = 0 → 0 < t.wcSizeB → t.wcSizeB ≤ 256 →
      (t.wcAddr v lb off + t.wcSizeB - 1) / 256 = t.wcAddr v lb off / 256) ∧
    ((v % 4, lb, off) ≠ (v' % 4, lb', off') →
      (t.wcAddr v lb off + t.wcSizeB ≤ t.wcAddr v' lb' off' ∨ t.wcAddr v' lb' off' + t.wcSizeB ≤ t.wcAddr v lb off) ∧
      (t.wcOnly = false → t.recAddr v lb off + recSize t.stateA t.stateB t.width ≤ t.recAddr v' lb' off' ∨
        t.recAddr v' lb' off' + recSize t.stateA t.stateB t.width ≤ t.recAddr v lb off))
end

