-- ==== Sys2Proof/Laws/State.lean ====
section
/-! SUPPORT. What each named update of the state changes, field by field, so that no proof unfolds a record update. -/

namespace Sys2Proof.Machine

@[simp] theorem onClk_fuses (f : ClkState → ClkState) (s : State) : (onClk f s).fuses = s.fuses := rfl
@[simp] theorem onClk_boot (f : ClkState → ClkState) (s : State) : (onClk f s).boot = s.boot := rfl
@[simp] theorem onClk_regs (f : ClkState → ClkState) (s : State) : (onClk f s).regs = s.regs := rfl
@[simp] theorem onClk_cmd (f : ClkState → ClkState) (s : State) : (onClk f s).cmd = s.cmd := rfl
@[simp] theorem onClk_tab (f : ClkState → ClkState) (s : State) : (onClk f s).tab = s.tab := rfl
@[simp] theorem onClk_hold (f : ClkState → ClkState) (s : State) : (onClk f s).hold = s.hold := rfl
@[simp] theorem onClk_grad (f : ClkState → ClkState) (s : State) : (onClk f s).grad = s.grad := rfl
@[simp] theorem onClk_berm (f : ClkState → ClkState) (s : State) : (onClk f s).berm = s.berm := rfl
@[simp] theorem onClk_strm (f : ClkState → ClkState) (s : State) : (onClk f s).strm = s.strm := rfl
@[simp] theorem onClk_xl (f : ClkState → ClkState) (s : State) : (onClk f s).xl = s.xl := rfl
@[simp] theorem onClk_mem (f : ClkState → ClkState) (s : State) : (onClk f s).mem = s.mem := rfl
@[simp] theorem onClk_gov (f : ClkState → ClkState) (s : State) : (onClk f s).gov = s.gov := rfl
@[simp] theorem onClk_host (f : ClkState → ClkState) (s : State) : (onClk f s).host = s.host := rfl
@[simp] theorem onClk_fab (f : ClkState → ClkState) (s : State) : (onClk f s).fab = s.fab := rfl
@[simp] theorem onClk_clk (f : ClkState → ClkState) (s : State) : (onClk f s).clk = f s.clk := rfl
@[simp] theorem onClk_time (f : ClkState → ClkState) (s : State) : (onClk f s).time = s.time := rfl
@[simp] theorem onClk_gauge (f : ClkState → ClkState) (s : State) : (onClk f s).gauge = s.gauge := rfl
@[simp] theorem onClk_rep (f : ClkState → ClkState) (s : State) : (onClk f s).rep = s.rep := rfl
@[simp] theorem onClk_draws (f : ClkState → ClkState) (s : State) : (onClk f s).draws = s.draws := rfl
@[simp] theorem onClk_pending (f : ClkState → ClkState) (s : State) : (onClk f s).pending = s.pending := rfl

@[simp] theorem onTime_fuses (f : TimeState → TimeState) (s : State) : (onTime f s).fuses = s.fuses := rfl
@[simp] theorem onTime_boot (f : TimeState → TimeState) (s : State) : (onTime f s).boot = s.boot := rfl
@[simp] theorem onTime_regs (f : TimeState → TimeState) (s : State) : (onTime f s).regs = s.regs := rfl
@[simp] theorem onTime_cmd (f : TimeState → TimeState) (s : State) : (onTime f s).cmd = s.cmd := rfl
@[simp] theorem onTime_tab (f : TimeState → TimeState) (s : State) : (onTime f s).tab = s.tab := rfl
@[simp] theorem onTime_hold (f : TimeState → TimeState) (s : State) : (onTime f s).hold = s.hold := rfl
@[simp] theorem onTime_grad (f : TimeState → TimeState) (s : State) : (onTime f s).grad = s.grad := rfl
@[simp] theorem onTime_berm (f : TimeState → TimeState) (s : State) : (onTime f s).berm = s.berm := rfl
@[simp] theorem onTime_strm (f : TimeState → TimeState) (s : State) : (onTime f s).strm = s.strm := rfl
@[simp] theorem onTime_xl (f : TimeState → TimeState) (s : State) : (onTime f s).xl = s.xl := rfl
@[simp] theorem onTime_mem (f : TimeState → TimeState) (s : State) : (onTime f s).mem = s.mem := rfl
@[simp] theorem onTime_gov (f : TimeState → TimeState) (s : State) : (onTime f s).gov = s.gov := rfl
@[simp] theorem onTime_host (f : TimeState → TimeState) (s : State) : (onTime f s).host = s.host := rfl
@[simp] theorem onTime_fab (f : TimeState → TimeState) (s : State) : (onTime f s).fab = s.fab := rfl
@[simp] theorem onTime_clk (f : TimeState → TimeState) (s : State) : (onTime f s).clk = s.clk := rfl
@[simp] theorem onTime_time (f : TimeState → TimeState) (s : State) : (onTime f s).time = f s.time := rfl
@[simp] theorem onTime_gauge (f : TimeState → TimeState) (s : State) : (onTime f s).gauge = s.gauge := rfl
@[simp] theorem onTime_rep (f : TimeState → TimeState) (s : State) : (onTime f s).rep = s.rep := rfl
@[simp] theorem onTime_draws (f : TimeState → TimeState) (s : State) : (onTime f s).draws = s.draws := rfl
@[simp] theorem onTime_pending (f : TimeState → TimeState) (s : State) : (onTime f s).pending = s.pending := rfl

@[simp] theorem onGauge_fuses (f : GaugeState → GaugeState) (s : State) : (onGauge f s).fuses = s.fuses := rfl
@[simp] theorem onGauge_boot (f : GaugeState → GaugeState) (s : State) : (onGauge f s).boot = s.boot := rfl
@[simp] theorem onGauge_regs (f : GaugeState → GaugeState) (s : State) : (onGauge f s).regs = s.regs := rfl
@[simp] theorem onGauge_cmd (f : GaugeState → GaugeState) (s : State) : (onGauge f s).cmd = s.cmd := rfl
@[simp] theorem onGauge_tab (f : GaugeState → GaugeState) (s : State) : (onGauge f s).tab = s.tab := rfl
@[simp] theorem onGauge_hold (f : GaugeState → GaugeState) (s : State) : (onGauge f s).hold = s.hold := rfl
@[simp] theorem onGauge_grad (f : GaugeState → GaugeState) (s : State) : (onGauge f s).grad = s.grad := rfl
@[simp] theorem onGauge_berm (f : GaugeState → GaugeState) (s : State) : (onGauge f s).berm = s.berm := rfl
@[simp] theorem onGauge_strm (f : GaugeState → GaugeState) (s : State) : (onGauge f s).strm = s.strm := rfl
@[simp] theorem onGauge_xl (f : GaugeState → GaugeState) (s : State) : (onGauge f s).xl = s.xl := rfl
@[simp] theorem onGauge_mem (f : GaugeState → GaugeState) (s : State) : (onGauge f s).mem = s.mem := rfl
@[simp] theorem onGauge_gov (f : GaugeState → GaugeState) (s : State) : (onGauge f s).gov = s.gov := rfl
@[simp] theorem onGauge_host (f : GaugeState → GaugeState) (s : State) : (onGauge f s).host = s.host := rfl
@[simp] theorem onGauge_fab (f : GaugeState → GaugeState) (s : State) : (onGauge f s).fab = s.fab := rfl
@[simp] theorem onGauge_clk (f : GaugeState → GaugeState) (s : State) : (onGauge f s).clk = s.clk := rfl
@[simp] theorem onGauge_time (f : GaugeState → GaugeState) (s : State) : (onGauge f s).time = s.time := rfl
@[simp] theorem onGauge_gauge (f : GaugeState → GaugeState) (s : State) : (onGauge f s).gauge = f s.gauge := rfl
@[simp] theorem onGauge_rep (f : GaugeState → GaugeState) (s : State) : (onGauge f s).rep = s.rep := rfl
@[simp] theorem onGauge_draws (f : GaugeState → GaugeState) (s : State) : (onGauge f s).draws = s.draws := rfl
@[simp] theorem onGauge_pending (f : GaugeState → GaugeState) (s : State) : (onGauge f s).pending = s.pending := rfl

@[simp] theorem onBoot_fuses (f : BootState → BootState) (s : State) : (onBoot f s).fuses = s.fuses := rfl
@[simp] theorem onBoot_boot (f : BootState → BootState) (s : State) : (onBoot f s).boot = f s.boot := rfl
@[simp] theorem onBoot_regs (f : BootState → BootState) (s : State) : (onBoot f s).regs = s.regs := rfl
@[simp] theorem onBoot_cmd (f : BootState → BootState) (s : State) : (onBoot f s).cmd = s.cmd := rfl
@[simp] theorem onBoot_tab (f : BootState → BootState) (s : State) : (onBoot f s).tab = s.tab := rfl
@[simp] theorem onBoot_hold (f : BootState → BootState) (s : State) : (onBoot f s).hold = s.hold := rfl
@[simp] theorem onBoot_grad (f : BootState → BootState) (s : State) : (onBoot f s).grad = s.grad := rfl
@[simp] theorem onBoot_berm (f : BootState → BootState) (s : State) : (onBoot f s).berm = s.berm := rfl
@[simp] theorem onBoot_strm (f : BootState → BootState) (s : State) : (onBoot f s).strm = s.strm := rfl
@[simp] theorem onBoot_xl (f : BootState → BootState) (s : State) : (onBoot f s).xl = s.xl := rfl
@[simp] theorem onBoot_mem (f : BootState → BootState) (s : State) : (onBoot f s).mem = s.mem := rfl
@[simp] theorem onBoot_gov (f : BootState → BootState) (s : State) : (onBoot f s).gov = s.gov := rfl
@[simp] theorem onBoot_host (f : BootState → BootState) (s : State) : (onBoot f s).host = s.host := rfl
@[simp] theorem onBoot_fab (f : BootState → BootState) (s : State) : (onBoot f s).fab = s.fab := rfl
@[simp] theorem onBoot_clk (f : BootState → BootState) (s : State) : (onBoot f s).clk = s.clk := rfl
@[simp] theorem onBoot_time (f : BootState → BootState) (s : State) : (onBoot f s).time = s.time := rfl
@[simp] theorem onBoot_gauge (f : BootState → BootState) (s : State) : (onBoot f s).gauge = s.gauge := rfl
@[simp] theorem onBoot_rep (f : BootState → BootState) (s : State) : (onBoot f s).rep = s.rep := rfl
@[simp] theorem onBoot_draws (f : BootState → BootState) (s : State) : (onBoot f s).draws = s.draws := rfl
@[simp] theorem onBoot_pending (f : BootState → BootState) (s : State) : (onBoot f s).pending = s.pending := rfl

@[simp] theorem loseLock_fuses (s : State) : (loseLock s).fuses = s.fuses := rfl
@[simp] theorem loseLock_boot (s : State) : (loseLock s).boot = s.boot := rfl
@[simp] theorem loseLock_regs (s : State) : (loseLock s).regs = s.regs := rfl
@[simp] theorem loseLock_cmd (s : State) : (loseLock s).cmd = s.cmd := rfl
@[simp] theorem loseLock_tab (s : State) : (loseLock s).tab = s.tab := rfl
@[simp] theorem loseLock_hold (s : State) : (loseLock s).hold = s.hold := rfl
@[simp] theorem loseLock_grad (s : State) : (loseLock s).grad = s.grad := rfl
@[simp] theorem loseLock_berm (s : State) : (loseLock s).berm = s.berm := rfl
@[simp] theorem loseLock_strm (s : State) : (loseLock s).strm = s.strm := rfl
@[simp] theorem loseLock_xl (s : State) : (loseLock s).xl = s.xl := rfl
@[simp] theorem loseLock_mem (s : State) : (loseLock s).mem = s.mem := rfl
@[simp] theorem loseLock_gov (s : State) : (loseLock s).gov = s.gov := rfl
@[simp] theorem loseLock_host (s : State) : (loseLock s).host = s.host := rfl
@[simp] theorem loseLock_fab (s : State) : (loseLock s).fab = s.fab := rfl
@[simp] theorem loseLock_clk (s : State) : (loseLock s).clk = s.clk := rfl
@[simp] theorem loseLock_time (s : State) : (loseLock s).time = { s.time with lock := false, good := 0, bad := 0, ppsOut := false } := rfl
@[simp] theorem loseLock_gauge (s : State) : (loseLock s).gauge = s.gauge := rfl
@[simp] theorem loseLock_rep (s : State) : (loseLock s).rep = s.rep := rfl
@[simp] theorem loseLock_draws (s : State) : (loseLock s).draws = s.draws := rfl
@[simp] theorem loseLock_pending (s : State) : (loseLock s).pending = s.pending := rfl

@[simp] theorem rawWriteDev_fuses (a : Nat) (b : Bytes) (s : State) : (rawWriteDev a b s).fuses = s.fuses := rfl
@[simp] theorem rawWriteDev_boot (a : Nat) (b : Bytes) (s : State) : (rawWriteDev a b s).boot = s.boot := rfl
@[simp] theorem rawWriteDev_regs (a : Nat) (b : Bytes) (s : State) : (rawWriteDev a b s).regs = s.regs := rfl
@[simp] theorem rawWriteDev_cmd (a : Nat) (b : Bytes) (s : State) : (rawWriteDev a b s).cmd = s.cmd := rfl
@[simp] theorem rawWriteDev_tab (a : Nat) (b : Bytes) (s : State) : (rawWriteDev a b s).tab = s.tab := rfl
@[simp] theorem rawWriteDev_hold (a : Nat) (b : Bytes) (s : State) : (rawWriteDev a b s).hold = s.hold := rfl
@[simp] theorem rawWriteDev_grad (a : Nat) (b : Bytes) (s : State) : (rawWriteDev a b s).grad = s.grad := rfl
@[simp] theorem rawWriteDev_berm (a : Nat) (b : Bytes) (s : State) : (rawWriteDev a b s).berm = s.berm := rfl
@[simp] theorem rawWriteDev_strm (a : Nat) (b : Bytes) (s : State) : (rawWriteDev a b s).strm = s.strm := rfl
@[simp] theorem rawWriteDev_xl (a : Nat) (b : Bytes) (s : State) : (rawWriteDev a b s).xl = s.xl := rfl
@[simp] theorem rawWriteDev_mem (a : Nat) (b : Bytes) (s : State) : (rawWriteDev a b s).mem = { s.mem with dev := Memory.write s.mem.dev a b } := rfl
@[simp] theorem rawWriteDev_gov (a : Nat) (b : Bytes) (s : State) : (rawWriteDev a b s).gov = s.gov := rfl
@[simp] theorem rawWriteDev_host (a : Nat) (b : Bytes) (s : State) : (rawWriteDev a b s).host = s.host := rfl
@[simp] theorem rawWriteDev_fab (a : Nat) (b : Bytes) (s : State) : (rawWriteDev a b s).fab = s.fab := rfl
@[simp] theorem rawWriteDev_clk (a : Nat) (b : Bytes) (s : State) : (rawWriteDev a b s).clk = s.clk := rfl
@[simp] theorem rawWriteDev_time (a : Nat) (b : Bytes) (s : State) : (rawWriteDev a b s).time = s.time := rfl
@[simp] theorem rawWriteDev_gauge (a : Nat) (b : Bytes) (s : State) : (rawWriteDev a b s).gauge = s.gauge := rfl
@[simp] theorem rawWriteDev_rep (a : Nat) (b : Bytes) (s : State) : (rawWriteDev a b s).rep = s.rep := rfl
@[simp] theorem rawWriteDev_draws (a : Nat) (b : Bytes) (s : State) : (rawWriteDev a b s).draws = s.draws := rfl
@[simp] theorem rawWriteDev_pending (a : Nat) (b : Bytes) (s : State) : (rawWriteDev a b s).pending = s.pending := rfl

@[simp] theorem mapTask_fuses (id : Nat) (f : Task → Task) (s : State) : (mapTask id f s).fuses = s.fuses := rfl
@[simp] theorem mapTask_boot (id : Nat) (f : Task → Task) (s : State) : (mapTask id f s).boot = s.boot := rfl
@[simp] theorem mapTask_regs (id : Nat) (f : Task → Task) (s : State) : (mapTask id f s).regs = s.regs := rfl
@[simp] theorem mapTask_cmd (id : Nat) (f : Task → Task) (s : State) : (mapTask id f s).cmd = { s.cmd with tasks := s.cmd.tasks.map (fun t => if t.id = id then f t else t) } := rfl
@[simp] theorem mapTask_tab (id : Nat) (f : Task → Task) (s : State) : (mapTask id f s).tab = s.tab := rfl
@[simp] theorem mapTask_hold (id : Nat) (f : Task → Task) (s : State) : (mapTask id f s).hold = s.hold := rfl
@[simp] theorem mapTask_grad (id : Nat) (f : Task → Task) (s : State) : (mapTask id f s).grad = s.grad := rfl
@[simp] theorem mapTask_berm (id : Nat) (f : Task → Task) (s : State) : (mapTask id f s).berm = s.berm := rfl
@[simp] theorem mapTask_strm (id : Nat) (f : Task → Task) (s : State) : (mapTask id f s).strm = s.strm := rfl
@[simp] theorem mapTask_xl (id : Nat) (f : Task → Task) (s : State) : (mapTask id f s).xl = s.xl := rfl
@[simp] theorem mapTask_mem (id : Nat) (f : Task → Task) (s : State) : (mapTask id f s).mem = s.mem := rfl
@[simp] theorem mapTask_gov (id : Nat) (f : Task → Task) (s : State) : (mapTask id f s).gov = s.gov := rfl
@[simp] theorem mapTask_host (id : Nat) (f : Task → Task) (s : State) : (mapTask id f s).host = s.host := rfl
@[simp] theorem mapTask_fab (id : Nat) (f : Task → Task) (s : State) : (mapTask id f s).fab = s.fab := rfl
@[simp] theorem mapTask_clk (id : Nat) (f : Task → Task) (s : State) : (mapTask id f s).clk = s.clk := rfl
@[simp] theorem mapTask_time (id : Nat) (f : Task → Task) (s : State) : (mapTask id f s).time = s.time := rfl
@[simp] theorem mapTask_gauge (id : Nat) (f : Task → Task) (s : State) : (mapTask id f s).gauge = s.gauge := rfl
@[simp] theorem mapTask_rep (id : Nat) (f : Task → Task) (s : State) : (mapTask id f s).rep = s.rep := rfl
@[simp] theorem mapTask_draws (id : Nat) (f : Task → Task) (s : State) : (mapTask id f s).draws = s.draws := rfl
@[simp] theorem mapTask_pending (id : Nat) (f : Task → Task) (s : State) : (mapTask id f s).pending = s.pending := rfl

@[simp] theorem finishTask_fuses (id : Nat) (r : Result) (s : State) : (finishTask id r s).fuses = s.fuses := rfl
@[simp] theorem finishTask_boot (id : Nat) (r : Result) (s : State) : (finishTask id r s).boot = s.boot := rfl
@[simp] theorem finishTask_regs (id : Nat) (r : Result) (s : State) : (finishTask id r s).regs = s.regs := rfl
@[simp] theorem finishTask_cmd (id : Nat) (r : Result) (s : State) : (finishTask id r s).cmd = { s.cmd with tasks := s.cmd.tasks.map (fun t => if t.id = id then setResult r t else t) } := rfl
@[simp] theorem finishTask_tab (id : Nat) (r : Result) (s : State) : (finishTask id r s).tab = s.tab := rfl
@[simp] theorem finishTask_hold (id : Nat) (r : Result) (s : State) : (finishTask id r s).hold = s.hold := rfl
@[simp] theorem finishTask_grad (id : Nat) (r : Result) (s : State) : (finishTask id r s).grad = s.grad := rfl
@[simp] theorem finishTask_berm (id : Nat) (r : Result) (s : State) : (finishTask id r s).berm = s.berm := rfl
@[simp] theorem finishTask_strm (id : Nat) (r : Result) (s : State) : (finishTask id r s).strm = s.strm := rfl
@[simp] theorem finishTask_xl (id : Nat) (r : Result) (s : State) : (finishTask id r s).xl = s.xl := rfl
@[simp] theorem finishTask_mem (id : Nat) (r : Result) (s : State) : (finishTask id r s).mem = s.mem := rfl
@[simp] theorem finishTask_gov (id : Nat) (r : Result) (s : State) : (finishTask id r s).gov = s.gov := rfl
@[simp] theorem finishTask_host (id : Nat) (r : Result) (s : State) : (finishTask id r s).host = s.host := rfl
@[simp] theorem finishTask_fab (id : Nat) (r : Result) (s : State) : (finishTask id r s).fab = s.fab := rfl
@[simp] theorem finishTask_clk (id : Nat) (r : Result) (s : State) : (finishTask id r s).clk = s.clk := rfl
@[simp] theorem finishTask_time (id : Nat) (r : Result) (s : State) : (finishTask id r s).time = s.time := rfl
@[simp] theorem finishTask_gauge (id : Nat) (r : Result) (s : State) : (finishTask id r s).gauge = s.gauge := rfl
@[simp] theorem finishTask_rep (id : Nat) (r : Result) (s : State) : (finishTask id r s).rep = s.rep := rfl
@[simp] theorem finishTask_draws (id : Nat) (r : Result) (s : State) : (finishTask id r s).draws = s.draws := rfl
@[simp] theorem finishTask_pending (id : Nat) (r : Result) (s : State) : (finishTask id r s).pending = s.pending := rfl

@[simp] theorem finishOk_fuses (id work : Nat) (s : State) : (finishOk id work s).fuses = s.fuses := rfl
@[simp] theorem finishOk_boot (id work : Nat) (s : State) : (finishOk id work s).boot = s.boot := rfl
@[simp] theorem finishOk_regs (id work : Nat) (s : State) : (finishOk id work s).regs = s.regs := rfl
@[simp] theorem finishOk_cmd (id work : Nat) (s : State) : (finishOk id work s).cmd = (mapTask id (fun t => setResult (okResult t work false false) t) s).cmd := rfl
@[simp] theorem finishOk_tab (id work : Nat) (s : State) : (finishOk id work s).tab = s.tab := rfl
@[simp] theorem finishOk_hold (id work : Nat) (s : State) : (finishOk id work s).hold = s.hold := rfl
@[simp] theorem finishOk_grad (id work : Nat) (s : State) : (finishOk id work s).grad = s.grad := rfl
@[simp] theorem finishOk_berm (id work : Nat) (s : State) : (finishOk id work s).berm = s.berm := rfl
@[simp] theorem finishOk_strm (id work : Nat) (s : State) : (finishOk id work s).strm = s.strm := rfl
@[simp] theorem finishOk_xl (id work : Nat) (s : State) : (finishOk id work s).xl = s.xl := rfl
@[simp] theorem finishOk_mem (id work : Nat) (s : State) : (finishOk id work s).mem = s.mem := rfl
@[simp] theorem finishOk_gov (id work : Nat) (s : State) : (finishOk id work s).gov = s.gov := rfl
@[simp] theorem finishOk_host (id work : Nat) (s : State) : (finishOk id work s).host = s.host := rfl
@[simp] theorem finishOk_fab (id work : Nat) (s : State) : (finishOk id work s).fab = s.fab := rfl
@[simp] theorem finishOk_clk (id work : Nat) (s : State) : (finishOk id work s).clk = s.clk := rfl
@[simp] theorem finishOk_time (id work : Nat) (s : State) : (finishOk id work s).time = s.time := rfl
@[simp] theorem finishOk_gauge (id work : Nat) (s : State) : (finishOk id work s).gauge = s.gauge := rfl
@[simp] theorem finishOk_rep (id work : Nat) (s : State) : (finishOk id work s).rep = s.rep := rfl
@[simp] theorem finishOk_draws (id work : Nat) (s : State) : (finishOk id work s).draws = s.draws := rfl
@[simp] theorem finishOk_pending (id work : Nat) (s : State) : (finishOk id work s).pending = s.pending := rfl

@[simp] theorem setWork_fuses (id : Nat) (w : Work) (s : State) : (setWork id w s).fuses = s.fuses := rfl
@[simp] theorem setWork_boot (id : Nat) (w : Work) (s : State) : (setWork id w s).boot = s.boot := rfl
@[simp] theorem setWork_regs (id : Nat) (w : Work) (s : State) : (setWork id w s).regs = s.regs := rfl
@[simp] theorem setWork_cmd (id : Nat) (w : Work) (s : State) : (setWork id w s).cmd = (mapTask id (fun t => if t.isDone then t else { t with phase := .running w }) s).cmd := rfl
@[simp] theorem setWork_tab (id : Nat) (w : Work) (s : State) : (setWork id w s).tab = s.tab := rfl
@[simp] theorem setWork_hold (id : Nat) (w : Work) (s : State) : (setWork id w s).hold = s.hold := rfl
@[simp] theorem setWork_grad (id : Nat) (w : Work) (s : State) : (setWork id w s).grad = s.grad := rfl
@[simp] theorem setWork_berm (id : Nat) (w : Work) (s : State) : (setWork id w s).berm = s.berm := rfl
@[simp] theorem setWork_strm (id : Nat) (w : Work) (s : State) : (setWork id w s).strm = s.strm := rfl
@[simp] theorem setWork_xl (id : Nat) (w : Work) (s : State) : (setWork id w s).xl = s.xl := rfl
@[simp] theorem setWork_mem (id : Nat) (w : Work) (s : State) : (setWork id w s).mem = s.mem := rfl
@[simp] theorem setWork_gov (id : Nat) (w : Work) (s : State) : (setWork id w s).gov = s.gov := rfl
@[simp] theorem setWork_host (id : Nat) (w : Work) (s : State) : (setWork id w s).host = s.host := rfl
@[simp] theorem setWork_fab (id : Nat) (w : Work) (s : State) : (setWork id w s).fab = s.fab := rfl
@[simp] theorem setWork_clk (id : Nat) (w : Work) (s : State) : (setWork id w s).clk = s.clk := rfl
@[simp] theorem setWork_time (id : Nat) (w : Work) (s : State) : (setWork id w s).time = s.time := rfl
@[simp] theorem setWork_gauge (id : Nat) (w : Work) (s : State) : (setWork id w s).gauge = s.gauge := rfl
@[simp] theorem setWork_rep (id : Nat) (w : Work) (s : State) : (setWork id w s).rep = s.rep := rfl
@[simp] theorem setWork_draws (id : Nat) (w : Work) (s : State) : (setWork id w s).draws = s.draws := rfl
@[simp] theorem setWork_pending (id : Nat) (w : Work) (s : State) : (setWork id w s).pending = s.pending := rfl

@[simp] theorem addLost_fuses (k : Nat) (s : State) : (addLost k s).fuses = s.fuses := rfl
@[simp] theorem addLost_boot (k : Nat) (s : State) : (addLost k s).boot = s.boot := rfl
@[simp] theorem addLost_regs (k : Nat) (s : State) : (addLost k s).regs = s.regs := rfl
@[simp] theorem addLost_cmd (k : Nat) (s : State) : (addLost k s).cmd = s.cmd := rfl
@[simp] theorem addLost_tab (k : Nat) (s : State) : (addLost k s).tab = s.tab := rfl
@[simp] theorem addLost_hold (k : Nat) (s : State) : (addLost k s).hold = s.hold := rfl
@[simp] theorem addLost_grad (k : Nat) (s : State) : (addLost k s).grad = s.grad := rfl
@[simp] theorem addLost_berm (k : Nat) (s : State) : (addLost k s).berm = s.berm := rfl
@[simp] theorem addLost_strm (k : Nat) (s : State) : (addLost k s).strm = s.strm := rfl
@[simp] theorem addLost_xl (k : Nat) (s : State) : (addLost k s).xl = s.xl := rfl
@[simp] theorem addLost_mem (k : Nat) (s : State) : (addLost k s).mem = s.mem := rfl
@[simp] theorem addLost_gov (k : Nat) (s : State) : (addLost k s).gov = s.gov := rfl
@[simp] theorem addLost_host (k : Nat) (s : State) : (addLost k s).host = s.host := rfl
@[simp] theorem addLost_fab (k : Nat) (s : State) : (addLost k s).fab = s.fab := rfl
@[simp] theorem addLost_clk (k : Nat) (s : State) : (addLost k s).clk = s.clk := rfl
@[simp] theorem addLost_time (k : Nat) (s : State) : (addLost k s).time = s.time := rfl
@[simp] theorem addLost_gauge (k : Nat) (s : State) : (addLost k s).gauge = s.gauge := rfl
@[simp] theorem addLost_rep (k : Nat) (s : State) : (addLost k s).rep = { s.rep with lost := satAdd s.rep.lost k } := rfl
@[simp] theorem addLost_draws (k : Nat) (s : State) : (addLost k s).draws = s.draws := rfl
@[simp] theorem addLost_pending (k : Nat) (s : State) : (addLost k s).pending = s.pending := rfl

end Sys2Proof.Machine
end

