-- ==== Sys2Proof/Laws/Outcome.lean ====
section
/-! SUPPORT. What every command leaves, said once: the invariant, the queue, the fuses; and the outcome written plainly where the
effect touches neither registers nor tasks. -/

namespace Sys2Proof.Machine

/-! ### Reserved bits -/

theorem and_and_mask {n : Nat} (x m : BitVec n) : x &&& m &&& m = x &&& m := by
  ext i hi; simp

@[simp] theorem tidy_tidy (r : Regs) : r.tidy.tidy = r.tidy := by
  simp only [Regs.tidy, and_and_mask]

/-! ### Task numbers -/

theorem le_foldl_numbers (l : List Task) (n : Nat) : n ≤ l.foldl (fun n t => max n (t.id + 1)) n := by
  induction l generalizing n with
  | nil => exact Nat.le_refl n
  | cons t l ih => exact Nat.le_trans (Nat.le_max_left n (t.id + 1)) (ih _)

theorem lt_foldl_numbers {l : List Task} (n : Nat) {t : Task} (h : t ∈ l) :
    t.id < l.foldl (fun n t => max n (t.id + 1)) n := by
  induction l generalizing n with
  | nil => cases h
  | cons u l ih =>
    rcases List.mem_cons.1 h with rfl | h
    · exact Nat.lt_of_lt_of_le (Nat.lt_of_lt_of_le (Nat.lt_succ_self _) (Nat.le_max_right _ _)) (le_foldl_numbers l _)
    · exact ih _ h

theorem foldl_numbers_eq {l : List Task} {n : Nat} (h : ∀ t ∈ l, t.id < n) :
    l.foldl (fun n t => max n (t.id + 1)) n = n := by
  induction l with
  | nil => rfl
  | cons u l ih =>
    have hu := h u List.mem_cons_self
    rw [List.foldl_cons, Nat.max_eq_left hu]
    exact ih (fun t ht => h t (List.mem_cons_of_mem _ ht))

@[simp] theorem numbered_tasks (c : CmdState) : c.numbered.tasks = c.tasks := rfl

theorem lt_numbered {c : CmdState} {t : Task} (h : t ∈ c.tasks) : t.id < c.numbered.nextTask := lt_foldl_numbers _ h

theorem numbered_eq {c : CmdState} (h : ∀ t ∈ c.tasks, t.id < c.nextTask) : c.numbered = c := by
  simp [CmdState.numbered, foldl_numbers_eq h]

theorem State.Inv.tidy {s : State} (h : s.Inv) : s.regs.tidy = s.regs := h.1
theorem State.Inv.numbered {s : State} (h : s.Inv) : s.cmd.numbered = s.cmd := numbered_eq h.2

/-! ### The outcome -/

/-- The state a command leaves. -/
theorem leaves_next (s t : State) : leaves s t = .next { t with
    pending := s.pending, regs := t.regs.tidy, cmd := t.cmd.numbered, fuses := { s.fuses with field := t.fuses.field } } := rfl

/-- An effect that keeps registers, tasks and fuses is left as it is. -/
theorem leaves_same {s t : State} (h : s.Inv) (hr : t.regs = s.regs) (hc : t.cmd = s.cmd) (hf : t.fuses = s.fuses)
    (hp : t.pending = s.pending) : leaves s t = .next t := by
  have h1 : t.regs.tidy = t.regs := by rw [hr]; exact h.tidy
  have h2 : t.cmd.numbered = t.cmd := by rw [hc]; exact h.numbered
  simp only [leaves, h1, h2, ← hp, ← hf]

/-- The same for an effect on registers and tasks that meets the invariant. -/
theorem leaves_inv {s t : State} (h : t.Inv) (hf : t.fuses = s.fuses) (hp : t.pending = s.pending) : leaves s t = .next t := by
  simp only [leaves, h.tidy, h.numbered, ← hp, ← hf]

/-- The same for a command that burns fuses. -/
theorem burnt_inv {s t : State} (h : t.Inv)
    (hf : { s.fuses with
      field := t.fuses.field
      svnFloor := max s.fuses.svnFloor t.fuses.svnFloor
      epochBits := max s.fuses.epochBits t.fuses.epochBits
      cal := if s.fuses.sealed then s.fuses.cal else t.fuses.cal
      sealed := s.fuses.sealed || t.fuses.sealed } = t.fuses) (hp : t.pending = s.pending) : burnt s t = .next t := by
  simp only [burnt, h.tidy, h.numbered, ← hp, hf]

theorem leaves_keeps {s t u : State} (h : leaves s t = .next u) : u.Inv ∧ u.pending = s.pending := by
  cases h
  exact ⟨⟨tidy_tidy _, fun _ ht => lt_numbered ht⟩, rfl⟩

theorem burnt_keeps {s t u : State} (h : burnt s t = .next u) : u.Inv ∧ u.pending = s.pending := by
  cases h
  exact ⟨⟨tidy_tidy _, fun _ ht => lt_numbered ht⟩, rfl⟩

/-! ### Register writes (R502) -/

theorem guardWrite_live {s : State} (o : Nat) (f : State → State) (hr : s.boot.inReset = false) (hw : writesLive s = true) :
    guardWrite o f s = f s := by simp [guardWrite, hr, hw]

theorem guardWrite_early {s : State} (o : Nat) (f : State → State) (hr : s.boot.inReset = false) (hw : writesLive s = false) :
    guardWrite o f s = misuse o s := by simp [guardWrite, hr, hw]

end Sys2Proof.Machine
end

