-- ==== Sys2Proof/Laws/Accept.lean ====
section
/-! SUPPORT. Acceptance of a packet, said once for every opcode (R36, R45, R46). -/

namespace Sys2Proof.Machine

theorem injectAt_none {s : State} (det unit : Nat) (h : s.rep.inj = none) : injectAt det unit s = (false, s) := by
  simp [injectAt, h]

/-- A ring the engine would not accept from now gives nothing. -/
theorem acceptPacket_held {op : Byte} {n : Nat} {s : State} (step4 : Byte → Packet → Checks) (begin_ : Nat → State → State)
    (p : Packet) (h : mayAccept s op n = false) : acceptPacket op step4 begin_ n p s = s := by
  simp [acceptPacket, h]

/-- A packet that is read: what becomes of it after steps 1 to 4. -/
theorem acceptPacket_reads {op : Byte} {n : Nat} {p : Packet} {s : State} (step4 : Byte → Packet → Checks)
    (begin_ : Nat → State → State) (h : Reads op n p s) :
    acceptPacket op step4 begin_ n p s =
      match headChecks op n (ringGet s n).proto ((ringGet s n).sqHead.toNat % ringDepth (ringGet s n)) true p with
      | some f => finishTask s.cmd.nextTask f (tookPacket op n p s)
      | none => match step4Fail op (ringGet s n).proto p (step4 (ringGet s n).proto p) with
        | some f => finishTask s.cmd.nextTask f (tookPacket op n p s)
        | none => begin_ s.cmd.nextTask (tookPacket op n p s) := by
  obtain ⟨h1, h2, h3, h4, h5⟩ := h
  simp only [acceptPacket, h1, h2, h3, h5, injectAt_none 0x01 0 h4, tookPacket, tookTask, packetTask, keptPacket, Bool.not_true, Bool.not_false,
    Bool.and_true, Bool.and_self, if_true, if_false, Bool.false_eq_true]
  all_goals rfl

/-- A packet that passes steps 1 to 4 goes on to steps 5 and 6. -/
theorem acceptPacket_accepts {op : Byte} {n : Nat} {p : Packet} {s : State} {step4 : Byte → Packet → Checks}
    (begin_ : Nat → State → State) (h : Accepts op step4 n p s) :
    acceptPacket op step4 begin_ n p s = begin_ s.cmd.nextTask (tookPacket op n p s) := by
  obtain ⟨h1, h2, h3⟩ := h
  rw [acceptPacket_reads step4 begin_ h1, h2]
  simp only [h3]

end Sys2Proof.Machine
end

