-- ==== Sys2Proof/Laws/Memory.lean ====
section
/-! SUPPORT. Reads after writes, and the canonical form of memory, which every write keeps. -/

namespace Sys2Proof.Machine

namespace Memory

/-- A cell at a lower address than every listed one reads blank. -/
theorem get_of_lt (m : Memory) (a : Nat) (h : ∀ c ∈ m, a < c.1) : m.get a = blank := by
  have : m.find? (fun c => c.1 == a) = none := by
    rw [List.find?_eq_none]
    intro c hc
    have := h c hc
    simp only [beq_iff_eq]
    omega
  simp [get, this]

@[simp] theorem get_nil (a : Nat) : get [] a = blank := rfl

theorem get_cons (c : Host.Cell) (t : Memory) (a : Nat) : get (c :: t) a = if c.1 = a then c.2 else get t a := by
  by_cases h : c.1 = a <;> simp [get, h]

theorem wf_tail {c : Host.Cell} {t : Memory} (h : wf (c :: t)) : wf t :=
  ⟨(List.pairwise_cons.1 h.1).2, fun x hx => h.2 x (List.mem_cons_of_mem _ hx)⟩

theorem wf_head {c : Host.Cell} {t : Memory} (h : wf (c :: t)) : ∀ x ∈ t, c.1 < x.1 := fun x hx =>
  (List.pairwise_cons.1 h.1).1 x.1 (List.mem_map.2 ⟨x, hx, rfl⟩)

theorem wf_cons {c : Host.Cell} {t : Memory} (hlt : ∀ x ∈ t, c.1 < x.1) (hb : c.2 ≠ blank) (h : wf t) : wf (c :: t) := by
  refine ⟨List.pairwise_cons.2 ⟨?_, h.1⟩, ?_⟩
  · intro k hk
    obtain ⟨x, hx, rfl⟩ := List.mem_map.1 hk
    exact hlt x hx
  · intro x hx
    rcases List.mem_cons.1 hx with rfl | hx
    · exact hb
    · exact h.2 x hx

/-- Every cell that a write lists is the written one or was listed. -/
theorem mem_set {m : Memory} {a : Nat} {b : Byte} {c : Host.Cell} (h : c ∈ m.set a b) : c = (a, b) ∨ c ∈ m := by
  induction m with
  | nil => simp only [set] at h; split at h <;> simp_all
  | cons d t ih =>
    simp only [set] at h
    split at h
    · split at h
      · exact .inr h
      · rcases List.mem_cons.1 h with h | h
        · exact .inl h
        · exact .inr h
    · split at h
      · split at h
        · exact .inr (List.mem_cons_of_mem _ h)
        · rcases List.mem_cons.1 h with h | h
          · exact .inl h
          · exact .inr (List.mem_cons_of_mem _ h)
      · rcases List.mem_cons.1 h with h | h
        · exact .inr (h ▸ List.mem_cons_self)
        · exact (ih h).imp id (List.mem_cons_of_mem _)

/-- Storing a byte keeps the canonical form. -/
theorem wf_set {m : Memory} (a : Nat) (b : Byte) (h : wf m) : wf (m.set a b) := by
  induction m with
  | nil =>
    simp only [set]
    split
    · exact h
    · rename_i hb
      exact wf_cons (by simp) hb h
  | cons d t ih =>
    have hd := wf_head h
    simp only [set]
    split
    · split
      · exact h
      · rename_i hlt hb
        refine wf_cons (fun x hx => ?_) hb h
        rcases List.mem_cons.1 hx with rfl | hx
        · exact hlt
        · exact Nat.lt_trans hlt (hd x hx)
    · split
      · rename_i heq
        split
        · exact wf_tail h
        · rename_i hb
          exact wf_cons (fun x hx => heq ▸ hd x hx) hb (wf_tail h)
      · refine wf_cons (fun x hx => ?_) (h.2 d List.mem_cons_self) (ih (wf_tail h))
        rcases mem_set hx with rfl | hx
        · simp only; omega
        · exact hd x hx

/-- A byte just stored reads back. -/
theorem get_set_same {m : Memory} (a : Nat) (b : Byte) (h : wf m) : (m.set a b).get a = b := by
  induction m with
  | nil => simp only [set]; split <;> simp_all [get_cons]
  | cons d t ih =>
    have hd := wf_head h
    simp only [set]
    split
    · rename_i hlt
      split
      · rename_i hb
        rw [hb]
        refine get_of_lt _ _ (fun x hx => ?_)
        rcases List.mem_cons.1 hx with rfl | hx
        · exact hlt
        · exact Nat.lt_trans hlt (hd x hx)
      · simp [get_cons]
    · split
      · rename_i heq
        split
        · rename_i hb
          rw [hb]
          exact get_of_lt _ _ (fun x hx => heq ▸ hd x hx)
        · simp [get_cons]
      · rename_i hne
        rw [get_cons, if_neg (fun he => hne he.symm)]
        exact ih (wf_tail h)

/-- Storing a byte leaves every other byte. -/
theorem get_set_other {m : Memory} {a k : Nat} (b : Byte) (hk : k ≠ a) : (m.set a b).get k = m.get k := by
  induction m with
  | nil => simp only [set]; split <;> simp [get_cons, Ne.symm hk]
  | cons d t ih =>
    simp only [set]
    split
    · split
      · rfl
      · rw [get_cons, if_neg (Ne.symm hk)]
    · split
      · rename_i heq
        split
        · rw [get_cons, if_neg (heq ▸ Ne.symm hk)]
        · rw [get_cons, get_cons, if_neg (Ne.symm hk), if_neg (heq ▸ Ne.symm hk)]
      · rw [get_cons, get_cons, ih]

/-- Storing a byte string keeps the canonical form. -/
theorem wf_write {m : Memory} (a : Nat) (b : Bytes) (h : wf m) : wf (m.write a b) := by
  induction b generalizing m a with
  | nil => exact h
  | cons x t ih => exact ih (a + 1) (wf_set a x h)

/-- A byte string leaves every byte outside it. -/
theorem get_write_outside {m : Memory} {a k : Nat} (b : Bytes) (hk : k < a ∨ a + b.length ≤ k) :
    (m.write a b).get k = m.get k := by
  induction b generalizing m a with
  | nil => rfl
  | cons x t ih =>
    simp only [List.length_cons] at hk
    rw [write, ih (by omega), get_set_other x (by omega)]

/-- A byte string just stored reads back, byte by byte. -/
theorem get_write_inside {m : Memory} {a : Nat} (b : Bytes) (h : wf m) (i : Nat) (hi : i < b.length) :
    (m.write a b).get (a + i) = b[i] := by
  induction b generalizing m a i with
  | nil => simp at hi
  | cons x t ih =>
    rw [write]
    cases i with
    | zero => simpa using (get_write_outside t (.inl (Nat.lt_succ_self a))).trans (get_set_same a x h)
    | succ j =>
      have := ih (m := m.set a x) (a := a + 1) (wf_set a x h) j (by simpa using hi)
      simpa [Nat.add_assoc, Nat.add_comm 1 j] using this

/-- Reading what was just stored gives it back. -/
theorem read_write {m : Memory} (a : Nat) (b : Bytes) (h : wf m) : (m.write a b).read a b.length = b := by
  have key : ∀ (n : Nat) (m' : Memory) (a' : Nat) (l : Bytes), l.length = n →
      (∀ i, (hi : i < l.length) → m'.get (a' + i) = l[i]) → m'.read a' n = l := by
    intro n
    induction n with
    | zero => intro m' a' l hl _; exact (List.length_eq_zero_iff.1 hl).symm
    | succ n ih =>
      intro m' a' l hl hg
      cases l with
      | nil => simp at hl
      | cons x t =>
        have h0 := hg 0 (by simp)
        simp only [Nat.add_zero, List.getElem_cons_zero] at h0
        rw [read, h0, ih m' (a' + 1) t (by simpa using hl)]
        intro i hi
        have := hg (i + 1) (by simpa using hi)
        simpa [Nat.add_assoc, Nat.add_comm 1 i] using this
  exact key b.length _ a b rfl (fun i hi => get_write_inside b h i hi)

end Memory

/-- Every memory of the state right after reset is in its canonical form. -/
theorem reset_memory_wf : Memory.wf State.reset.mem.dev ∧ Memory.wf State.reset.mem.host ∧ Memory.wf State.reset.mem.scratch := by
  refine ⟨?_, ?_, ?_⟩ <;> exact ⟨List.Pairwise.nil, by intro c hc; cases hc⟩

end Sys2Proof.Machine
end

