-- ==== Sys2Proof/Laws/Log.lean ====
section
/-! SUPPORT. An error record changes only what `LogOnly` names (R465, R471 to R473). -/

namespace Sys2Proof.Machine

@[simp] theorem leBytes_length (n x : Nat) : (leBytes n x).length = n := by
  induction n generalizing x with
  | zero => rfl
  | succ n ih => simp [leBytes, ih]

@[simp] theorem padTo_length (n : Nat) (b : Bytes) : (padTo n b).length = n := by
  simp [padTo, zeroBytes]; omega

@[simp] theorem withCrc_length (b : Bytes) : (withCrc b).length = b.length + 4 := by simp [withCrc]

@[simp] theorem ErrRec.body_length (e : ErrRec) (n k : Nat) (t : Word) : (e.body n k t).length = 60 := by simp [ErrRec.body]


namespace LogOnly

theorem refl (s : State) : LogOnly s s := by constructor <;> first | rfl | exact fun _ _ => rfl

theorem trans {s t u : State} (h : LogOnly s t) (k : LogOnly t u) : LogOnly s u where
  fuses := k.fuses.trans h.fuses
  boot := k.boot.trans h.boot
  tab := k.tab.trans h.tab
  hold := k.hold.trans h.hold
  grad := k.grad.trans h.grad
  berm := k.berm.trans h.berm
  strm := k.strm.trans h.strm
  xl := k.xl.trans h.xl
  gov := k.gov.trans h.gov
  host := by rw [← h.host, ← k.host]
  fab := k.fab.trans h.fab
  clk := k.clk.trans h.clk
  time := k.time.trans h.time
  gauge := k.gauge.trans h.gauge
  draws := k.draws.trans h.draws
  pending := k.pending.trans h.pending
  tasks := k.tasks.trans h.tasks
  rings := k.rings.trans h.rings
  nextTask := k.nextTask.trans h.nextTask
  counts := by rw [← h.counts, ← k.counts]
  regs := by rw [← h.regs, ← k.regs]
  memory := by rw [← h.memory, ← k.memory]
  ring := fun a ha => (k.ring a (by
    have e1 : t.regs.errBase = s.regs.errBase := by rw [← h.regs]
    simpa [errRingBase, errElog2, e1] using ha)).trans (h.ring a ha)
  repair := by rw [← h.repair, ← k.repair]

end LogOnly

theorem msixOn_logOnly (l : Option Nat) (v : Nat) (s : State) : LogOnly s (msixOn l v s) := by
  unfold msixOn
  split
  · constructor <;> first | rfl | exact fun _ _ => rfl
  · split
    · exact .refl s
    · constructor <;> first | rfl | exact fun _ _ => rfl

theorem raiseEvent_logOnly (e : Nat) (s : State) : LogOnly s (raiseEvent e s) := by
  have h : LogOnly s { s with regs := { s.regs with irqPend := s.regs.irqPend ||| (1#64 <<< e) } } := by constructor <;> first | rfl | exact fun _ _ => rfl
  simp only [raiseEvent]
  split
  · exact h
  · exact h.trans (msixOn_logOnly _ _ _)

/-- A write of a line of the log's ring, and what of it is asked back first. -/
theorem evictNear_logOnly {k : Nat} {s : State} (h : errRingBase s ≤ k * 64) (h' : k * 64 + 64 ≤ errRingBase s + 64 * 2 ^ errElog2 s) :
    LogOnly s (evictNear k none s) := by
  unfold evictNear
  split
  · exact .refl s
  · simp only
    split
    · constructor <;> first | rfl | exact fun _ _ => rfl
    · unfold clearPoison
      split <;>
      · refine ⟨rfl, rfl, rfl, rfl, rfl, rfl, rfl, rfl, rfl, rfl, rfl, rfl, rfl, rfl, rfl, rfl, rfl, rfl, rfl, rfl, rfl, rfl, ?_, rfl⟩
        intro a ha
        exact Memory.get_write_outside _ (by rw [padTo_length]; omega)

theorem backInvalidate_logOnly (d : DirLine) (w : List (Nat × Bytes)) (s : State) : LogOnly s (backInvalidate d w s) := by
  unfold backInvalidate
  split <;> constructor <;> first | rfl | exact fun _ _ => rfl

theorem rawWrite_logOnly {a : Nat} {b : Bytes} {s : State} (hb : b.length = 64) (h : errRingBase s ≤ a)
    (h' : a + 64 ≤ errRingBase s + 64 * 2 ^ errElog2 s) : LogOnly s (clearPoison a b.length (rawWriteDev a b s)) := by
  unfold clearPoison
  split <;>
  · refine ⟨rfl, rfl, rfl, rfl, rfl, rfl, rfl, rfl, rfl, rfl, rfl, rfl, rfl, rfl, rfl, rfl, rfl, rfl, rfl, rfl, rfl, rfl, ?_, rfl⟩
    intro x hx
    exact Memory.get_write_outside _ (by rw [hb]; omega)

theorem writeDevLine_logOnly {k : Nat} {b : Bytes} {s : State} (hb : b.length = 64) (h : errRingBase s ≤ k * 64)
    (h' : k * 64 + 64 ≤ errRingBase s + 64 * 2 ^ errElog2 s) : LogOnly s (writeDevLine (k * 64) b s) := by
  have e := evictNear_logOnly h h'
  have r : (evictNear k none s).regs.errBase = s.regs.errBase := by rw [← e.regs]
  have h1 : errRingBase (evictNear k none s) = errRingBase s := by simp only [errRingBase, r]
  have h2 : errElog2 (evictNear k none s) = errElog2 s := by simp only [errElog2, r]
  unfold writeDevLine
  simp only [show k * 64 / 64 = k by omega]
  split
  · exact e.trans (backInvalidate_logOnly _ _ _)
  · exact e.trans (rawWrite_logOnly hb (by rw [h1]; exact h) (by rw [h1, h2]; exact h'))

theorem placeRecord_logOnly (n : BitVec 32) {rec : Bytes} (h : rec.length = 64) (s : State) :
    LogOnly s (placeRecord n rec s) := by
  unfold placeRecord
  simp only
  split
  · split <;> constructor <;> first | rfl | exact fun _ _ => rfl
  · split
    · constructor <;> first | rfl | exact fun _ _ => rfl
    · have hm := Nat.mod_lt n.toNat (Nat.two_pow_pos (errElog2 s))
      have hk : errRingBase s + n.toNat % 2 ^ errElog2 s * 64 = (errRingBase s / 64 + n.toNat % 2 ^ errElog2 s) * 64 := by
        simp only [errRingBase]; omega
      rw [hk]
      exact writeDevLine_logOnly h (by simp only [errRingBase] at *; omega) (by simp only [errRingBase] at *; omega)

theorem numberRecord_logOnly {b : BitVec 32 → Bytes} (hb : ∀ n, (b n).length = 60) (s : State) :
    LogOnly s (numberRecord b s) := by
  have h : LogOnly s { s with rep := { s.rep with prod := s.rep.prod + 1 } } := by
    constructor <;> first | rfl | exact fun _ _ => rfl
  exact h.trans (placeRecord_logOnly _ (by simp [hb]) _)

theorem numberAll_logOnly (l : List Bytes) (s : State) :
    LogOnly s (l.foldl (fun s c => numberRecord (fun _ => padTo 60 c) s) s) := by
  induction l generalizing s with
  | nil => exact .refl s
  | cons c t ih => exact (numberRecord_logOnly (fun _ => padTo_length 60 c) s).trans (ih _)

theorem countSev_logOnly (sev : Nat) (s : State) : LogOnly s (countSev sev s) := by
  unfold countSev
  constructor <;> first | rfl | exact fun _ _ => rfl | (dsimp only; split <;> first | rfl | (split <;> rfl))

theorem quietSet_logOnly (d : Nat) (t : Option Word) (s : State) : LogOnly s (match t with
    | some t => { s with rep := { s.rep with quiet := smapSet s.rep.quiet d (t, 0) } }
    | none => s) := by
  cases t
  · exact .refl s
  · constructor <;> first | rfl | exact fun _ _ => rfl

theorem sevEvent_logOnly (e : ErrRec) (s : State) :
    LogOnly s (if e.sev = 0 then countSev e.sev s else raiseEvent 1 (countSev e.sev s)) := by
  split
  · exact countSev_logOnly _ _
  · exact (countSev_logOnly _ _).trans (raiseEvent_logOnly 1 _)

theorem logErr_emit_logOnly (e : ErrRec) (held : BitVec 32) (s : State) : LogOnly s (logErr.emit e held s) :=
  (((quietSet_logOnly e.det _ s).trans (numberRecord_logOnly (fun _ => e.body_length _ _ _) _)).trans (numberAll_logOnly e.conts _)).trans
    (sevEvent_logOnly e _)

/-- An error record changes only what `LogOnly` names. -/
theorem logErr_logOnly (e : ErrRec) (s : State) : LogOnly s (logErr e s) := by
  have h : LogOnly s { s with rep := { s.rep with fired := s.rep.fired ||| (1#256 <<< e.det) } } := by constructor <;> first | rfl | exact fun _ _ => rfl
  unfold logErr
  simp only
  split
  · split
    · constructor <;> first | rfl | exact fun _ _ => rfl
    · exact h.trans (logErr_emit_logOnly e _ _)
  · exact h.trans (logErr_emit_logOnly e _ _)

@[simp] theorem logErr_fuses (e : ErrRec) (s : State) : (logErr e s).fuses = s.fuses := (logErr_logOnly e s).fuses
@[simp] theorem logErr_boot (e : ErrRec) (s : State) : (logErr e s).boot = s.boot := (logErr_logOnly e s).boot
@[simp] theorem logErr_tab (e : ErrRec) (s : State) : (logErr e s).tab = s.tab := (logErr_logOnly e s).tab
@[simp] theorem logErr_hold (e : ErrRec) (s : State) : (logErr e s).hold = s.hold := (logErr_logOnly e s).hold
@[simp] theorem logErr_grad (e : ErrRec) (s : State) : (logErr e s).grad = s.grad := (logErr_logOnly e s).grad
@[simp] theorem logErr_berm (e : ErrRec) (s : State) : (logErr e s).berm = s.berm := (logErr_logOnly e s).berm
@[simp] theorem logErr_strm (e : ErrRec) (s : State) : (logErr e s).strm = s.strm := (logErr_logOnly e s).strm
@[simp] theorem logErr_xl (e : ErrRec) (s : State) : (logErr e s).xl = s.xl := (logErr_logOnly e s).xl
@[simp] theorem logErr_gov (e : ErrRec) (s : State) : (logErr e s).gov = s.gov := (logErr_logOnly e s).gov
@[simp] theorem logErr_links (e : ErrRec) (s : State) : (logErr e s).host.links = s.host.links := by rw [← (logErr_logOnly e s).host]
@[simp] theorem logErr_dir (e : ErrRec) (s : State) : (logErr e s).host.dir = s.host.dir := by rw [← (logErr_logOnly e s).host]
@[simp] theorem logErr_fab (e : ErrRec) (s : State) : (logErr e s).fab = s.fab := (logErr_logOnly e s).fab
@[simp] theorem logErr_clk (e : ErrRec) (s : State) : (logErr e s).clk = s.clk := (logErr_logOnly e s).clk
@[simp] theorem logErr_time (e : ErrRec) (s : State) : (logErr e s).time = s.time := (logErr_logOnly e s).time
@[simp] theorem logErr_gauge (e : ErrRec) (s : State) : (logErr e s).gauge = s.gauge := (logErr_logOnly e s).gauge
@[simp] theorem logErr_draws (e : ErrRec) (s : State) : (logErr e s).draws = s.draws := (logErr_logOnly e s).draws
@[simp] theorem logErr_pending (e : ErrRec) (s : State) : (logErr e s).pending = s.pending := (logErr_logOnly e s).pending
@[simp] theorem logErr_tasks (e : ErrRec) (s : State) : (logErr e s).cmd.tasks = s.cmd.tasks := (logErr_logOnly e s).tasks
@[simp] theorem logErr_rings (e : ErrRec) (s : State) : (logErr e s).cmd.rings = s.cmd.rings := (logErr_logOnly e s).rings
@[simp] theorem logErr_nextTask (e : ErrRec) (s : State) : (logErr e s).cmd.nextTask = s.cmd.nextTask := (logErr_logOnly e s).nextTask
@[simp] theorem logErr_inj (e : ErrRec) (s : State) : (logErr e s).rep.inj = s.rep.inj := by rw [← (logErr_logOnly e s).repair]
@[simp] theorem logErr_failed (e : ErrRec) (s : State) : (logErr e s).rep.failed = s.rep.failed := by rw [← (logErr_logOnly e s).repair]
@[simp] theorem logErr_soft (e : ErrRec) (s : State) : (logErr e s).rep.soft = s.rep.soft := by rw [← (logErr_logOnly e s).repair]
@[simp] theorem logErr_polderMap (e : ErrRec) (s : State) : (logErr e s).rep.polderMap = s.rep.polderMap := by rw [← (logErr_logOnly e s).repair]
@[simp] theorem logErr_laneOut (e : ErrRec) (s : State) : (logErr e s).rep.laneOut = s.rep.laneOut := by rw [← (logErr_logOnly e s).repair]
@[simp] theorem logErr_laneTest (e : ErrRec) (s : State) : (logErr e s).rep.laneTest = s.rep.laneTest := by rw [← (logErr_logOnly e s).repair]
@[simp] theorem logErr_csramTest (e : ErrRec) (s : State) : (logErr e s).rep.csramTest = s.rep.csramTest := by rw [← (logErr_logOnly e s).repair]
@[simp] theorem logErr_busy (e : ErrRec) (s : State) : (logErr e s).rep.busy = s.rep.busy := by rw [← (logErr_logOnly e s).repair]
@[simp] theorem logErr_mem_host (e : ErrRec) (s : State) : (logErr e s).mem.host = s.mem.host := by rw [← (logErr_logOnly e s).memory]
@[simp] theorem logErr_mem_scratch (e : ErrRec) (s : State) : (logErr e s).mem.scratch = s.mem.scratch := by rw [← (logErr_logOnly e s).memory]
@[simp] theorem logErr_mem_undef (e : ErrRec) (s : State) : (logErr e s).mem.undef = s.mem.undef := by rw [← (logErr_logOnly e s).memory]

end Sys2Proof.Machine
end

