-- ==== Sys2Proof/Laws/LogInv.lean ====
section
/-! SUPPORT. An error record keeps the invariant, so a command whose effect is a record leaves it as it is. -/

namespace Sys2Proof.Machine


theorem msixOn_tidy (l : Option Nat) (v : Nat) {s : State} (h : s.regs.tidy = s.regs) :
    (msixOn l v s).regs.tidy = (msixOn l v s).regs := by
  have key : ∀ x, ({ s.regs with msixPend := x } : Regs).tidy = { s.regs.tidy with msixPend := x } := fun _ => rfl
  unfold msixOn
  split
  · exact (key _).trans (by rw [h])
  · split <;> exact h

theorem raiseEvent_tidy {e : Nat} (he : e < 4) {s : State} (h : s.regs.tidy = s.regs) :
    (raiseEvent e s).regs.tidy = (raiseEvent e s).regs := by
  have h1 : ({ s.regs with irqPend := s.regs.irqPend ||| (1#64 <<< e) } : Regs).tidy =
      { s.regs with irqPend := s.regs.irqPend ||| (1#64 <<< e) } := by
    have hm : s.regs.irqPend &&& 0xF = s.regs.irqPend := congrArg Regs.irqPend h
    have hx : (s.regs.irqPend ||| (1#64 <<< e)) &&& 0xF = s.regs.irqPend ||| (1#64 <<< e) := by
      have hb : (1#64 <<< e) &&& 0xF = 1#64 <<< e := by
        have : e = 0 ∨ e = 1 ∨ e = 2 ∨ e = 3 := by omega
        rcases this with rfl | rfl | rfl | rfl <;> decide
      rw [BitVec.and_comm, BitVec.and_or_distrib_left, BitVec.and_comm _ s.regs.irqPend, hm, BitVec.and_comm, hb]
    calc ({ s.regs with irqPend := s.regs.irqPend ||| (1#64 <<< e) } : Regs).tidy
        = { s.regs.tidy with irqPend := (s.regs.irqPend ||| (1#64 <<< e)) &&& 0xF } := rfl
      _ = _ := by rw [h, hx]
  simp only [raiseEvent]
  split
  · exact h1
  · exact msixOn_tidy _ _ h1

theorem evictNear_regs (k : Nat) (s : State) : (evictNear k none s).regs = s.regs := by
  unfold evictNear
  split
  · rfl
  · simp only
    split
    · rfl
    · unfold clearPoison
      split <;> rfl

theorem writeDevLine_regs (a : Nat) (b : Bytes) (s : State) : (writeDevLine a b s).regs = s.regs := by
  unfold writeDevLine
  simp only
  split
  · refine Eq.trans ?_ (evictNear_regs (a / 64) s)
    unfold backInvalidate
    split <;> rfl
  · refine Eq.trans ?_ (evictNear_regs (a / 64) s)
    unfold clearPoison
    split <;> rfl

theorem placeRecord_regs (n : BitVec 32) (rec : Bytes) (s : State) : (placeRecord n rec s).regs = s.regs := by
  unfold placeRecord
  simp only
  split
  · split <;> rfl
  · split
    · rfl
    · exact writeDevLine_regs _ _ _

theorem numberRecord_regs (b : BitVec 32 → Bytes) (s : State) : (numberRecord b s).regs = s.regs := placeRecord_regs _ _ _

theorem numberAll_regs (l : List Bytes) (s : State) :
    (l.foldl (fun s c => numberRecord (fun _ => padTo 60 c) s) s).regs = s.regs := by
  induction l generalizing s with
  | nil => rfl
  | cons c t ih => exact (ih _).trans (numberRecord_regs _ _)

theorem logErr_emit_tidy (e : ErrRec) (held : BitVec 32) {s : State} (h : s.regs.tidy = s.regs) :
    (logErr.emit e held s).regs.tidy = (logErr.emit e held s).regs := by
  have h1 : ∀ (u : State), u.regs = s.regs →
      (if e.sev = 0 then countSev e.sev u else raiseEvent 1 (countSev e.sev u)).regs.tidy =
      (if e.sev = 0 then countSev e.sev u else raiseEvent 1 (countSev e.sev u)).regs := by
    intro u hu
    have h2 : (countSev e.sev u).regs.tidy = (countSev e.sev u).regs := by
      show u.regs.tidy = u.regs
      rw [hu]; exact h
    split
    · exact h2
    · exact raiseEvent_tidy (by decide) h2
  refine h1 _ ?_
  refine (numberAll_regs e.conts _).trans ((numberRecord_regs _ _).trans ?_)
  split <;> rfl

/-- An error record keeps the invariant. -/
theorem logErr_inv (e : ErrRec) {s : State} (h : s.Inv) : (logErr e s).Inv := by
  refine ⟨?_, ?_⟩
  · unfold logErr
    simp only
    split
    · split
      · exact h.1
      · exact logErr_emit_tidy _ _ h.1
    · exact logErr_emit_tidy _ _ h.1
  · simpa using h.2

end Sys2Proof.Machine
end

