-- ==== Sys2Proof/WellFormed.lean ====
section
/-! DEFINITION. Which commands can arise: operands within the ranges the spec gives their fields. A command outside them is
no error of the machine's: it names a ring, link or unit that the engine does not have, and has no effect. -/

namespace Sys2Proof

/-- A ring number of a submission queue (R26). -/
def ringOk (n : Nat) : Bool := decide (n < 16384)

/-- A polder or logical unit number below `k`. -/
def below (k n : Nat) : Bool := decide (n < k)

/-- A payload within the limit of R403. -/
def payloadOk (b : Bytes) : Bool := decide (b.length ≤ 65536)

/-- The sizes of a register access (R499). -/
def sizeOk (n : Nat) : Bool := n == 1 || n == 2 || n == 4 || n == 8

/-- Whether a command's operands lie in the ranges of their fields. -/
def Instr.wf : Instr → Bool
  | .nop r _ | .hello r _ | .query r _ | .fence r _ | .ringConfig r _ | .tableDefine r _ | .tableCommit r _
  | .tableRetire r _ | .shardMapSet r _ | .tableSnapshot r _ | .shardMigrate r _ | .lookupPool r _ | .lookupGather r _
  | .slabGather r _ | .lookahead r _ | .lookupCancel r _ | .gradScatter r _ | .gradFlush r _ | .updateApply r _
  | .updateProgramLoad r _ | .atomicAdd r _ | .streamArm r _ | .streamRearm r _ | .streamCancel r _ | .semSet r _
  | .semSignal r _ | .semWait r _ | .culvertWrite r _ | .relayChainSet r _ | .xlatePrefetch r _ | .memAdvise r _
  | .memMigrate r _ | .faultResolve r _ | .ptInvalidate r _ | .placementRegionSet r _ | .bermConfig r _ | .bermPin r _
  | .bermFlush r _ | .govPolicy r _ | .timeCtl r _ | .gaugeRead r _ | .configStage r _ | .configCommit r _
  | .diagInject r _ | .repairCtl r _ | .selftest r _ => ringOk r
  | .doorbellWrite r k _ => ringOk r && sizeOk k
  | .completionWrite _ => true
  | .ringDrainEnd r => ringOk r
  | .configCommitPoint => true
  | .sluicePointerMismatch k => below 8 k
  | .windowAdmit _ => true
  | .indexListReceive _ b | .partialSumReceive _ b | .cancelReceive _ b | .taskAckReceive _ b | .gradBucketReceive _ b
  | .updateRowReceive _ b | .atomicGroupReceive _ b | .atomicDoneReceive _ b | .migrateDataReceive _ b
  | .commandForwardReceive _ b | .remoteWriteReceive _ b | .relayChunkReceive _ b | .relayHopSetReceive _ b
  | .semOpReceive _ b | .faultRecordReceive _ b | .faultNoticeReceive _ b | .xlateDropReceive _ b | .ackReceive _ b
  | .nackReceive _ b | .peerDownReceive _ b | .creditReqReceive _ b | .creditGrantReceive _ b | .timeAnnounceReceive _ b
  | .timeSyncReceive _ b | .timeDelayReqReceive _ b | .timeDelayRespReceive _ b => payloadOk b
  | .bermFillComplete _ => true
  | .bucketExpand => true
  | .cucRowUpdate _ _ _ => true
  | .tableCommitPoint t => decide (t < 2 ^ 24)
  | .versionFree t _ => decide (t < 2 ^ 24)
  | .bermConfigApply | .bermAgeing | .bermMacroTest => true
  | .bermMacroTestEnd _ => true
  | .streamTileWrite n | .streamTileLanded n => below 4096 n
  | .watchdogFire => true
  | .walkComplete _ | .walkMigRetry _ => true
  | .faultBatchClose | .faultBatchWrite => true
  | .xlateReq _ => true
  | .siteOffline u => below 5 u
  | .hbmRowCeReport k pc bank row => below 2 k && below 64 pc && below 64 bank && decide (row < 2 ^ 20)
  | .govUpdate _ _ => true
  | .mr4Read _ => true
  | .hbmPprCountSpares _ | .hbmPprRepair _ => true
  | .hbmPprDone r k => below 4 r && below 256 k
  | .hbmOnlineWrite _ => true
  | .hostLinkUp l w r => below 4 l && below 16 w && below 16 r
  | .hostLinkLost l => below 4 l
  | .hostWindowAccess l o n b => below 4 l && decide (o % 64 + (match b with | some d => d.length | none => n) ≤ 64)
  | .apertureWrite _ _ | .apertureRead _ _ => true
  | .placeFenceRead => true
  | .hostSnoop l _ => below 4 l
  | .birspiReceive l _ _ => below 4 l
  | .nearRetry _ _ => true
  | .probePeriod => true
  | .probeReceive p _ | .probeReplyReceive p _ => below 128 p
  | .portLinkDown p => below 128 p
  | .ackSend _ => true
  | .messageResend _ => true
  | .d2dDieLost k => below 16 k
  | .creditLapse _ _ _ => true
  | .msgIdExpire _ => true
  | .fabRevive _ => true
  | .xtalSettleEnd => true
  | .clockWindowEnd k _ => decide (k < 2 ^ 32)
  | .xtalEdgeLoss | .pllLock | .pllLockLoss | .pllLockTimeout | .clockRampStep | .rcoDirectRetry => true
  | .clkTest _ => true
  | .timeAnnouncePeriod => true
  | .announceExpire _ => true
  | .timeSyncPeriod | .holdoverEnter | .holdoverExpire | .ppsRise | .ppsFall => true
  | .gaugeInterval _ _ _ _ | .gaugeMdieReport _ => true
  | .gaugeSupervisionWindow _ => true
  | .gaugePowerUp _ => true
  | .gaugeSign => true
  | .metrologyRead _ _ | .metrologyInject _ => true
  | .metrologyCalWrite w _ => below 64 w
  | .sealBlow => true
  | .laneTest p => below 8 p
  | .csramMacroTest p => below 9 p
  | .cpHeartbeatTimeout | .injectionArmTime => true
  | .injCtlWrite _ => true
  | .railFault _ => true
  | .coldReset | .coldResetRelease => true
  | .bootSelftest _ => true
  | .engReset | .fwLoad | .svnCommit | .cfgCommit => true
  | .rctBaseWrite _ => true
  | .ring0Enable | .ring0Disable => true
  | .stageWrite o _ => decide (o < 2 ^ 16)
  | .stageDiscard => true
  | .irqMaskWrite _ => true
  | .registerWrite o k _ => decide (o < 2 ^ 24) && sizeOk k
  | .memoryTrained a b => below 256 a && decide (b < 2 ^ 16)
  | .metrologySessionOpen _ => true
  | .laneTestEnd p _ => below 8 p
  | .csramMacroTestEnd p _ => below 9 p
  | .repairApplyPoint => true
  | .selftestRun _ => true
  | .misalignedRegisterRead o k => decide (o < 2 ^ 24) && sizeOk k

end Sys2Proof
end

