-- ==== Sys2Proof/Tests/Slice0.lean ====
section
/-! SUPPORT. The model's own tests: each statement's hypotheses met by concrete states and operands (hyp_<statement>: one list
item for each clause, at the ends of its ranges), ill-formed commands refused, and a few small checks. The states are small
ones built from State.reset. -/

namespace Sys2Proof.Tests
open Sys2Proof Sys2Proof.Machine

-- One theorem after another: their kernel evaluations wait for each other otherwise, a thread apiece.
set_option Elab.async false

/-! ### Helpers -/

/-- The invariant, computed. -/
def invB (s : State) : Bool := decide (s.regs.tidy = s.regs) && s.cmd.tasks.all (fun t => decide (t.id < s.cmd.nextTask))

theorem inv_of {s : State} (h : invB s = true) : s.Inv := by
  simp only [invB, Bool.and_eq_true, decide_eq_true_eq, List.all_eq_true] at h
  exact h

/-- The state that a command leaves. -/
def after (c : Instr) (s : State) : State := match exec c s with | .next t => t | _ => s

/-- An engine in phase 0x5 with its memory online and its four host links up. -/
def sUp : State :=
  let s := State.reset
  { s with
    boot := { s.boot with phase := 5, image := [0x13], digest := sha256 [0x13] }
    regs := { s.regs with rctBase := 0x100000, fabCtl := 0x1000A0003 }
    mem := { s.mem with hbmTrained := true, hbmOnline := 3, hbmRate := 8, lpRate := 100, lpOnline := 3 }
    host := { s.host with links := s.host.links.map (fun _ => ⟨true, false, 4, 6⟩) } }

/-- A packet of an opcode with parameter fields (offset, bytes, value), its CRC in place. -/
def mk (op : Byte) (fs : List (Nat × Nat × Nat)) (flags : BitVec 16 := 0) : Packet :=
  let p : Packet := ⟨0x20, flags, 7, BitVec.ofNat 416 ((fs.map (fun f => f.2.2 * 2 ^ (8 * (f.1 - 8)))).sum), 0⟩
  { p with crc := crc32c (packetBody op p) }

/-- With a ring enabled and one packet waiting in it. -/
def withRing (n : Nat) (s : State) : State :=
  ringSet n { Ring.blank with depthLog2 := 6, proto := 0x20, st := .enabled, sqTail := 1, cls := if n = 0 then 3 else 0 } s

def sR0 : State := withRing 0 sUp
def sR1 : State := withRing 1 sUp

/-- Acceptance, computed. -/
def readsB (op n : Nat) (p : Packet) (s : State) : Bool :=
  mayAccept s (BitVec.ofNat 8 op) n && decide (rctOk n s = (true, false, s)) && decide (slotPoison n s = (false, s)) &&
  decide (s.rep.inj = none) &&
  packetCrcOk (BitVec.ofNat 8 op) p

theorem reads_of {op n : Nat} {p : Packet} {s : State} (h : readsB op n p s = true) : Reads (BitVec.ofNat 8 op) n p s := by
  simp only [readsB, Bool.and_eq_true, decide_eq_true_eq] at h
  exact ⟨h.1.1.1.1, h.1.1.1.2, h.1.1.2, h.1.2, h.2⟩

def acceptsB (op n : Nat) (p : Packet) (s : State) : Bool :=
  readsB op n p s &&
  decide (headChecks (BitVec.ofNat 8 op) n (ringGet s n).proto ((ringGet s n).sqHead.toNat % ringDepth (ringGet s n)) true p = none) &&
  decide (step4Fail (BitVec.ofNat 8 op) (ringGet s n).proto p (packetStep4 op (ringGet s n).proto p) = none)

theorem accepts_of {op n : Nat} {p : Packet} {s : State} (h : acceptsB op n p s = true) :
    Accepts (BitVec.ofNat 8 op) (packetStep4 op) n p s := by
  simp only [acceptsB, Bool.and_eq_true, decide_eq_true_eq] at h
  exact ⟨reads_of h.1.1, h.1.2, h.2⟩

/-- What the checks of a packet answer. -/
def checked (op n : Nat) (p : Packet) (s : State) : Except Stop Unit × State :=
  match packetCheck op, packetWhole op with
  | some c, _ => (c (packetTask (BitVec.ofNat 8 op) n p s)).go (some s.cmd.nextTask) (atChecks op n p s)
  | _, some w => (w (packetTask (BitVec.ofNat 8 op) n p s)).go (some s.cmd.nextTask) (tookPacket (BitVec.ofNat 8 op) n p s)
  | none, none => (.error (.fail (resultOf 0 0)), s)

/-- The packet starts, and a condition holds of its task and the state its checks leave. -/
def startsB (op n : Nat) (p : Packet) (s : State) (q : State → Task → Bool) : Bool :=
  acceptsB op n p s && (packetCheck op).isSome &&
  match checked op n p s with
  | (.ok _, u) => match taskOf u s.cmd.nextTask with
    | some t => decide (t.op = BitVec.ofNat 8 op) && decide (t.early = none) && mayBegin t u && q u t
    | none => false
  | _ => false

theorem starts_of {op n : Nat} {p : Packet} {s : State} {q : State → Task → Bool} (h : startsB op n p s q = true) :
    s.Inv → ∃ u t, s.Inv ∧ Starts op n p s u t ∧ q u t = true := by
  intro hi
  simp only [startsB, Bool.and_eq_true] at h
  obtain ⟨⟨h1, h2⟩, h3⟩ := h
  cases hc : packetCheck op with
  | none => rw [hc] at h2; cases h2
  | some c =>
    simp only [checked, hc] at h3
    cases hr : (c (packetTask (BitVec.ofNat 8 op) n p s)).go (some s.cmd.nextTask) (atChecks op n p s) with
    | mk r u =>
      rw [hr] at h3
      cases r with
      | error e => cases h3
      | ok x =>
        cases ht : taskOf u s.cmd.nextTask with
        | none => simp only [ht] at h3; cases h3
        | some t =>
          simp only [ht, Bool.and_eq_true, decide_eq_true_eq] at h3
          exact ⟨u, t, hi, ⟨accepts_of h1, ⟨c, hc, hr⟩, ht, h3.1.1.1, h3.1.1.2, h3.1.2⟩, h3.2⟩

/-- The packet's one access runs, and a condition holds of what it leaves. -/
def runsB (op n : Nat) (p : Packet) (s : State) (q : State → Bool) : Bool :=
  acceptsB op n p s && (packetCheck op).isNone && (packetWhole op).isSome &&
  mayBegin (packetTask (BitVec.ofNat 8 op) n p s) (tookPacket (BitVec.ofNat 8 op) n p s) &&
  match checked op n p s with
  | (.ok _, u) => q u
  | _ => false

theorem runs_of {op n : Nat} {p : Packet} {s : State} {q : State → Bool} (h : runsB op n p s q = true) :
    s.Inv → ∃ u, s.Inv ∧ Runs op n p s u ∧ q u = true := by
  intro hi
  simp only [runsB, Bool.and_eq_true] at h
  obtain ⟨⟨⟨⟨h1, h0⟩, h2⟩, hm⟩, h3⟩ := h
  cases hc : packetWhole op with
  | none => rw [hc] at h2; cases h2
  | some w =>
    have hk : packetCheck op = none := by simpa using h0
    simp only [checked, hc, hk] at h3
    cases hr : (w (packetTask (BitVec.ofNat 8 op) n p s)).go (some s.cmd.nextTask) (tookPacket (BitVec.ofNat 8 op) n p s) with
    | mk r u =>
      rw [hr] at h3
      cases r with
      | error e => cases h3
      | ok x => exact ⟨u, hi, ⟨accepts_of h1, ⟨w, hc, hr⟩, hm⟩, h3⟩

/-- A run that answers `a`. -/
theorem answers_of {α : Type} [DecidableEq α] {x : Except Stop α × State} {a : α}
    (h : (match x.1 with | .ok y => decide (y = a) | .error _ => false) = true) : x = (.ok a, x.2) := by
  obtain ⟨r, s⟩ := x
  cases r with
  | ok y => simp only [decide_eq_true_eq] at h; rw [h]
  | error e => cases h

/-- A block of `n` bytes with values at offsets. -/
def blockOf (n : Nat) (fs : List (Nat × Nat × Nat)) : Bytes := leBytes n ((fs.map (fun f => f.2.2 * 2 ^ (8 * f.1))).sum)

/-- A table's descriptor: 1,024 rows of 4 FP32 elements, one block, two local blocks. -/
def descT : Bytes := blockOf 160 [(0, 3, 5), (8, 8, 1024), (16, 2, 4), (19, 1, 10), (40, 2, 0x8000), (44, 4, 2),
  (48, 8, 0x41000000), (56, 8, 0x42000000), (64, 8, 0x43000000)]

def tabT : Table := { newTable descT with versions := [⟨1, .current, true, none⟩] }

/-- The cells that bytes from an address on make. -/
def cells (a : Nat) (b : Bytes) : Memory := (b.zipIdx.filter (fun x => x.1 != 0)).map (fun x => (a + x.2, x.1))

/-- An index list of the rows 3, 3 and 9, a bag-offset list of 0 and 1, and the shard-map entry of block 0, whose primary is EID 0:
each with its CRCs. -/
def worldCells : Memory :=
  cells 0x40010000 [3, 0, 0, 0, 1, 0, 0, 0, 58, 135, 183, 136, 89, 0, 180, 112, 3, 0, 0, 0, 3, 0, 0, 0, 9] ++
  cells 0x40010040 [2, 0, 0, 0, 5, 0, 0, 0, 50, 24, 109, 81, 202, 97, 153, 11, 0, 0, 0, 0, 1] ++
  cells 0x43000038 [1, 0, 0, 0, 209, 109, 140, 42]

/-- The engine with a 1 GiB page in its translation cache, a table whose block 0 it holds, and lists in memory. -/
def world (s : State) : State :=
  { s with
    xl := { s.xl with tlb := [⟨0x40000000, 30, 0x40000000, .dev 0x40000000, true, false, 0⟩] }
    tab := { s.tab with tables := [(5, tabT)] }
    mem := { s.mem with dev := s.mem.dev ++ worldCells } }

def sT0 : State := world sR0
def sT1 : State := world sR1

/-- The fields of a look-up of that table with those lists. -/
def lk : List (Nat × Nat × Nat) := [(8, 3, 5), (16, 8, 0x40010000), (32, 8, 0x40010040), (40, 8, 0x40020000), (48, 4, 16)]

/-- A stream descriptor: one dimension of 4,096 bytes in tiles of 1,024. -/
def descS : Bytes := blockOf 256 [(0, 2, 1), (2, 1, 1), (4, 1, 10), (8, 8, 0x40100000), (16, 8, 0x40200000), (24, 4, 4096)]

def streamS : Stream :=
  let d : BitVec 2048 := BitVec.ofNat 2048 (leNat descS)
  { desc := d, persistent := false, full := 3, empty := 0xFFFF, src := sd d 8 8, dst := sd d 16 8, outer := outermost d, xlist := []
    srcFrames := true, dstFrames := true, disarming := none, lastStatus := 0, transfers := 0, transferSat := false, tilesDone := 0, waits := 0 }

/-- With stream 9 armed. -/
def withStream (s : State) : State := { s with strm := { s.strm with streams := [(9, streamS)] } }

/-- With a waiting task of another ring in front. -/
def withTask (op : Byte) (ph : Phase) (s : State) : State :=
  { s with cmd := { s.cmd with nextTask := 2, tasks := [{ newTask 1 1 op (mk op [(8, 2, 4), (12, 4, 9)]) 0x20 (liveCfg s) with phase := ph }] } }

/-! ### Packets -/

theorem states_keep_inv : [sUp, sR0, sR1, sT0, sT1, withStream sT1, withTask 0x45 .held sR1].all invB = true := by decide +kernel

/-- `mayAccept` false, an RCT entry whose CRC fails, a packet whose CRC fails, one that fails step 2, one that fails step 4. -/
theorem hyp_PacketsJudged :
    [!mayAccept sUp 0x00 1 && (packetCommand 0x00).isSome,
     let s := { sR1 with mem := { sR1.mem with dev := [] } }
     invB s && mayAccept s 0x00 1 && s.rep.inj.isNone && decide (rctOk 1 s = (false, false, s)),
     mayAccept sR1 0x00 1 && decide (rctOk 1 sR1 = (true, false, sR1)) && !packetCrcOk 0x00 { mk 0x00 [] with crc := 0 },
     let p : Packet := { (mk 0x03 [] : Packet) with version := 0x10 }
     let p := { p with crc := crc32c (packetBody 0x03 p) }
     readsB 0x03 1 p sR1 && (headChecks 0x03 1 0x20 0 true p).isSome,
     readsB 0x03 1 (mk 0x03 [(8, 1, 9)]) sR1 && (headChecks 0x03 1 0x20 0 true (mk 0x03 [(8, 1, 9)])).isNone &&
       (step4Fail 0x03 0x20 (mk 0x03 [(8, 1, 9)]) (packetStep4 0x03 0x20 (mk 0x03 [(8, 1, 9)]))).isSome].all id = true := by
  decide +kernel

/-- A packet whose checks leave a phase other than running: it fails, meets a page being moved, is turned away, or is held. -/
def failsB (op n : Nat) (p : Packet) (s : State) : Bool :=
  invB s && acceptsB op n p s && (match checked op n p s with | (.error (.fail _), _) => true | _ => false)

/-- With a waiting task of ring 0 in front. -/
def behind0 (s : State) : State := { withTask 0x45 (.running .semWait) s with cmd := { (withTask 0x45 (.running .semWait) s).cmd with
  tasks := (withTask 0x45 (.running .semWait) s).cmd.tasks.map (fun t => { t with ring := 0 }) } }

theorem hyp_PacketsStart :
    [startsB 0x00 1 (mk 0x00 []) sR1 (fun _ _ => true),
     runsB 0x78 0 (mk 0x78 [(8, 1, 1), (12, 4, 0x150), (16, 8, 5)]) sR0 (fun _ => true),
     failsB 0x42 1 (mk 0x42 [(8, 2, 9)]) sR1, failsB 0x33 0 (mk 0x33 [(8, 2, 1), (10, 1, 1)]) sR0,
     let s := { sR1 with xl := { sR1.xl with overflow := true } }
     let p := mk 0x44 [(8, 2, 1), (10, 2, 0xFFFF)]
     invB s && acceptsB 0x44 1 p s && (match checked 0x44 1 p s with | (.ok _, u) => u.xl.overflow && !overflowExempt 0x44 | _ => false),
     let s := withTask 0x45 (.running .semWait) sR1
     let p := mk 0x44 [(8, 2, 1), (10, 2, 0xFFFF)] 1
     acceptsB 0x44 1 p s && (match checked 0x44 1 p s with
       | (.ok _, u) => (taskOf u 2).any (fun t => pOrdered t.pkt && earlierTask u t)
       | _ => false),
     let s := behind0 sR0
     [(0x08, mk 0x08 [(8, 2, 1), (10, 1, 3)] 1), (0x70, mk 0x70 [(8, 1, 70), (9, 1, 69), (12, 2, 81)] 1), (0x71, mk 0x71 [(8, 1, 3), (16, 8, 255)] 1),
      (0x7C, mk 0x7C [(8, 1, 4), (9, 1, 0), (10, 2, 3)] 1)].all (fun x => invB s && acceptsB x.1 0 x.2 s && (packetWhole x.1).isSome &&
        (checked x.1 0 x.2 s).1.toOption.isSome && pOrdered x.2 && earlierTask (tookPacket (BitVec.ofNat 8 x.1) 0 x.2 s) (packetTask (BitVec.ofNat 8 x.1) 0 x.2 s)),
     let p := mk 0x60 [(8, 1, sR0.berm.size), (9, 1, sR0.berm.share), (12, 4, 9)] 1
     acceptsB 0x60 0 p (behind0 sR0) && (match checked 0x60 0 p (behind0 sR0) with
       | (.ok _, u) => (taskOf u 2).any (fun t => t.early.isSome || u.berm.size == pf p 8 1)
       | _ => false)].all id = true := by
  decide +kernel

/-- A page whose leaf has MIG set, met by a SELFTEST's destination. -/
def sMig : State :=
  let s := { sR0 with regs := { sR0.regs with ptRoot := 0x5001 } }
  let s := rawWriteDev 0x5000 (leBytes 8 (sealPte (setBits 0x0#64 0 16 0x6001)).toNat) s
  let s := rawWriteDev 0x6000 (leBytes 8 (sealPte (setBits 0x0#64 0 16 0x7001)).toNat) s
  let s := rawWriteDev 0x7000 (leBytes 8 (sealPte (setBits 0x0#64 0 16 0x8001)).toNat) s
  rawWriteDev 0x8000 (leBytes 8 (sealPte 0x10047#64).toNat) s

theorem hyp_PacketsStart_moving :
    invB sMig && acceptsB 0x7E 0 (mk 0x7E [(8, 1, 1), (12, 8, 0)]) sMig && sMig.xl.walks.isEmpty &&
    (match checked 0x7E 0 (mk 0x7E [(8, 1, 1), (12, 8, 0)]) sMig with | (.error (.mig _ _), _) => true | _ => false) = true := by
  decide +kernel

/-- NOP; HELLO with and without a version; FENCE alone and behind a task; semaphores set, signalled three ways, waited for both ways;
the staged set; the commit's two actions; DIAG_INJECT; REPAIR_CTL's blow, levels 2 and 4; SELFTEST. -/
theorem hyp_ControlPacketsAct :
    let fit := { sR0 with rep := { sR0.rep with soft := [⟨4, 8, 0⟩], polderMap := sR0.rep.polderMap } }
    [startsB 0x00 1 (mk 0x00 []) sR1 (fun _ _ => true),
     let p := mk 0x01 [(8, 1, 1), (9, 1, 0x20)]
     acceptsB 0x01 1 p sR1 && decide (chosen p = some 0x20) && pf p 24 8 == 0 && mayBegin (packetTask 0x01 1 p sR1) (tookPacket 0x01 1 p sR1),
     let p := mk 0x01 [(8, 1, 1), (9, 1, 0x30)]
     acceptsB 0x01 1 p sR1 && (chosen p).isNone,
     startsB 0x03 1 (mk 0x03 []) sR1 (fun u t => fenceScope t u == []),
     startsB 0x03 1 (mk 0x03 []) (withTask 0x45 (.running .semWait) sR1) (fun u t => fenceScope t u != []),
     startsB 0x43 1 (mk 0x43 [(8, 2, 5), (12, 4, 77)]) sR1 (fun u t => u.cmd.tasks.all (fun x => !isSemWait (pf t.pkt 8 2) x)),
     startsB 0x44 1 (mk 0x44 [(8, 2, 5), (10, 2, 0xFFFF), (12, 4, 3)]) sR1
       (fun u t => semOwner u t.pkt == (ownEid u).toNat && !isLost u (semOwner u t.pkt)),
     startsB 0x44 1 (mk 0x44 [(8, 2, 5), (10, 2, 3), (12, 4, 3)]) sR1
       (fun u t => semOwner u t.pkt != (ownEid u).toNat && !isLost u (semOwner u t.pkt)),
     startsB 0x44 1 (mk 0x44 [(8, 2, 5), (10, 2, 3), (12, 4, 3)]) { sR1 with fab := { sR1.fab with lost := [3] } }
       (fun u t => isLost u (semOwner u t.pkt)),
     startsB 0x45 1 (mk 0x45 [(8, 2, 5)]) sR1 (fun u t => semHolds t.pkt (semGet u (pf t.pkt 8 2))),
     startsB 0x45 1 (mk 0x45 [(8, 2, 5), (12, 4, 9)]) sR1 (fun u t => !semHolds t.pkt (semGet u (pf t.pkt 8 2))),
     let p := mk 0x78 [(8, 1, 1), (12, 4, 0x150), (16, 8, 5)]
     acceptsB 0x78 0 p sR0 && stageFits sR0.cmd.staged (stageEntries p) && mayBegin (packetTask 0x78 0 p sR0) (tookPacket 0x78 0 p sR0),
     startsB 0x79 0 (mk 0x79 [(10, 1, 1)]) sR0 (fun _ t => pf t.pkt 10 1 == 1),
     startsB 0x79 0 (mk 0x79 []) sR0 (fun _ t => pf t.pkt 10 1 == 0),
     let p := mk 0x7C [(8, 1, 4), (9, 1, 0), (10, 2, 3)]
     acceptsB 0x7C 0 p sR0 && mayBegin (packetTask 0x7C 0 p sR0) (tookPacket 0x7C 0 p sR0) && !(gaugeDetector (pf p 8 1) && sR0.fuses.sealed),
     let s := { sR0 with fuses := { sR0.fuses with sealed := true } }
     let p := mk 0x7C [(8, 1, 0x1C), (9, 1, 0), (10, 2, 0)]
     acceptsB 0x7C 0 p s && mayBegin (packetTask 0x7C 0 p s) (tookPacket 0x7C 0 p s) && gaugeDetector (pf p 8 1),
     startsB 0x7D 0 (mk 0x7D [(8, 1, 4), (9, 1, 2), (10, 2, 8)]) fit (fun u t => decide (u.rep.soft = [⟨4, 8, 0⟩]) && namesRepair t.pkt ⟨4, 8, 0⟩),
     startsB 0x7D 0 (mk 0x7D [(8, 1, 4), (9, 1, 1), (10, 2, 8)]) fit (fun _ t => decide (pf t.pkt 9 1 < 2) && decide (2 < pf t.pkt 8 1)),
     startsB 0x7D 0 (mk 0x7D [(8, 1, 2), (9, 1, 1), (10, 2, 0x400)]) { sR0 with rep := { sR0.rep with soft := [⟨2, 0x400, 0⟩] } }
       (fun _ t => decide (pf t.pkt 9 1 < 2) && decide (pf t.pkt 8 1 ≤ 2)),
     startsB 0x7E 0 (mk 0x7E [(8, 1, 1), (12, 8, 0x40020000)]) sT0 (fun _ _ => true)].all id = true := by
  decide +kernel

theorem hyp_ControlPacketsAct_rings :
    [let p := mk 0x08 [(8, 2, 16383), (11, 1, 16), (12, 8, 0x40000000), (20, 8, 0x40000000), (36, 1, 2), (37, 1, 7), (38, 1, 0x20), (40, 2, 2047)]
     acceptsB 0x08 0 p sR0 && mayBegin (packetTask 0x08 0 p sR0) (tookPacket 0x08 0 p sR0) && pf p 10 1 == 0 &&
       decide ((ringGet (tookPacket 0x08 0 p sR0) (rcRing p)).st = .disabled) &&
       decide (pf p 12 8 + 64 * ringDepth (createdRing p) ≤ 2 ^ 52 ∧ pf p 20 8 + 32 * ringDepth (createdRing p) ≤ 2 ^ 52),
     let p := mk 0x08 [(8, 2, 1), (10, 1, 3)]
     acceptsB 0x08 0 p sR0 && mayBegin (packetTask 0x08 0 p sR0) (tookPacket 0x08 0 p sR0) && pf p 10 1 == 3 &&
       decide ((ringGet (tookPacket 0x08 0 p sR0) (rcRing p)).st = .disabled),
     startsB 0x60 0 (mk 0x60 [(8, 1, sR0.berm.size), (9, 1, sR0.berm.share), (12, 4, 9)]) sR0
       (fun u t => pf t.pkt 8 1 == u.berm.size && pf t.pkt 9 1 == u.berm.share),
     startsB 0x60 0 (mk 0x60 [(8, 1, 16), (9, 1, 4), (12, 4, 9)]) sR0
       (fun u t => pf t.pkt 8 1 != u.berm.size || pf t.pkt 9 1 != u.berm.share)].all id = true := by
  decide +kernel

/-- A full set takes no new entry. -/
theorem hyp_ControlPacketsAct_full :
    (let s := { sR0 with cmd := { sR0.cmd with staged := List.replicate 256 (0x2000, 0) } }
     let p := mk 0x78 [(8, 1, 1), (12, 4, 0x150), (16, 8, 5)]
     acceptsB 0x78 0 p s && !stageFits s.cmd.staged (stageEntries p)) = true := by
  decide +kernel

/-- The engine with the migration pools enabled. -/
def sPool : State := { sT0 with regs := { sT0.regs with migPools := 1 } }

theorem hyp_PolicyPacketsAct :
    let far := { sR0 with time := { sR0.time with parent := some 3 } }
    let begins := fun (op : Nat) (p : Packet) (s : State) =>
      invB s && acceptsB op 0 p s && mayBegin (packetTask (BitVec.ofNat 8 op) 0 p s) (tookPacket (BitVec.ofNat 8 op) 0 p s)
    [begins 0x70 (mk 0x70 [(8, 1, 70), (9, 1, 69), (12, 2, 81)]) sR0 && decide (bitsNat sR0.regs.govGain 32 16 < ceilOf 81),
     begins 0x71 (mk 0x71 [(8, 1, 1), (16, 8, 5)]) sR0 && sR0.time.parent.isNone, begins 0x71 (mk 0x71 [(8, 1, 2), (16, 8, 0xFFFFFF)]) sR0,
     begins 0x71 (mk 0x71 [(8, 1, 1), (16, 8, 5)]) far && far.time.parent.isSome, begins 0x71 (mk 0x71 [(8, 1, 2), (16, 8, 5)]) far,
     begins 0x71 (mk 0x71 [(8, 1, 3), (16, 8, 255)]) sR0, begins 0x71 (mk 0x71 [(8, 1, 4), (16, 8, 1)]) sR0,
     startsB 0x72 0 (mk 0x72 [(8, 1, 0), (16, 8, 0x40020000)]) sT0 (fun _ _ => true),
     startsB 0x62 0 (mk 0x62 [(8, 3, 0xFFFFFF)]) sR0 (fun u t => u.hold.fetches.isEmpty && u.berm.sets.isEmpty && pf t.pkt 12 1 == 0 && pTid t.pkt == 0xFFFFFF),
     startsB 0x51 0 (mk 0x51 [(8, 8, 0), (16, 8, 65536), (24, 1, 1), (25, 1, 2)]) sR0 (fun _ _ => true),
     let s := { sR0 with host := { sR0.host with regions := [(4095, ⟨0, 0, 65536, []⟩)] } }
     let p := mk 0x55 [(8, 2, 4095), (10, 1, 1)]
     begins 0x55 p s && pf p 10 1 == 1 && (smapGet s.host.regions (pf p 8 2)).isSome,
     begins 0x55 (mk 0x55 [(8, 2, 4095), (10, 1, 1)]) sR0 && (smapGet sR0.host.regions 4095).isNone,
     startsB 0x54 0 (mk 0x54 [(8, 8, 0x40000000), (16, 8, 65536)]) sT0 (fun u t => u.host.dir.isEmpty && pf t.pkt 24 1 == 0),
     let s := { sR0 with regs := { sR0.regs with fcQueue := 0 } }
     begins 0x53 (mk 0x53 []) s && (collectorSlot (tookPacket 0x53 0 (mk 0x53 []) s)).isNone,
     begins 0x53 (mk 0x53 [(8, 3, 1)]) sR0 && decide (collectorSlot (tookPacket 0x53 0 (mk 0x53 [(8, 3, 1)]) sR0) = some (ownSlot sR0)) && sR0.xl.written.isEmpty,
     startsB 0x50 0 (mk 0x50 [(8, 8, 0x40000000), (16, 8, 65536), (24, 2, 0xFFFF)]) sT0
       (fun u t => decide (pf t.pkt 16 8 ≤ 65536) && (tlbFind u (pf t.pkt 8 8)).isSome && u.xl.walks.isEmpty),
     startsB 0x52 0 (mk 0x52 [(8, 8, 0x40000000), (16, 8, 65536), (24, 1, 1)]) { sPool with fab := { sPool.fab with lost := [3] } }
       (fun u t => (sendDrops 1 t.pkt.tag.toNat (pf t.pkt 8 8) 65536 1 (moduleRest u) (bumpGen u)).2.1.isSome),
     startsB 0x52 0 (mk 0x52 [(8, 8, 0x40000000), (16, 8, 65536), (24, 1, 1)]) sPool
       (fun u t => (sendDrops 1 t.pkt.tag.toNat (pf t.pkt 8 8) 65536 1 (moduleRest u) (bumpGen u)).2.1.isNone)].all id = true := by
  decide +kernel

/-- QUERY of the engine's limits into memory. -/
theorem hyp_PolicyPacketsAct_query :
    [startsB 0x02 0 (mk 0x02 [(8, 2, 1), (16, 8, 0x40020000), (24, 4, 4096)]) sT0
       (fun u t => queryBlock t.ring t.pkt u != [] && ((writeVa (pf t.pkt 16 8) (queryBlock t.ring t.pkt u)).go (some 1) u).1.toOption.isSome)].all id = true := by
  decide +kernel

/-- That table with other versions, and a task that the table's version 1 binds. -/
def withVersions (vs : List Version) (s : State) : State := { s with tab := { s.tab with tables := [(5, { tabT with versions := vs })] } }
def withBound (op : Byte) (s : State) : State :=
  { s with cmd := { s.cmd with nextTask := 2, tasks := [{ newTask 1 1 op (mk op [(8, 3, 5), (14, 1, 0)]) 0x20 (liveCfg s) with phase := .running .semWait, bind := some (5, 1) }] } }
/-- A program that nothing names in slot 9. -/
def withProg (s : State) : State := { s with tab := { s.tab with progs := [(9, [])] } }
def withHeldProg (s : State) : State := { withProg s with tab := { (withProg s).tab with tables := [(5, { tabT with desc := setBits tabT.desc 320 16 9 })] } }

theorem hyp_TablePacketsAct :
    let begins := fun (op : Nat) (p : Packet) (s : State) =>
      invB s && acceptsB op 0 p s && mayBegin (packetTask (BitVec.ofNat 8 op) 0 p s) (tookPacket (BitVec.ofNat 8 op) 0 p s)
    let del := mk 0x10 [(8, 3, 5), (11, 1, 1)]
    let rel := mk 0x33 [(8, 2, 9), (10, 1, 1)]
    let prev := withVersions [⟨1, .previous, true, none⟩] sT0
    let gone := fun (t : Task) (u : State) => freeable (pTid t.pkt) (BitVec.ofNat 16 (pf t.pkt 12 2)) (tabMap (pTid t.pkt) (fun tab =>
      tab.mapVersion (BitVec.ofNat 16 (pf t.pkt 12 2)) (fun x => { x with st := .retiring, retire := some ⟨BitVec.ofNat 64 (pf t.pkt 16 8), t.ring, t.pkt.tag, pQuiet t.pkt⟩ })) u)
    [begins 0x10 del sR0 && (tabGet sR0 5).isNone, begins 0x10 del (withVersions [] sT0),
     begins 0x10 del (withBound 0x21 sT0) && referred (withBound 0x21 sT0) 5 1,
     startsB 0x11 0 (mk 0x11 [(8, 3, 5), (12, 2, 1)] 0x100) sT0 (fun _ _ => true),
     startsB 0x12 0 (mk 0x12 [(8, 3, 5), (12, 2, 1)] 0x100) prev (fun u t => (gone t u).isSome),
     startsB 0x12 0 (mk 0x12 [(8, 3, 5), (12, 2, 1)] 0x100) (withBound 0x21 prev) (fun u t => (gone t u).isNone),
     begins 0x33 rel sR0 && (smapGet sR0.tab.progs 9).isNone, begins 0x33 rel (withProg sR0) && !slotBound (tookPacket 0x33 0 rel (withProg sR0)) 9,
     begins 0x33 rel (withHeldProg sR0) && slotBound (tookPacket 0x33 0 rel (withHeldProg sR0)) 9,
     startsB 0x24 0 (mk 0x24 [(8, 4, 7)]) sR0 (fun u t => u.cmd.tasks.all (fun x => !cancelMatches t x)),
     startsB 0x31 0 (mk 0x31 [(8, 3, 5)]) (withBound 0x32 sT0) (fun u t => serialBlocked t u),
     startsB 0x31 0 (mk 0x31 [(8, 3, 5), (14, 1, 1)]) sT0 (fun u t => !serialBlocked t u && decide (t.bind = some (5, 1))),
     startsB 0x32 0 (mk 0x32 [(8, 3, 5), (36, 2, 0xFFFF)]) (withBound 0x31 sT0) (fun u t => serialBlocked t u),
     startsB 0x32 0 (mk 0x32 [(8, 3, 5), (36, 2, 0xFFFF)]) sT0
       (fun u t => !serialBlocked t u && ((updateStart t).go (some 1) u).1.toOption.isSome),
     startsB 0x14 0 (mk 0x14 [(8, 3, 5), (15, 1, 1), (16, 8, 0x40030000), (24, 8, 65536)]) (withBound 0x31 sT0) (fun u t => serialBlocked t u),
     startsB 0x14 0 (mk 0x14 [(8, 3, 5), (15, 1, 1), (16, 8, 0x40030000), (24, 8, 65536)]) sT0 (fun u t => !serialBlocked t u),
     let p := mk 0x15 [(8, 3, 5), (12, 2, 1), (20, 4, 1), (24, 2, 3), (26, 2, 4)] 0x100
     begins 0x15 p sT0 && decide (migDst p ≠ (ownEid sT0).toNat) && !oldPeer sT0 (migDst p) && !isLost sT0 (migDst p),
     let s := { sT0 with fab := { sT0.fab with lost := [3] } }
     let p := mk 0x15 [(8, 3, 5), (12, 2, 1), (20, 4, 1), (24, 2, 3), (26, 2, 4)] 0x100
     begins 0x15 p s && !oldPeer s (migDst p) && isLost s (migDst p)].all id = true := by
  decide +kernel

/-- Look-ups, a pin, an add, a scatter of resent terms, and an inline culvert write with and without a semaphore. -/
theorem hyp_TablePacketsAct_rows :
    let runs := fun (u : State) (t : Task) => match (lookupStart t).go (some 1) (waitStarts u) with
      | (.ok _, v) => (taskOf v 1).all (fun x => match x.phase with | .done r => statusDone r.status | _ => true)
      | _ => false
    let inl := fun (sem : Nat) => mk 0x46 [(8, 8, 0x40020000), (16, 2, 32), (18, 2, sem), (24, 4, 0xABCD)] 0x100
    [startsB 0x20 0 (mk 0x20 lk) sT0 runs,
     startsB 0x21 0 (mk 0x21 [(8, 3, 5), (16, 8, 0x40010000), (24, 8, 0x40020000), (32, 4, 16)]) sT0 runs,
     startsB 0x22 0 (mk 0x22 [(8, 3, 5), (16, 8, 0x40010000), (14, 1, 1), (24, 8, 0x40020000), (32, 4, 64)]) sT0 runs,
     startsB 0x23 0 (mk 0x23 [(8, 3, 5), (16, 8, 0x40010000), (14, 1, 1)]) sT0 runs,
     startsB 0x61 0 (mk 0x61 [(8, 3, 5), (16, 8, 0x40010000)]) sT0 runs,
     startsB 0x34 0 (mk 0x34 [(8, 8, 0x40020000), (24, 4, 5), (32, 4, 0x3F800000)] 0x100) sT0
       (fun u t => ((atomicStart t).go (some 1) u).1.toOption.isSome),
     startsB 0x30 0 (mk 0x30 [(8, 3, 5), (16, 8, 0x40020000), (24, 4, 16), (32, 8, 0x40010000), (48, 8, 0x40010040), (56, 4, 4)]) sT0 (fun u t =>
       match (scatterStart t).go (some 1) (waitStarts u) with | (.ok _, v) => (taskOf v 1).any (fun x => !x.isDone) | _ => false),
     acceptsB 0x46 0 (inl 0xFFFF) sT0 && culvertInline (inl 0xFFFF) && (checked 0x46 0 (inl 0xFFFF) sT0).1.toOption.isSome,
     let s := { sT0 with host := { sT0.host with dir := [⟨0x1000800, 1, 0, 1024⟩] } }
     invB s && acceptsB 0x46 0 (inl 9) s && (match (writeVa 0x40020000 (inlineBytes (inl 9) 32)).go (some 1) (tookPacket 0x46 0 (inl 9) s) with
       | (.ok _, v) => !(heldLines v).isEmpty
       | _ => false),
     acceptsB 0x46 0 (inl 9) sT0 && (checked 0x46 0 (inl 9) sT0).1.toOption.isSome,
     startsB 0x41 0 (mk 0x41 [(8, 2, 9)]) (withStream sT0) (fun u t => (streamGet u (pf t.pkt 8 2)).isSome && u.cmd.tasks.length == 1),
     startsB 0x42 0 (mk 0x42 [(8, 2, 9)]) (withStream sT0) (fun u t => pf t.pkt 10 1 == 0 && u.cmd.tasks.all (fun x => x.op != 0x41))].all id = true := by
  decide +kernel

/-- The descriptor's bytes in memory, its CRC behind them. -/
def armHead : Bytes := blockOf 32 [(0, 2, 1), (2, 1, 1), (4, 1, 10), (8, 8, 0x40100000), (16, 8, 0x40200000), (24, 4, 4096)]
def armZeros : Bytes := List.replicate 55 0
def armBytes : Bytes := armHead ++ (armZeros ++ (armZeros ++ (armZeros ++ (armZeros ++ [84, 253, 191, 24]))))
def armDesc : BitVec 2048 := BitVec.ofNat 2048 (leNat armBytes)
def sArm : State := { sT0 with mem := { sT0.mem with dev := sT0.mem.dev ++ cells 0x44000000 armHead ++ cells 0x440000FC [84, 253, 191, 24] } }
def armPacket : Packet := mk 0x40 [(8, 2, 4095), (12, 8, 0x44000000), (20, 4, 256), (24, 2, 3), (26, 2, 0xFFFF)]

theorem arm_crc : crcHolds armBytes = true := by
  have h : armBytes.take (armBytes.length - 4) = armHead ++ (armZeros ++ (armZeros ++ (armZeros ++ armZeros))) := by decide +kernel
  have l : leField armBytes (armBytes.length - 4) 4 = 0x18BFFD54 := by decide +kernel
  have h1 : armHead.foldl crcByte 0xFFFFFFFF = 3048937405#32 := by decide +kernel
  have h2 : armZeros.foldl crcByte 3048937405#32 = 4220805560#32 := by decide +kernel
  have h3 : armZeros.foldl crcByte 4220805560#32 = 587827690#32 := by decide +kernel
  have h4 : armZeros.foldl crcByte 587827690#32 = 396631917#32 := by decide +kernel
  have h5 : armZeros.foldl crcByte 396631917#32 = 3879731883#32 := by decide +kernel
  simp only [crcHolds, crc32c, h, l, List.foldl_append, h1, h2, h3, h4, h5]
  decide +kernel

/-- STREAM_ARM of the last stream number, every premise of its clause. -/
theorem hyp_TablePacketsAct_arm :
    sArm.Inv ∧ Accepts 0x40 armStep4 0 armPacket sArm ∧ mayBegin (packetTask 0x40 0 armPacket sArm) (tookPacket 0x40 0 armPacket sArm) = true ∧
    smapGet sArm.strm.streams (pf armPacket 8 2) = none ∧
    (∃ v, (readVa (pf armPacket 12 8) 256).go (some 1) (tookPacket 0x40 0 armPacket sArm) = (.ok armBytes, v) ∧
      firstFail (armChecks v armDesc) = none ∧ v.rep.inj = none ∧ 2 * tileBytes armDesc / 1024 ≤ freeTileKib v) ∧
    crcHolds armBytes = true ∧ sd armDesc 112 4 = 0 ∧ sd armDesc 104 8 ≤ 2 ^ 51 ∧ sEmptyRemote armDesc = false :=
  ⟨inv_of (by decide +kernel), accepts_of (by decide +kernel), by decide +kernel, by decide +kernel,
   ⟨_, answers_of (by decide +kernel), by decide +kernel, by decide +kernel, by decide +kernel⟩,
   arm_crc, by decide +kernel, by decide +kernel, by decide +kernel⟩

/-! ### Formats, rows, policy -/

/-- The first and last format of each kind, at the ends of the scale's range. -/
theorem hyp_FormatsHoldWhatTheyDecode :
    [(1, 0, (0 : Int)), (4, 1, 0), (5, 3, -127), (9, 1, 111)].all (fun x => decide (1 ≤ x.1 ∧ x.1 ≤ 9 ∧ x.2.1 < 2 ^ (elemFmt x.1).width ∧
      ((x.1 < 5 ∧ x.2.2 = 0) ∨ (5 ≤ x.1 ∧ -127 ≤ x.2.2 ∧ x.2.2 ≤ 111)) ∧
      x.2.1 % 2 ^ ((elemFmt x.1).eb + (elemFmt x.1).mb) ≤ (elemFmt x.1).maxCode)) = true := by
  decide +kernel

/-- A working copy of 1,024 B, and one of 16 B, in their last rows. -/
theorem hyp_RowsLieApart :
    [tabT, { tabT with desc := setBits tabT.desc 128 16 256 }].all (fun t => decide (1 < t.localBlocks ∧ 1023 < 2 ^ t.sb ∧ t.wcBase % 65536 = 0 ∧
      0 < t.wcSizeB ∧ t.wcOnly = false)) = true := by
  decide +kernel

theorem hyp_GovPolicyChecked :
    let reads := fun (p : Packet) => invB sR0 && readsB 0x70 0 p sR0 && (reservedAt 0x70 0x20 p).isNone &&
      (headChecks 0x70 0 (ringGet sR0 0).proto ((ringGet sR0 0).sqHead.toNat % ringDepth (ringGet sR0 0)) true p).isNone
    let g := fun (h f c : Nat) => mk 0x70 [(8, 1, h), (9, 1, f), (12, 2, c)]
    [reads (g 69 40 80), reads (g 96 40 80), reads (g 70 39 80), reads (g 95 95 80), reads (g 70 69 79), reads (g 95 94 361),
     reads (g 70 40 80) && bitsNat sR0.regs.govGain 32 16 == 80,
     reads (g 70 40 81) && mayBegin (packetTask 0x70 0 (g 70 40 81) sR0) (tookPacket 0x70 0 (g 70 40 81) sR0),
     reads (g 95 94 0)].all id = true := by
  decide +kernel

/-! ### Clocks -/

def clk (f : ClkState → ClkState) : State := { sUp with clk := f sUp.clk }

theorem hyp_ClockStartsAndRetries :
    [invB (clk fun c => { c with st := 1 }) && !sUp.boot.inReset, (clk fun c => { c with st := 2 }).clk.st != 1,
     (clk fun c => { c with st := 7, locking := none }).clk.locking.isNone, writesLive sUp && !sUp.clk.testBusy].all id = true := by
  decide +kernel

/-- Counts at the tolerance's two ends: 500 millionths of 2^20 edges. -/
theorem hyp_ClockWindowPasses :
    let t := fun (st : BitVec 4) (n : Nat) =>
      let s := clk fun c => { c with st := st, tol := 500, testBusy := true, locking := none }
      invB s && s.rep.inj.isNone && windowPasses n s.clk.tol s && !windowPasses (n + 525) s.clk.tol s
    [t 2 (1048576 + 524), t 4 (1048576 + 524), t 2 1048576].all id && windowPasses (1048576 - 524) 500 sUp && !windowPasses (1048576 - 525) 500 sUp = true := by
  decide +kernel

theorem hyp_CrystalFails :
    (let s := clk fun c => { c with coast := false, src := .pllCrystal, pllLock := true }
     invB s && !s.boot.inReset && s.clk.pllLock && !(clk fun c => { c with coast := false, src := .pllCrystal, pllLock := false }).clk.pllLock) = true := by
  decide +kernel

theorem hyp_PllLocks :
    [true, false].all (fun x => let s := clk fun c => { c with locking := some x }; invB s && s.rep.inj.isNone && s.clk.locking == some x) = true := by
  decide +kernel

theorem hyp_RampSteps :
    (let up := clk fun c => { c with ramp := .up, divA := 62, divF := 64, divC := 64 }
     let down := clk fun c => { c with ramp := .down, divA := 4, divF := 5, divC := 10 }
     invB up && invB down && up.clk.ramp == .up && decide (up.clk.divA < 63) && down.clk.ramp == .down && decide (9 < down.clk.divC) &&
       (clk fun c => { c with ramp := .none }).clk.ramp == .none) = true := by
  decide +kernel

/-! ### The Gauge -/

def gge (f : GaugeState → GaugeState) : State := { sUp with gauge := f sUp.gauge }

theorem hyp_Gauge :
    [invB sUp && sUp.rep.inj.isNone && sUp.gauge.portInj.isNone,
     let s := gge fun g => { g with supervision := true }
     invB s && decide (((4 * (1048576 + 2097) : Int) - expectedEdges4 s).natAbs * 1000000 ≤ 2000 * expectedEdges4 s),
     decide (2000 * expectedEdges4 sUp < ((4 * (1048576 + 2098) : Int) - expectedEdges4 sUp).natAbs * 1000000) && !sUp.gauge.supervision,
     let s := gge fun g => { g with queue := List.replicate 15 ⟨0, 0, none⟩ }
     invB s && decide (s.gauge.queue.length < 16), (gge fun g => { g with queue := List.replicate 16 ⟨2, 0, none⟩ }).gauge.queue.length == 16,
     sUp.fuses.sealed && invB { sUp with fuses := { sUp.fuses with sealed := false } },
     invB { sUp with fuses := { sUp.fuses with epochBits := 4096 } }].all id = true := by
  decide +kernel

/-! ### Fabric Time -/

def tme (f : TimeState → TimeState) : State := { sUp with time := f sUp.time }

/-- An engine that is no agent, whose agent stands in die slot 0. -/
def sSlot1 : State := { sUp with fuses := { sUp.fuses with eid := 1 }, fab := { sUp.fab with otherAgent := some 0 } }

theorem hyp_FabricTime :
    let heard := fun (parent : Option Nat) (us : Nat) =>
      tme fun t => { t with parent := parent, announces := [⟨3, 10, 3, 0, 0⟩], elapsed := BitVec.ofNat 96 ((us * 2 ^ 32 / 1000000 + 1) * 2 ^ 32), syncAt := 0 }
    [invB sSlot1 && !isAgent sSlot1 && sSlot1.fab.otherAgent == some 0 && timeNeighbours sSlot1 == [(0, none)] && sSlot1.time.egress.isEmpty &&
       sSlot1.time.parent.isNone,
     invB (heard none 374998) && decide (usSince (heard none 374998) 0 < 375000), decide (375000 ≤ usSince (heard none 375000) 0),
     (heard (some 3) 375000).time.parent == some 3, decide (7812 ≤ usSince (heard (some 3) 7812) 0),
     let s := tme fun t => { t with holdover := true, holdSince := some 0, elapsed := BitVec.ofNat 96 (2 ^ 65) }
     invB s && s.time.holdover && decide (holdoverMs s * 1000 ≤ usSince s 0), !sUp.time.holdover,
     let s := { (tme fun t => { t with lock := true, ftime := BitVec.ofNat 96 (2 ^ 64), ppsSec := 0 }) with
       regs := { sUp.regs with ftimeCtl := sUp.regs.ftimeCtl ||| 0x10000 } }
     invB s && ppsEnabled s && timeLocked s && decide (s.time.ftime.toNat % 2 ^ 64 < edgeStep s) && bits s.time.ftime 64 32 != s.time.ppsSec,
     !ppsEnabled sUp, decide (bitsNat (now sUp) 0 32 < 0x20000000),
     decide (0x20000000 ≤ bitsNat (now (tme fun t => { t with ftime := BitVec.ofNat 96 (0x20000000 * 2 ^ 32) })) 0 32),
     sUp.time.announces.isEmpty && decide (gmPrioOf sUp < 255), !sUp.clk.coast].all id = true := by
  decide +kernel

/-! ### Reset, firmware, registers and the staged set -/

def boo (f : BootState → BootState) : State := { sUp with boot := f sUp.boot }

/-- In cold reset, the settle value at its last lawful number and beyond it; and not in reset. -/
theorem hyp_ColdResetClears :
    (let x := fun (n : Nat) => { (boo fun b => { b with inReset := true }) with fuses := { sUp.fuses with xsettle := n } }
     invB sUp && invB (x 8) && invB (x 9) && (x 9).boot.inReset && !sUp.boot.inReset && decide (sUp.fuses.xsettle ≤ 8)) = true := by
  decide +kernel

theorem hyp_EngineResetClears :
    [invB (boo fun b => { b with inReset := true }), invB (boo fun b => { b with phase := 7 }), invB (boo fun b => { b with phase := 1 }),
     (boo fun b => { b with phase := 2 }).boot.phase == 2, !sUp.boot.inReset && !sUp.regs.fwSrc.getLsbD 60].all id = true := by
  decide +kernel

theorem hyp_EngineResetClears_digest : sUp.boot.phase ≠ 7 ∧ sha256 sUp.boot.image = sUp.boot.digest := by
  decide +kernel

/-- Header reads: good, from host memory, and none beyond 2^52 or from an offline stack; the running image's svn; no firmware task. -/
theorem hyp_FirmwareLoads :
    [let s := boo fun b => { b with phase := 3 }
     let r := fwRead (fwPlace s.regs.fwSrc) 256 s
     invB s && r.1.isSome && decide (r.2 = s),
     let s := { (boo fun b => { b with phase := 3 }) with regs := { sUp.regs with fwSrc := 0x80FFFFFFFFFFF000 } }
     let r := fwRead (fwPlace s.regs.fwSrc) 256 s
     invB s && r.1.isNone && decide (r.2 = s),
     sUp.boot.phase != 3 && sUp.boot.phase == 5, writesLive sUp && (fwTasks sUp).isEmpty && sUp.rep.inj.isNone,
     !writesLive (boo fun b => { b with phase := 3 }),
     fwLenOk 4096 && fwLenOk (2 ^ 21) && !fwLenOk 4095 && !fwLenOk (2 ^ 21 + 4096)].all id = true := by
  decide +kernel

theorem hyp_BootSelftestRuns :
    [invB (boo fun b => { b with phase := 2 }), (boo fun b => { b with inReset := true }).boot.inReset, sUp.boot.phase != 2].all id = true := by
  decide +kernel

theorem hyp_RctBaseGuarded :
    [invB sUp && !sUp.boot.inReset && writesLive sUp && sUp.cmd.rings.all (fun e => e.2.st == .disabled),
     writesLive sR1 && sR1.cmd.rings.any (fun e => e.2.st != .disabled), !writesLive (boo fun b => { b with phase := 3 })].all id = true := by
  decide +kernel

/-- Ring 0's queues mapped by both copies of the control tables. -/
def treeCells : Memory :=
  let pte : Nat → Bytes := fun e => leBytes 8 (sealPte (BitVec.ofNat 64 e)).toNat
  cells 0x5000 (pte 0x6001) ++ cells 0x6000 (pte 0x7001) ++ cells 0x7000 (pte 0x20000007)

def sTables : State :=
  { sUp with regs := { sUp.regs with ctRootA := 0x5000, ctRootB := 0x5000, ring0Sq := 0x6 }, mem := { sUp.mem with dev := treeCells } }

def walks (s : State) (write : Bool) (n : Nat) : Bool :=
  match (ctRange write (2 ^ 11) 0 n).go none s with
  | (.ok (some l), t) => !l.isEmpty && decide (t = s)
  | _ => false

theorem hyp_RingZeroSwitches :
    [invB sR0 && writesLive sR0 && (ringGet sR0 0).st == .enabled,
     (ringGet { sUp with regs := { sUp.regs with rctBase := 0 } } 0).st == .disabled && rctBase { sUp with regs := { sUp.regs with rctBase := 0 } } == 0,
     invB sTables && (ringGet sTables 0).st == .disabled && rctBase sTables != 0 && (ring0Built sTables).sqBase == 0 && (ring0Built sTables).cqBase == 0 &&
       walks sTables false (64 * ringDepth (ring0Built sTables)) && walks sTables true (32 * ringDepth (ring0Built sTables)),
     (ringGet sUp 0).st == .disabled].all id = true := by
  decide +kernel

theorem hyp_StagingKeepsRegisters :
    let full := { sUp with cmd := { sUp.cmd with staged := List.replicate 256 (0x2000, 0) } }
    [(stagedMask 0x150).isSome && (stagedMask 0x1600).isSome && stageFits sUp.cmd.staged [(0x150, 5)] && stageFits sUp.cmd.staged [(0x160, 5 &&& 0xF00)],
     invB full && !stageFits full.cmd.staged [(0x150, 0)]].all id = true := by
  decide +kernel

def staged (l : List (Nat × Word)) : State := { sUp with cmd := { sUp.cmd with staged := l } }
def checks (s : State) : Option (Nat × Nat) := setChecks s.cmd.staged { s with cmd := { s.cmd with staged := [] } }

theorem hyp_CfgCommitChecks :
    [let s := staged [(0x150, 10000)]
     invB s && s.boot.phase == 5 && (ringGet s 0).st == .disabled && s.cmd.pendCommit.isNone && (checks s).isNone,
     checks (staged [(0x150, 10001)]) == some (2, 0), checks (staged [(0x150, 0)]) == some (2, 0), checks (staged [(0x150, 1), (0x108, 1)]) == some (4, 1),
     checks (staged [(0x1428, 3)]) == some (3, 0), (ringGet sR0 0).st != .disabled, (boo fun b => { b with phase := 6 }).boot.phase != 5,
     ({ sUp with cmd := { sUp.cmd with pendCommit := some ⟨[], none⟩ } } : State).cmd.pendCommit.isSome].all id = true := by
  decide +kernel

theorem hyp_CommitPointApplies :
    (let s := withTask 0x79 (.running (.configCommit [] 0)) { sUp with cmd := { sUp.cmd with pendCommit := some ⟨[(0x150, 7), (0x1428, 0)], some 1⟩ } }
     let s := { s with cmd := { s.cmd with pendCommit := some ⟨[(0x150, 7), (0x1428, 0)], some 1⟩ } }
     invB s && commitReady [(0x150, 7), (0x1428, 0)] s && (taskOf s 1).isSome &&
       (firstBad [(0x150, 7), (0x1428, 0)] (fun e => crossFails (applyEntries s.regs [(0x150, 7), (0x1428, 0)]) s e.1)).isNone) = true := by
  decide +kernel

theorem hyp_RegisterWritesAct :
    let s := { sUp with regs := { sUp.regs with irqMask := 0xF, irqPend := 0x8 } }
    [invB s && (List.range 4).all (fun e => e == 3 || !s.regs.irqPend.getLsbD e) && s.regs.irqMask.getLsbD 3 && s.regs.irqPend.getLsbD 3,
     (List.range 4).all (fun e => !sUp.regs.irqPend.getLsbD e),
     !isMsix sUp 0x104 && touchesReg 0x104 4, touchesReg 0x101 8, !touchesReg 0x90 4 && !isMsix sUp 0x90].all id = true := by
  decide +kernel

/-! ### Memory and the governor -/

def mmm (f : MemState → MemState) : State := { sUp with mem := f sUp.mem }

theorem hyp_MemoryTrains :
    [invB sUp && !sUp.mem.lpLost && sUp.mem.hbmTrained && sUp.mem.lpOnline != 0, (mmm fun m => { m with lpLost := true }).mem.lpLost].all id = true := by
  decide +kernel

theorem hyp_SitesGoOffline :
    [[0, 1, 2, 4].all (fun u => (failUnits sUp u).any (unitOnline sUp)), !(failUnits (mmm fun m => { m with hbmOnline := 2 }) 0).any (unitOnline (mmm fun m => { m with hbmOnline := 2 })),
     (1, 63, 5, 7) ∈ (mmm fun m => { m with ceRows := [(1, 63, 5, 7)] }).mem.ceRows, (1, 63, 5, 7) ∉ sUp.mem.ceRows, sUp.rep.inj.isNone].all id = true := by
  decide +kernel

/-- The hard region at its edge, at the minimum and above it; below it, with the loop's fraction above and below the floors. -/
theorem hyp_GovernorUpdates :
    let g := fun (a : BitVec 9) => { sUp with gov := { sUp.gov with allowed := a } }
    [invB (g 256) && (g 256).rep.inj.isNone && (g 256).mem.hbmOnline == 3, hardEff sUp == 95, decide (8 < (g 18).gov.allowed.toNat / 2),
     decide ((g 17).gov.allowed.toNat / 2 ≤ 8), busyFloors sUp ≤ (govLoop sUp 94 (f32Frac sUp.gauge.pTotal.toNat 64)).1,
     let s := withTask 0x45 (.running .semWait) { g 8 with
       cmd := { sR0.cmd with rings := [(1, { Ring.blank with cls := 2, st := .enabled, rateFloor := 192 })] }, gauge := { sUp.gauge with pTotal := 20000 } }
     invB s && decide ((govLoop s 94 (f32Frac s.gauge.pTotal.toNat 64)).1 < busyFloors s)].all id = true := by
  decide +kernel

/-- A write with start set, of op 0 and of op 1, for the stack that is online and for the one that is not. -/
theorem hyp_StackRepairRuns :
    let off := mmm fun m => { m with hbmOnline := 1 }
    [bitsNat (0x8100000000000000#64) 56 3 == 1 && off.mem.hbmOnline.getLsbD (bitsNat (0x8100000000000000#64) 59 1) && invB off && writesLive off,
     bitsNat (0x8800000000000000#64) 56 3 == 0 && !off.mem.hbmOnline.getLsbD (bitsNat (0x8800000000000000#64) 59 1) && !off.mem.pprBusy,
     (mmm fun m => { m with pprBusy := true }).mem.pprBusy].all id = true := by
  decide +kernel

/-! ### The host link -/

def hst (f : HostState → HostState) : State := { sUp with host := f sUp.host }

def sLinks : State :=
  hst fun h => { h with links := [⟨false, false, 0, 0⟩, ⟨false, true, 0, 0⟩, ⟨true, false, 4, 6⟩, ⟨true, false, 3, 5⟩] }

theorem hyp_HostLinksComeAndGo :
    [invB sLinks && (sLinks.host.links[0]?).any (fun k => !k.lost && !k.up), (sLinks.host.links[1]?).any (fun k => k.lost),
     (sLinks.host.links[3]?).any (fun k => k.up) && sLinks.host.backInv.isEmpty && (ringsBehind (onLink 3) sLinks).isEmpty].all id = true := by
  decide +kernel

theorem hyp_HostLinksComeAndGo_log : LogClear sLinks := ⟨by decide +kernel, by decide +kernel⟩

/-- The window closed, open for reads, and open; an offset at its end; a served write and a served read. -/
theorem hyp_HostWindowServes :
    let s := { sT0 with regs := { sT0.regs with hwinCtl := 0x40000003 } }
    let ok := fun (d : Option Bytes) => (match (demand (hwinBase s) d.isSome).go none s with
      | (.ok x, t) => decide (t = s) && decide (x.at (hwinBase s) = .dev 0x40000000)
      | _ => false) && ((hwinServe 3 (hwinBase s) (.dev 0x40000000) 64 d).go none s).1.toOption.isSome
    [invB s && !s.boot.inReset && s.rep.inj.isNone && linkUp s 3 && s.regs.hwinCtl.getLsbD 0 && s.regs.hwinCtl.getLsbD 1, ok none, ok (some [1, 2]),
     fpaModule 0x40000000 == ownModule s && s.host.backInv.isEmpty && s.host.dir.isEmpty, !sUp.regs.hwinCtl.getLsbD 0,
     !({ sT0 with regs := { sT0.regs with hwinCtl := 0x40000001 } } : State).regs.hwinCtl.getLsbD 1, unitOnline s 0 && ownUnit s 0x40000000 == some 0].all id = true := by
  decide +kernel

theorem hyp_HostWindowServes_victims : ∀ k l, dirVictim k l sT0 = none := by
  intro k l
  have h : sT0.host.dir = [] := by decide +kernel
  simp [dirVictim, h, dirWays]

def region : Region := ⟨65536, 0x40000000, 65536, [⟨0x40000000, 16, 65536, .dev 0x40000000, true, false, 0⟩]⟩

theorem hyp_ApertureServes :
    let s := hst fun h => { h with regions := [(4095, region)] }
    [invB s && (regionAt s 65535 2).isNone && (regionAt s 131071 2).isNone, regionAt s 65536 65536 == some region, regionAt s 131071 1 == some region,
     match (readRaw (regionPieces region 131070 2)).go none s with | (.ok b, t) => b == [0, 0] && decide (t = s) | _ => false].all id = true := by
  decide +kernel

theorem hyp_FencesAndSnoops :
    let l : NearLine := ⟨5, some 2, List.replicate 64 9, true⟩
    let s := hst fun h => { h with near := [l], backInv := [⟨7, 1, []⟩], regions := [(0, region)], dir := [⟨7, 1, 0, 0⟩] }
    [invB s && s.host.fenceReads.isEmpty && s.host.near.all (fun y => !y.dirty || !lineTarget s y.line) && s.host.dir.all (fun y => !lineTarget s y.line),
     (s.host.near.find? (fun y => y.line == 5 && y.link == some 1)).isNone, (s.host.near.find? (fun y => y.line == 5 && y.link == some 2)) == some l,
     !s.host.backInv.any (fun y => y.line == 7 && y.link == 2), s.host.backInv.any (fun y => y.line == 7 && y.link == 1)].all id = true := by
  decide +kernel

/-! ### Discovery and peers -/

def fbb (f : FabState → FabState) : State := { sUp with fab := f sUp.fab }

/-- A PROBE, or its reply, from the agent of module 1, built as the engine builds its own. -/
def probeFrom (ty : Nat) : Header :=
  let far := { sUp with fuses := { sUp.fuses with eid := 16 } }
  newHeader 0 ty 0 0 0 (probeExt 5 far ++ (if ty = 2 then [(40, 1, 5)] else [])) 0 far

def oneKept (tries : Nat) : State := fbb fun f => { f with kept := [⟨9, 3, probeFrom 1, [], tries, 0, false⟩] }

theorem hyp_DiscoveryRuns :
    [invB sSlot1 && !isAgent sSlot1, isAgent sUp && fastServed sUp && !sUp.rep.failed && !sUp.boot.inReset && decide (47 < portCount sUp) && sUp.rep.inj.isNone,
     [1, 2].all (fun ty => headerCrcOk (probeFrom ty) && !malformed (probeFrom ty) 0 && !isLost sUp (hSrc (probeFrom ty)) &&
       !tooOld (probeFrom ty) sUp && hTyp (probeFrom ty) == ty)].all id = true := by
  decide +kernel

theorem hyp_EndpointForgets :
    let s := fbb fun f => { f with acksDue := [(3, 77)] }
    [invB s && s.fab.acksDue == [((3#16).toNat, 77)] && !s.rep.failed && !writesHeld s, s.fab.acksDue.all (fun a => a.1 != (4#16).toNat),
     writesHeld { s with host := { s.host with backInv := [⟨7, 1, [(448, [1])]⟩] } }, sUp.fab.grants.all (fun c => c.wanted == 0),
     let ask : Header := newHeader 3 0x20 5 6 0 [] 0 sUp
     let s := fbb fun f => { f with credits := [{ (default : Credit) with peer := 3, granted := 2 }], kept := [⟨9, 3, ask, [], 0, 0, false⟩] }
     invB s && creditFree s 3 false == 2 && hCls ask == 3 && !relayType (hTyp ask),
     writesLive sUp && !writesLive (boo fun b => { b with phase := 3 })].all id = true := by
  decide +kernel

theorem hyp_PeersAreLost :
    [invB (oneKept 1) && ((oneKept 1).fab.kept.find? (fun x => x.msgId == 8)).isNone,
     [1, 7].all (fun n => ((oneKept n).fab.kept.find? (fun x => x.msgId == 9)).any (fun k => decide (0 < k.tries) && decide (k.tries < 8))),
     ((oneKept 8).fab.kept.find? (fun x => x.msgId == 9)).any (fun k => decide (8 ≤ k.tries)), isLost (fbb fun f => { f with lost := [3] }) 3,
     !isLost sUp 3 && (ownEid sUp).toNat != 3 && sUp.cmd.tasks.isEmpty && sUp.hold.lists.isEmpty, ownSlot sUp == 0,
     isLost (fbb fun f => { f with lost := [3] }) (eidOf (ownModule sUp) 3)].all id = true := by
  decide +kernel

/-! ### Arriving messages -/

/-- An engine of the same module that has sent eight messages, in partition 1. -/
def farEngine (src : Nat) : State :=
  { sUp with fuses := { sUp.fuses with eid := BitVec.ofNat 16 src }, fab := { sUp.fab with nextMsg := 9 } }

/-- A message of a type for EID 0, built by a sender as it builds its own. -/
def hdOf (w : State) (ty : Nat) (ext : List (Nat × Nat × Nat)) (len fseq : Nat) : Header := newHeader 0 ty 5 6 fseq ext len w
def hd (ty : Nat) (ext : List (Nat × Nat × Nat)) : Header := hdOf (farEngine 3) ty ext 0 0

def listensB (s : State) : Bool := !s.boot.inReset && !s.rep.failed && fastServed s && s.rep.inj.isNone

def heardB (h : Header) (s : State) : Bool :=
  listensB s && hSrc h != (ownEid s).toNat && headerCrcOk h && hPartition h == partitionOf s && fabEnabled s &&
  hDst h == (ownEid s).toNat && !isLost s (hSrc h)

def deliversB (ty : Nat) (h : Header) (b : Bytes) (s : State) : Bool :=
  heardB h s && !badMessage ty h b && !tooOld h s && !(keptType ty && alreadySeen h s) && (!hCtrl h || crcHolds b) &&
  (hCls h != 3 || decide (creditUnits b.length ≤ grantLeft s (hSrc h) (relayType ty))) && hVer h == 0x20

/-- What a message does at its receiver, or nothing where it does not complete. -/
def handed (h : Header) (b : Bytes) (s : State) : Option State :=
  match deliverTo h b s with
  | (.ok _, u) => some u
  | _ => none

theorem handed_of {h : Header} {b : Bytes} {s u : State} (e : handed h b s = some u) : deliverTo h b s = (.ok (), u) := by
  unfold handed at e
  split at e
  · next r v hr => cases r; cases e; exact hr
  · cases e

/-- One unit of class-3 credit granted to EID 3 in each pool. -/
def sGrant : State := fbb fun f => { f with grants := [⟨3, false, 1, 0, 0, 0⟩, ⟨3, true, 1, 0, 0, 0⟩] }

def cancelMsg : Header := hd 0x13 []
def hopLoad : Bytes := withCrc (leBytes 16 7)
def hopMsg : Header := hdOf (farEngine 3) 0x33 [(32, 2, 4), (35, 1, 2)] 20 0
def chunkMsg (len : Nat) : Header := hdOf (farEngine 3) 0x31 [(32, 2, 4)] len 0
def writeMsg : Header := hdOf (farEngine 3) 0x30 [(32, 8, 0x4000), (40, 1, 1)] 4 0

theorem hyp_MessagesJudged :
    let w := farEngine 3
    let later := tme fun t => { t with ftime := BitVec.ofNat 96 (2 ^ 64) }
    [invB sUp && listensB sUp && hSrc cancelMsg != (ownEid sUp).toNat, (boo fun b => { b with inReset := true }).boot.inReset,
     { sUp with rep := { sUp.rep with failed := true } }.rep.failed, !fastServed (boo fun b => { b with phase := 2 }),
     !headerCrcOk (cancelMsg ^^^ 1), let h := hdOf { w with regs := { w.regs with fabCtl := 0x2000A0003 } } 0x13 [] 0 0
     headerCrcOk h && hPartition h != partitionOf sUp,
     let s := { sUp with regs := { sUp.regs with fabCtl := 0x1000A0002 } }
     listensB s && headerCrcOk cancelMsg && hPartition cancelMsg == partitionOf s && !fabEnabled s,
     let h := newHeader 4 0x13 5 6 0 [] 0 w
     headerCrcOk h && hPartition h == partitionOf sUp && fabEnabled sUp && hDst h != (ownEid sUp).toNat,
     let s := fbb fun f => { f with lost := [3] }
     listensB s && isLost s (hSrc cancelMsg) && hDst cancelMsg == (ownEid s).toNat,
     let h := hdOf { w with fab := { w.fab with peerVer := [(0, 0x30)] } } 0x13 [] 0 0
     heardB h sUp && hVer h != 0x10 && hVer h != 0x20,
     heardB (hd 0x13 [(32, 1, 1)]) sUp && hVer (hd 0x13 [(32, 1, 1)]) == 0x20 && badMessage 0x13 (hd 0x13 [(32, 1, 1)]) [],
     invB later && heardB cancelMsg later && !badMessage 0x13 cancelMsg [] && tooOld cancelMsg later,
     let s := fbb fun f => { f with seen := [(3, 9, 0)] }
     heardB cancelMsg s && !badMessage 0x13 cancelMsg [] && !tooOld cancelMsg s && keptType 0x13 && alreadySeen cancelMsg s,
     heardB hopMsg sUp && !badMessage 0x33 hopMsg (leBytes 20 7) && hCtrl hopMsg && !alreadySeen hopMsg sUp && !crcHolds (leBytes 20 7),
     heardB (chunkMsg 4) sUp && !badMessage 0x31 (chunkMsg 4) [1, 2, 3, 4] && !tooOld (chunkMsg 4) sUp && !alreadySeen (chunkMsg 4) sUp &&
       !hCtrl (chunkMsg 4) && hCls (chunkMsg 4) == 3 && decide (grantLeft sUp 3 true < creditUnits 4),
     decide (grantLeft sGrant 3 true < creditUnits 65536)].all id = true := by
  decide +kernel

theorem hyp_MessagesInOrder :
    let sem := fun (q : Nat) => hdOf (farEngine 3) 0x32 [(32, 2, 7), (36, 4, 1)] 0 q
    let stalled := fbb fun f => { f with stalled := [(1, sem 0, [])] }
    let credits := hd 0x05 [(34, 2, 1)]
    [invB sUp && deliversB 0x05 credits [] sUp && outsideOrder 0x05 && (handed credits [] sUp).any (fun u => ownEid u == ownEid sUp),
     deliversB 0x32 (sem 0) [] sUp && !outsideOrder 0x32 && ahead (sem 0) sUp == 0 &&
       (handed (sem 0) [] (noted (sem 0) [] sUp)).any (fun u => (delivered (sem 0) [] u).fab.early.isEmpty),
     deliversB 0x31 (chunkMsg 4) [1, 2, 3, 4] sGrant && ahead (chunkMsg 4) sGrant == 0 &&
       (handed (chunkMsg 4) [1, 2, 3, 4] (noted (chunkMsg 4) [1, 2, 3, 4] sGrant)).any (fun u => (delivered (chunkMsg 4) [1, 2, 3, 4] u).fab.early.isEmpty),
     invB stalled && deliversB 0x32 (sem 0) [] stalled && stalled.fab.stalled.any (fun m => flowOf m.2.1 == flowOf (sem 0)),
     [1, 0x7FFF].all (fun q => deliversB 0x32 (sem q) [] sUp && ahead (sem q) sUp == q),
     [0x8000, 0xFFFF].all (fun q => deliversB 0x32 (sem q) [] sUp && ahead (sem q) sUp == q)].all id = true := by
  decide +kernel

/-- Page tables whose one leaf, of 16 GiB, is being moved; nothing is cached. -/
def withMoving (s : State) : State :=
  { s with
    regs := { s.regs with ptRoot := 0x44000001 }
    xl := { s.xl with tlb := [] }
    mem := { s.mem with dev := s.mem.dev ++ cells 0x44000000 [1, 0x10, 0, 0x44, 0, 0, 0, 0x50] ++ cells 0x44001000 [0x47, 0, 0, 0, 0, 0, 0, 0x60] } }

theorem hyp_MessagesInOrder_mig :
    let s := withMoving sGrant
    let h := hdOf (farEngine 3) 0x30 [(32, 8, 0x5000)] 4 0
    [invB s && deliversB 0x30 h [1, 2, 3, 4] s && !outsideOrder 0x30 && ahead h s == 0,
     (match deliverTo h (bareLoad h [1, 2, 3, 4]) (noted h [1, 2, 3, 4] s) with | (.error (.mig 0 true), _) => true | _ => false),
     stillMoving 0 s].all id = true := by
  decide +kernel

theorem hyp_MessagesToItself :
    let h := newHeader 0 0x32 5 6 0 [(32, 2, 7), (36, 4, 1)] 0 sUp
    let s := fbb fun f => { f with selfQ := [(h, [])] }
    [invB s && listensB s && hSrc h == (ownEid s).toNat && hTyp h == 0x32 && s.fab.selfQ.find? (fun m => flowOf m.1 == flowOf h) == some (h, []) &&
       (handed h [] { s with fab := { s.fab with selfQ := [] } }).any (fun u => ownEid u == ownEid s && !unwritten h u),
     invB sUp && sUp.fab.selfQ.isEmpty && sUp.fab.stalled.isEmpty].all id = true := by
  decide +kernel

/-- A message that this engine keeps until EID 3 acknowledges it. -/
def keptMsg (tries : Nat) : SentMsg := ⟨9, 3, newHeader 3 0x32 5 6 0 [(32, 2, 7)] 0 { sUp with fab := { sUp.fab with nextMsg := 9 } }, [], tries, 0, false⟩
def sKept (tries : Nat) : State := fbb fun f => { f with kept := [keptMsg tries] }

/-- The agent of module 0 with one fabric port up, to module 1's agent, EID 16. -/
def sNear : State := fbb fun f => { f with ports := [(3, ⟨nbrEntry 1 2 3 4 5 1 7, true, true, 0, 16⟩)] }
/-- It with EID 1 of its own module alive, and its parent. -/
def sChild : State := { fbb (fun f => { f with liveSlots := [1] }) with time := { sUp.time with parent := some 1 } }

theorem hyp_ControlMessagesAct :
    let ack := hd 0x03 [(32, 4, 9), (56, 1, 1)]
    let nack := fun (m r v : Nat) => hd 0x04 [(32, 4, m), (36, 1, r), (37, 1, v)]
    let ann := fun (src steps : Nat) => hdOf (farEngine src) 0x40 [(40, 2, 10), (42, 1, 3), (43, 1, steps)] 0 0
    let sync := hdOf (farEngine 1) 0x41 [(32, 8, 99), (40, 4, 12)] 0 0
    let resp := hdOf (farEngine 1) 0x43 [(32, 8, 99), (40, 4, 12)] 0 0
    let asked := fun (q : BitVec 32) => { sChild with time := { sChild.time with delayReq := some (q, 5), lastPair := some (8, 9) } }
    [invB (sKept 1) && hTyp ack == 0x03 && hf ack 56 1 == 1 && (keptMsg 1).dst == hSrc ack && hf ack 32 4 == 9 && hTyp (keptMsg 1).header != 0x52 &&
       (taskOf (sKept 1) (hTask (keptMsg 1).header)).isNone,
     sUp.fab.kept.isEmpty && hTyp (nack 9 1 0x20) == 0x04,
     [0, 7].all (fun n => decide ((sKept n).fab.kept.find? (fun x => x.msgId == 9 && x.dst == hSrc (nack 9 4 0x20)) = some (keptMsg n))),
     hf (nack 9 4 0x20) 36 1 == 4 && hf (nack 9 1 0x20) 36 1 == 1 && hf (nack 9 2 0x20) 36 1 == 2 && hf (nack 9 3 0x20) 36 1 == 3 &&
       hf (nack 9 3 0x20) 37 1 == 0x20,
     sGrant.fab.grants.any (fun c => c.peer == hSrc (hd 0x05 [(34, 2, 1)]) && c.relay == (hf (hd 0x05 [(34, 2, 1)]) 32 1 == 1)),
     hTyp (hd 0x06 [(34, 2, 1), (36, 4, 8)]) == 0x06 && sUp.fab.credits.isEmpty, hf (hd 0x07 [(32, 2, 4), (34, 1, 1)]) 34 1 == 1,
     hf (hd 0x07 [(32, 2, 4)]) 34 1 == 0,
     invB sNear && (neighbourOf sNear (hSrc (ann 16 31))).isSome && hf (ann 16 31) 43 1 == 31, 
     (neighbourOf sUp (hSrc (ann 16 0))).isNone, hf (ann 16 32) 43 1 == 32, hTyp sync == 0x41 && sUp.time.parent != some (hSrc sync),
     invB sChild && sChild.time.parent == some (hSrc sync) && sChild.time.lastSync.isNone && (sChild.time.syncCount + 1) % 16 != 0,
     (neighbourOf sChild (hSrc (hdOf (farEngine 1) 0x42 [(40, 4, 12)] 0 0))).isSome,
     invB (asked 12) && hTyp resp == 0x43 && (asked 12).time.parent == some (hSrc resp) && hf resp 40 4 == 12 && decide ((asked 12).time.delays.length < 8),
     invB (asked 13) && (asked 13).time.lastPair == some (8, 9) && hf resp 40 4 != 13].all id = true := by
  decide +kernel

/-- A discard record of the task that the messages below name. -/
def sGone : State := fbb fun f => { f with discards := [(3, 5, 6)] }

theorem hyp_TaskMessagesAct :
    let hop := fun (n k : Nat) => hdOf (farEngine 3) 0x33 [(32, 2, 4), (34, 1, k), (35, 1, n)] 20 0
    let fwd := [0x32, 0x20] ++ List.replicate 66 0
    [invB sUp && invB sGone && (taskOf sUp 5).isNone,
     [0x10, 0x20].all (fun ty => hTyp (hd ty []) == ty && sGone.fab.discards.contains (hSrc (hd ty []), BitVec.ofNat 32 (hTask (hd ty [])), BitVec.ofNat 32 (hTag (hd ty [])))),
     [0x11, 0x12, 0x13, 0x21, 0x23, 0x32, 0x35, 0x50, 0x51].all (fun ty => hTyp (hd ty []) == ty),
     sUp.hold.lists.isEmpty && sUp.hold.fetches.isEmpty && sUp.hold.kept.isEmpty && sUp.hold.cancels.isEmpty && sUp.berm.sets.isEmpty && sUp.grad.buckets.isEmpty && sUp.fab.discards.isEmpty &&
       sUp.grad.remote.isEmpty && sUp.strm.hops.isEmpty && sUp.cmd.tasks.isEmpty && sUp.tab.tables.isEmpty,
     let s := { sUp with host := { sUp.host with dir := [⟨16, 1, 0, 1024⟩] } }
     let h := hd 0x22 [(32, 8, 1024), (40, 2, 3)]
     invB s && hTyp h == 0x22 && (hostHolds s (hf h 32 8 / 64)).isSome,
     hTyp writeMsg == 0x30 && hf writeMsg 40 1 == 1 && sUp.fab.migEnded.isEmpty,
     let s : State := { sUp with berm := { sUp.berm with share := 1 } }
     invB s && llsBytes s ≤ 0x4000 && 0x4000 + 4 ≤ scratchTop s && scratchTop s == 0x1000000,
     sUp.berm.share * 2 ^ 24 == scratchTop sUp && [0, 8].all (fun n => let s : State := { sUp with berm := { sUp.berm with share := 4 }, regs := { sUp.regs with spillCtl := 0x10000 } }
       decide (n < llsBytes s)),  hTyp (hop 0 0) == 0x33 && hf (hop 0 0) 35 1 == 0,
     [1, 255].all (fun n => decide (0 < hf (hop n 0) 35 1) && hSrc (hop n 0) != (ownEid sUp).toNat) &&
       hopEid (BitVec.ofNat 128 (leField (leBytes 16 7) 0 16)) != (ownEid sUp).toNat,
     hTyp (hd 0x34 []) == 0x34 && leField fwd 0 1 == 0x32, hTyp (hd 0x52 [(48, 1, 2)]) == 0x52 && hf (hd 0x52 [(48, 1, 2)]) 48 1 == 2].all id = true := by
  decide +kernel

/-! ### Repairs, tests and injections -/

def rp (f : RepairState → RepairState) : State := { sUp with rep := f sUp.rep }
def brm (f : BermState → BermState) : State := { sUp with berm := f sUp.berm }
/-- The repair that spends a polder's spare lane, and its spare macro. -/
def spentLane (p : Nat) : State := rp fun r => { r with soft := [⟨3, laneUnit p 2, 0⟩] }
def spentMacro (p : Nat) : State := rp fun r => { r with soft := [⟨2, csramUnit p 2, 0⟩] }

theorem hyp_PolderTestsRun :
    [invB sUp && !sUp.boot.inReset && !sUp.rep.failed, (rp fun r => { r with failed := true }).rep.failed,
     [0, 7].all (fun p => ((sUp.rep.laneTest[p]?).getD none).isNone && ((sUp.rep.csramTest[p]?).getD none).isNone &&
       laneFree sUp (physOf sUp p) && csramFree sUp (physOf sUp p)),
     [0, 7].all (fun p => invB (spentLane p) && !laneFree (spentLane p) (physOf (spentLane p) p) && invB (spentMacro p) &&
       !csramFree (spentMacro p) (physOf (spentMacro p) p)),
     [0, 7].all (fun p => [0, 16].all (fun k =>
       let s := rp fun r => { r with laneTest := r.laneTest.set p (some k) }
       invB s && s.rep.inj.isNone && decide ((s.rep.laneTest[p]?).getD none = some k) && laneFree s (physOf s p))),
     [0, 7].all (fun p => [0, 7].all (fun k =>
       let s := rp fun r => { r with csramTest := r.csramTest.set p (some k) }
       invB s && s.rep.inj.isNone && decide ((s.rep.csramTest[p]?).getD none = some k) && csramFree s (physOf s p)))].all id = true := by
  decide +kernel

theorem hyp_BermTestsRun :
    let under := fun (l : List (Nat × Sector)) => brm fun b => { b with test := some ⟨895, true, l⟩ }
    [invB (under []) && (under []).berm.test.isSome && llsFree (under []) 7 && (under []).rep.inj.isNone, sUp.berm.test.isNone && !sUp.boot.inReset && !sUp.rep.failed,
     invB (under [(3, { (default : Sector) with g := 5 })]),
     [0, 895].all (fun m =>
       let s := brm fun b => { b with size := 28, nextMacro := m }
       let w := brm fun b => { b with size := 28, nextMacro := m, withdrawn := [m] }
       invB s && s.berm.test.isNone && decide (m = s.berm.nextMacro % bermMacros s) && !s.berm.withdrawn.contains m && llsFree s (m % 8) &&
         decide (m = w.berm.nextMacro % bermMacros w) && w.berm.withdrawn.contains m)].all id = true := by
  decide +kernel

/-- Two strikes of a polder, and one of another. -/
def struck : State := rp fun r => { r with strikes := [(7, 0), (7, 0), (3, 0)] }

theorem hyp_SluiceAndEngineFail :
    [invB struck && !struck.boot.inReset && !struck.rep.failed, [0, 7].all (fun p => (sluiceTasks struck p).isEmpty &&
       decide ((struck.rep.strikes.filter (fun x => x.1 == p && decide (usSince struck x.2 < 1000000))).length < 3)),
     [(false, 0), (false, 2 ^ 32 - 1), (true, 2 ^ 64 - 1)].all (fun x => throughSluice 1 0 x.1 (List.replicate 17 (x.2, 9)) == List.replicate 17 (x.2, 9)),
     let x : Sluice := { Sluice.empty with
       bankA := [packWord 1 0 false true [(5, 0)]], bankB := [packWord 1 1 false true [(6, 0)]]
       ptrs := ⟨1, 0, 1, 0, false, [false, true]⟩, ptrs2 := ⟨1, 0, 1, 0, false, [false, true]⟩ }
     x.writeStalled && x.agree && (x.cycle true none).agree && (x.cycle true none).ptrs.readBanks == [true],
     let s := { struck with hold := { struck.hold with sluice := struck.hold.sluice.set 7 { Sluice.empty with bankA := [packWord 4 0 false true [(5, 0)]] } } }
     invB s && sluiceTasks s 7 == [4],
     sUp.cmd.tasks.isEmpty, let s := rp fun r => { r with failed := true }
     invB s && s.rep.failed].all id = true := by
  decide +kernel

/-- An injection held, to be armed at a time. -/
def held (det : Byte) (at_ : Word) (armed : Bool) : State := rp fun r => { r with inj := some ⟨det, true, 0, 5, at_, armed, 0⟩ }

/-- A part whose Gauge is not sealed. -/
def sOpen : State := { sUp with fuses := { sUp.fuses with sealed := false } }

theorem hyp_InjectionsArm :
    let word := fun (det mode unit count : Nat) => BitVec.ofNat 64 (1 + 2 * mode + 2 ^ 8 * det + 2 ^ 16 * unit + 2 ^ 32 * count)
    let bad := fun (v : Word) => v.getLsbD 0 && bitsNat v 8 8 != 0 && (!isDetector (bitsNat v 8 8) || (gaugeDetector (bitsNat v 8 8) && sUp.fuses.sealed) ||
      !injUnitOk (bitsNat v 8 8) (bitsNat v 16 16) || (bitsNat v 1 1 == 0 && bitsNat v 32 32 != 0) || (bitsNat v 1 1 == 1 && bitsNat v 32 32 == 0))
    let good := fun (v : Word) => v.getLsbD 0 && isDetector (bitsNat v 8 8) && !gaugeDetector (bitsNat v 8 8) &&
      injUnitOk (bitsNat v 8 8) (bitsNat v 16 16) && bitsNat v 8 8 != 0x12 && ((bitsNat v 1 1 == 0 && bitsNat v 32 32 == 0) || (bitsNat v 1 1 == 1 && bitsNat v 32 32 != 0))
    [invB sUp && !sUp.boot.inReset && writesLive sUp && !writesLive (boo fun b => { b with phase := 3 }), bad (word 0x1F 0 0 0), bad (word 0x1C 0 0 0),
     bad (word 0x04 0 153 0), bad (word 0x04 0 0 5), bad (word 0x04 1 0 0), good (word 0x04 0 152 0), good (word 0x04 1 0 0xFFFFFFFF), good (word 1 0 0 0),
     good (word 0x1B 0 0 0), invB (held 4 0 false) && reached (held 4 0 false) 0, invB (held 4 0 true), invB (held 4 9 false) && !reached (held 4 9 false) 9,
     sUp.rep.inj.isNone, invB sOpen && writesLive sOpen && !sOpen.fuses.sealed && isDetector 0x1C && gaugeDetector 0x1C && injUnitOk 0x1C 0].all id = true := by
  decide +kernel

/-- A task at its drain point, with or without an earlier task. -/
def drainer (op : Byte) (p : Packet) (w : Work) (early : Bool) (s : State) : State :=
  let t := { newTask 2 1 op p 0x20 (liveCfg s) with phase := .running w }
  { s with cmd := { s.cmd with nextTask := 3, tasks := (if early then [newTask 1 1 0x21 (mk 0x21 []) 0x20 (liveCfg s)] else []) ++ [t] } }

theorem hyp_DrainedWorkRuns :
    let cfg := fun (e : Bool) => drainer 0x60 (mk 0x60 [(8, 1, 28), (9, 1, 9), (12, 4, 5)]) .bermConfig e sUp
    let rep := fun (undo : Nat) (e : Bool) => drainer 0x74 (mk 0x74 [(8, 1, 3), (9, 1, undo), (10, 2, 152)]) .repair e sUp
    let self := fun (e : Bool) => drainer 0x75 (mk 0x75 [(8, 1, 3), (12, 8, 0x40020000)]) .selftest e sT0
    let is := fun (p : Work → Bool) (s : State) => invB s && ((runningWork s p).any (fun t => t.id == 2))
    [[true, false].all (fun e => is (fun w => w matches .bermConfig) (cfg e) && earlierGone (cfg e) 2 == !e),
     [true, false].all (fun e => [0, 1].all (fun u => is (fun w => w matches .repair) (rep u e) && earlierGone (rep u e) 2 == !e)),
     (runningWork (rep 0 false) (fun w => w matches .repair)).any (fun t => decide (2 < pf t.pkt 8 1)),
     [true, false].all (fun e => is (fun w => w matches .selftest) (self e) && earlierGone (self e) 2 == !e),
     invB sUp && (runningWork sUp (fun w => w matches .bermConfig)).isNone && (runningWork sUp (fun w => w matches .repair)).isNone &&
       (runningWork sUp (fun w => w matches .selftest)).isNone,
     invB { (brm fun b => { b with sets := [(3, [{ (default : Sector) with freq := 9 }])] }) with boot := sUp.boot }].all id = true := by
  decide +kernel

/-- A self-test of the sets whose units are few enough: its block's address answers, and so does the write of the block. -/
theorem hyp_DrainedWorkRuns_selftest :
    let s := drainer 0x75 (mk 0x75 [(8, 1, 3), (12, 8, 0x40020000)]) .selftest false sT0
    (match (demand 0x40020000 true).go (some 2) s with
      | (.ok _, _) =>
        let v := (runSets 3 [] (.task 2) { s with rep := { s.rep with busy := none } }).st
        let r := selftestBlock 3 ⟨[], [], none, none, v⟩ v
        match (writeVa 0x40020000 r.1).go (some 2) r.2 with | (.ok _, _) => true | _ => false
      | _ => false) = true := by
  decide +kernel

/-! ### Rings, look-ups, tables, streams, walks -/

def ringIn (st : RingState) (f : Ring → Ring) (s : State) : State := ringSet 1 (f { ringGet s 1 with st := st, depthLog2 := 6 }) s
def doorbell (sq cq : Nat) : Word := BitVec.ofNat 64 (cq * 2 ^ 32 + sq)
def tasked (op : Byte) (ph : Phase) (flags : BitVec 16) (s : State) : State :=
  { s with cmd := { s.cmd with nextTask := 2, tasks := [{ newTask 1 1 op (mk op lk flags) 0x20 (liveCfg s) with phase := ph, bind := some (5, 1) }] } }
/-- A ring whose completion queue is held, with one task that has ended. -/
def sDone (r : Result) (flags : BitVec 16) (f : Ring → Ring) : State :=
  let s := tasked 0x20 (.done r) flags (ringIn .enabled (fun r => f { r with cqBase := 0x40050000, cqWb := 0x40060000 }) sT1)
  { s with xl := { s.xl with ringStore := [(1, s.xl.tlb)] } }

theorem hyp_RingsServed :
    let s := ringIn .enabled id sT1
    let bad := fun (v : Word) => decide (64 < ((ringGet s 1).cqTail - bits v 32 32).toNat) || decide (64 < (v.setWidth 32 - (ringGet s 1).sqHead).toNat)
    let late := fun (st : RingState) => ringIn st (fun r => { r with cqTail := 64 }) sT1
    let drain := ringIn .draining (fun r => { r with drainTask := some 1 }) (tasked 0x03 (.running (.ringDrain 1)) 0 sT1)
    [invB s && !s.boot.inReset && s.rep.inj.isNone && writesLive s && (ringGet s 1).st == .enabled && ringDepth (ringGet s 1) == 64,
     (ringGet sUp 9).st == .disabled && !writesLive (boo fun b => { b with phase := 3 }),
     [doorbell 0 0, doorbell 64 0, doorbell 64 0xFFFFFFC0].all (fun v => !bad v), [doorbell 65 0, doorbell 0xFFFFFFFF 0, doorbell 0 1, doorbell 0 0xFFFFFFBF].all bad,
     [RingState.error, .draining].all (fun st => invB (late st) && (ringGet (late st) 1).st == st &&
       decide (((ringGet (late st) 1).cqTail - bits (doorbell 0 0) 32 32).toNat ≤ 64) && decide (64 < ((ringGet (late st) 1).cqTail - bits (doorbell 0 65) 32 32).toNat)),
     invB drain && (ringGet drain 1).st == .draining && (ringTasks drain 1).all (fun x => x.id == 1) && (ringGet drain 1).drainTask == some 1,
     let other := ringIn .draining (fun r => { r with drainTask := none }) (tasked 0x03 (.running .semWait) 0 sT1)
     invB other && (ringTasks other 1).any (fun x => some x.id != (ringGet other 1).drainTask),
     let free := ringIn .draining id sT1
     (ringGet free 1).st == .draining && (ringTasks free 1).isEmpty && (ringGet free 1).drainTask.isNone,
     (taskOf sT1 1).isNone, (taskOf (tasked 0x20 (.running .semWait) 0 sT1) 1).any (fun t => !t.isDone)].all id = true := by
  decide +kernel

theorem hyp_RingsServed_completion :
    let is := fun (s : State) (q : Task → Bool) => invB s && !s.boot.inReset && s.rep.inj.isNone && !writesHeld s && (taskOf s 1).any (fun t => !pPeerFlush t.pkt && t.origin.isNone && q t)
    let ok : Result := ⟨stOk, 0, 0, 5⟩
    let full := sDone ok 0 (fun r => { r with cqTail := 64 })
    let quiet := sDone ok 4 id
    let s := sDone ok 0 id
    [is full (fun t => wantsRecord t ok) && cqFull (ringGet full 1) && !(ringGet full 1).discard, is quiet (fun t => !wantsRecord t ok),
     is s (fun t => wantsRecord t ok && t.ring == 1) && !cqFull (ringGet s 1) && s.host.dir.isEmpty && (taskOf s 1).any (fun t => t.op != 0x33) && (ringWrite 1 (cqSlot (ringGet s 1) 0) (List.replicate 32 7) s).1].all id = true := by
  decide +kernel

theorem hyp_RingsServed_completion_record :
    let s := sDone ⟨stOk, 0, 0, 5⟩ 0 id
    (ringWrite 1 (cqSlot (ringGet s 1) (ringGet s 1).cqTail) (completionBytes 7 ⟨stOk, 0, 0, 5⟩ (now s)) s).1 = true := by
  decide +kernel

/-- A fetch of row 3 of the table's block, which no list waits for. -/
def fetch3 : Fetch := ⟨7, none, 5, 1, ⟨0, 3, 1, [], [], []⟩, true, false, [], [], []⟩
def withFetch (s : State) : State := { s with hold := { s.hold with fetches := [fetch3] } }
def noRun : LookupRun := LookupRun.empty
def window3 : Window := ⟨0, 0, [0], [], [], [(0, [⟨0, 3, 1, [⟨0, 0x3F800000⟩], [], []⟩])], [(3, 0x3F800000)], false, 0⟩
def noUpdate : UpdateRun := ⟨[], [], [], 0, none⟩
/-- A closed gradient of row 3 with nothing in it. -/
def grad3 : Grad := ⟨5, 1, 0, 3, some 1, [], 0, 0, false, [], 0, none, []⟩
def withGrad (s : State) : State := { s with grad := { s.grad with grads := [grad3] } }
def wholeBucket : Bucket := { (default : Bucket) with src := 3, tid := 5, ver := 9, segs := 2, got := 2, added := 7, len := 70000 }

theorem hyp_EngineWorkRuns :
    let look := fun (l : LookupRun) => tasked 0x20 (.running (.lookup l)) 0 sT0
    let upd := fun (u : UpdateRun) => withGrad (tasked 0x32 (.running (.update u)) 0 sT0)
    let admits := fun (l : LookupRun) =>
      invB (look l) && (taskOf (look l) 1).any (fun t => lookupRunOf t == some l && l.failing.isNone &&
        ((bindVersion t).go (some 1) (look l)).1.toOption.isSome)
    let moved := withFetch (withMoving (world sR0))
    let waits := { moved with xl := { moved.xl with walks := [⟨1, 0x42000000, false, false, none, none, some 0⟩] } }
    [invB sT0 && (taskOf sT0 1).isNone, (taskOf (upd noUpdate) 1).any (fun t => (lookupRunOf t).isNone && updateRunOf t == some noUpdate),
     (taskOf (look noRun) 1).any (fun t => (updateRunOf t).isNone), admits noRun, admits { noRun with windows := [window3] },
     (taskOf (look { noRun with failing := some ⟨stOk, 0, 0, 0⟩ }) 1).any (fun t => (lookupRunOf t).any (fun l => l.failing.isSome)),
     sT0.hold.fetches.isEmpty, invB (withFetch sR0) && (tabGet (withFetch sR0) 5).isNone && (withFetch sR0).hold.cancels.isEmpty, invB (withFetch sT0) && (tabGet (withFetch sT0) 5).isSome &&
       ((fillComplete 7).go none (withFetch sT0)).1.toOption.isSome,
     invB waits && (match (fillComplete 7).go none waits with | (.error (.mig 0x42000000 false), _) => true | _ => false) && waits.xl.walks.any (fun k => k.va == 0x42000000 && k.mig.isSome),
     [wholeBucket, { wholeBucket with ver := 1 }].all (fun b => let s := { sT0 with grad := { sT0.grad with buckets := [b] } }
       invB s && (s.grad.buckets.find? (fun b => decide (b.segs ≤ b.got))).isSome && ((tabGet s 5).bind (·.version b.ver)).isSome == (b.ver == 1)), sT0.grad.buckets.isEmpty,
     (match (fillComplete 7).go none moved with | (.error (.mig 0x42000000 false), _) => moved.xl.walks.isEmpty | _ => false),
     [(withMoving sT0, true), ({ sT0 with tab := { sT0.tab with tables := [] } }, false)].all (fun x =>
       let s := { tasked 0x32 (.running (.update noUpdate)) 0 x.1 with grad := { sT0.grad with grads := [{ grad3 with parts := [List.replicate 4 (0, 0)] }] } }
       invB s && (closedBy s 1).any (fun g => g.lb == 0 && g.off == 3) && (taskOf s 1).any (fun t => match (closedBy s 1) with
         | g :: _ => (match ((drainRow t noUpdate g).go (some 1) s).1 with | .error (.mig _ _) => x.2 | .error _ => !x.2 | .ok _ => false)
         | [] => false)),
     invB (upd noUpdate) && (taskOf (upd noUpdate) 1).any (fun t => ((drainRow t noUpdate grad3).go (some 1) (upd noUpdate)).1.toOption.isSome) &&
       ((closedBy (upd noUpdate) 1).find? (fun g => g.lb == 0 && g.off == 3) == some grad3) && ((closedBy (upd noUpdate) 1).find? (fun g => g.lb == 1 && g.off == 3)).isNone,
     (taskOf (upd { noUpdate with await := [(3, 0, 3)] }) 1).any (fun t => (updateRunOf t).any (fun u => u.await.any (fun a => a.2.1 == 0 && a.2.2 == 3)))].all id = true := by
  decide +kernel

def withCommit (ftime : Word) (s : State) : State :=
  { s with tab := { s.tab with tables := [(5, { tabT with versions := [⟨1, .current, true, none⟩, ⟨2, .opened, false, none⟩], commit := some ⟨2, ftime, 1⟩ })] } }
/-- The commit's task, running. -/
def committing (ftime : Word) (s : State) : State := withCommit ftime (tasked 0x11 (.running (.tableCommit 5 2)) 0 s)
def withRetire (grace : Word) (s : State) : State :=
  { s with tab := { s.tab with tables := [(5, { tabT with versions := [⟨1, .retiring, true, some ⟨grace, 1, 7, false⟩⟩, ⟨2, .current, true, none⟩] })] } }

theorem hyp_VersionsMove :
    let grandmaster := fun (s : State) => { s with time := { s.time with lock := true } }
    [invB sR0 && (tabGet sR0 5).isNone, (tabGet sT0 5).any (fun t => t.commit.isNone), invB (withCommit 9 sT0) && !reached (withCommit 9 sT0) 9,
     [0, 9].all (fun t => (tabGet (withCommit t sT0) 5).any (fun x => x.commit == some ⟨2, t, 1⟩) && (taskOf (withCommit t sT0) 1).isNone),
     [0, 9].all (fun t => invB (committing t sT0) && (tabGet (committing t sT0) 5).any (fun x => x.commit == some ⟨2, t, 1⟩) &&
       (taskOf (committing t sT0) 1).any (fun t => match t.phase with | .running _ => true | _ => false)),
     let s := { withRetire 0 sT0 with rep := { sT0.rep with inj := some ⟨5, false, 0, 0, 0, true, 0⟩ } }
     let s := { s with berm := { s.berm with sets := [(3, [{ (default : Sector) with tid := 5, slot := 1 }])] } }
     invB s && (freeable 5 1 s).isSome && (tagSweep 5 1 s).1.isSome,
     let s := grandmaster { committing 9 sT0 with time := { sT0.time with ftime := BitVec.ofNat 96 (9 * 2 ^ 32) } }
     invB s && timeLocked s && reached s 9, (freeable 5 1 sT0).isNone, invB (withRetire 0 sT0) && (freeable 5 1 (withRetire 0 sT0)).isSome,
     (freeable 5 1 (withRetire 9 sT0)).isNone, let s := { withRetire 9 sT0 with time := { sT0.time with ftime := BitVec.ofNat 96 (9 * 2 ^ 32) } }
     (freeable 5 1 s).isSome, let s := { withGrad (withRetire 0 sT0) with time := sT0.time }
     !(freeVersion (.task 1) 5 1 s).grad.grads.any (fun g => g.tid == 5 && g.ver == 1)].all id = true := by
  decide +kernel

/-- A running transfer of stream 9, at a point. -/
def transferS (f : TransferRun → TransferRun) (x : Stream) : State :=
  let s := tasked 0x41 (.running (.transfer (f ⟨9, x.src, x.dst, x.outer, true, true, some (streamPolder 9), 0, 0, [], 0, false, none, false, none⟩))) 0 sT0
  { s with strm := { s.strm with streams := [(9, x)] } }

theorem hyp_StreamsRun :
    let at_ := fun (f : TransferRun → TransferRun) (q : Task → TransferRun → State → Bool) =>
      let s := transferS f streamS
      invB s && s.rep.inj.isNone && (streamGet s 9).isSome && (match activeTransfer s 9 with | some (t, r) => q t r s | none => false)
    let n := fun (r : TransferRun) => tileCount streamS.desc r
    let blocked := fun (w : Bool) => transferS (fun r => { r with waited := w }) { streamS with empty := 4 }
    [invB sT0 && (activeTransfer sT0 9).isNone, at_ (fun r => { r with failing := some ⟨0, 0, 0, 0⟩ }) (fun _ r _ => r.failing.isSome),
     at_ (fun r => { r with flight := [(0, [5]), (1, [6])] }) (fun _ r _ => decide (2 ≤ r.flight.length)), at_ (fun r => { r with next := 4 }) (fun _ r _ => n r == 4 && decide (n r ≤ r.next)),
     [true, false].all (fun w => invB (blocked w) && decide (takeEmpty { streamS with empty := 4 } (blocked w) = (false, blocked w)) &&
       (activeTransfer (blocked w) 9).any (fun x => x.2.waited == w)),
     at_ (fun r => { r with next := 3, flight := [(2, [])] }) (fun t r s => decide (r.next < n r) && decide (r.flight.length < 2) && decide (takeEmpty streamS s = (true, s)) &&
       ((orTileFault t.ring t.pkt.tag.toNat (tileStart streamS.desc r.next) (tileNeeds streamS.desc r (r.next + 1)) (moveTile t streamS r r.next)).go (some 1) s).1.toOption.isSome),
     at_ (fun r => { r with flight := [(0, [5, 6])] }) (fun _ _ s => !writesHeld s),
     at_ (fun r => { r with next := 2, signalled := 0, flight := [(0, []), (1, [5])] }) (fun t r s => !writesHeld s && decide (0 < n r) &&
       let w := (signalFull t.id streamS (transferMap t.id (fun r => { r with flight := [(1, [5])] }) (waitStarts s)))
       w.1.isNone && ((taskOf w.2 t.id).bind transferRunOf).any (fun r => !r.flight.isEmpty)),
     at_ (fun r => { r with next := 4, signalled := 4, flight := [(4, [])] }) (fun t r s => n r == 4 && !writesHeld s &&
       decide ((taskOf (transferMap t.id (fun r => { r with flight := [] }) (waitStarts s)) t.id).bind transferRunOf = some { r with flight := [] })),
     let s := { tasked 0x44 (.running .semWait) 0 sT0 with regs := { sT0.regs with wdogCtl := 0x10001 }, time := { sT0.time with elapsed := BitVec.ofNat 96 (2 ^ 60) } }
     invB s && s.regs.wdogCtl.getLsbD 16 && decide (1000 ≤ usSince s s.strm.wdogSince) && s.cmd.tasks.all (fun w => (cycleOf s w.id).isNone) &&
       ((s.cmd.tasks.filter (isWaiting s)).getLast?).isSome,
     let s := { tasked 0x44 (.running .semWait) 0 sT0 with regs := { sT0.regs with wdogCtl := 0x10001 } }
     invB s && decide (usSince s s.strm.wdogSince < 1000), let s := { sT0 with regs := { sT0.regs with wdogCtl := 0x3E8 } }
     invB s && !s.regs.wdogCtl.getLsbD 16].all id = true := by
  decide +kernel

def xlt (f : XlateState → XlateState) (s : State) : State := { s with xl := f s.xl }
def withWalk (w : Walk) (s : State) : State := xlt (fun x => { x with walks := [w], nextWalk := 9 }) s
def batch0 : Batch := ⟨3, [], 0, 0, 0, 0⟩
/-- A fault queue of two slots, its memory held. -/
def sQueue : State :=
  let s := xlt (fun x => { x with fcStore := x.tlb, waiting := [batch0] }) sT0
  { s with regs := { s.regs with fcQueue := 0x41000001 } }
def nearIn (n : Nat) : State :=
  let s := tasked 0x34 (.running (.atomic ⟨[], 0, none⟩)) 0 sT0
  { s with host := { s.host with nearReqs := [⟨8, 1, none, 0x1000800, 1, [0x3F800000], n⟩] } }

theorem hyp_WalksAndFaults :
    let w : Walk := ⟨7, 0, false, true, none, none, none⟩
    let wm : Walk := ⟨7, 0, false, false, some 1, none, some 0⟩
    let moving := withWalk wm (withMoving (world sR0))
    let late := { moving with time := { sT0.time with elapsed := BitVec.ofNat 96 (2 ^ 60) } }
    let req := fun (a : Nat) (wr : Nat) => BitVec.ofNat 64 (a + wr * 2 ^ 63)
    let ro := xlt (fun x => { x with tlb := x.tlb.map (fun y => { y with w := false }) }) sT0
    [invB sT0 && (sT0.xl.walks.find? (fun w => w.id == 7)).isNone, [withWalk w sT0, withWalk w (withMoving (world sR0))].all invB && w.spec && w.mig.isNone,
     !wm.spec && wm.mig == some 0 && wm.task == some 1 && invB moving && stillMoving wm.va moving && decide (usSince moving 0 < 1000),
     invB late && decide (1000 ≤ usSince late 0), invB (withWalk wm sT0) && !stillMoving wm.va (withWalk wm sT0),
     sT0.xl.open_.isNone && sT0.xl.waiting.isEmpty, invB (xlt (fun x => { x with open_ := some batch0 }) sT0),
     invB sQueue && fcQlog2 sQueue != 0 && fcFree sQueue, writesLive sT0 && !sT0.boot.inReset && sT0.xl.convert.isNone,
     !writesLive (boo fun b => { b with phase := 3 }) && (xlt (fun x => { x with convert := some 0 }) sT0).xl.convert.isSome,
     [(0x40000000, 1), (0x7FFFFFFF, 0)].all (fun a => (tlbFind sT0 (bitsNat (req a.1 a.2) 0 52)).any (fun x => x.w && (match x.at (bitsNat (req a.1 a.2) 0 52) with | .dev _ => true | _ => false))),
     invB ro && (tlbFind ro (bitsNat (req 0x40000000 1) 0 52)).any (fun x => !x.w) && (req 0x40000000 1).getLsbD 63,
     sT0.host.nearReqs.isEmpty, [0, 14, 15, 16].all (fun n => invB (nearIn n) && (nearIn n).host.nearReqs.any (fun r => r.id == 8 && r.nacks == n)),
     [0, 15].all (fun n => (nearIn n).host.nearReqs.all (fun q => (hostHolds (nearIn n) q.line).isNone &&
       ((winNear q).go (some q.task) (dropReq 8 (nearIn n))).1.toOption.isSome && ((turnFar q).go (some q.task) (dropReq 8 (nearIn n))).1.toOption.isSome))].all id = true := by
  decide +kernel

/-! ### Ill-formed commands -/

/-- Each check of `Instr.wf` refuses a command just outside its range, and takes the last one inside. -/
theorem states_illFormed :
    let p := mk 0x00 []
    let h : Header := 0
    [(Instr.nop 16384 p, Instr.nop 16383 p), (.doorbellWrite 16384 8 0, .doorbellWrite 16383 8 0), (.doorbellWrite 0 3 0, .doorbellWrite 0 1 0),
     (.ringDrainEnd 16384, .ringDrainEnd 16383), (.sluicePointerMismatch 8, .sluicePointerMismatch 7), (.tableCommitPoint (2 ^ 24), .tableCommitPoint (2 ^ 24 - 1)),
     (.versionFree (2 ^ 24) 0, .versionFree (2 ^ 24 - 1) 0), (.streamTileWrite 4096, .streamTileWrite 4095), (.streamTileLanded 4096, .streamTileLanded 4095),
     (.siteOffline 5, .siteOffline 4), (.hbmRowCeReport 2 0 0 0, .hbmRowCeReport 1 63 63 (2 ^ 20 - 1)), (.hbmRowCeReport 0 64 0 0, .hbmRowCeReport 0 63 0 0),
     (.hbmRowCeReport 0 0 64 0, .hbmRowCeReport 0 0 63 0), (.hbmRowCeReport 0 0 0 (2 ^ 20), .hbmRowCeReport 0 0 0 0), (.hbmPprDone 4 0, .hbmPprDone 3 255),
     (.hbmPprDone 0 256, .hbmPprDone 0 0), (.hostLinkUp 4 0 0, .hostLinkUp 3 15 15), (.hostLinkUp 0 16 0, .hostLinkUp 0 0 0), (.hostLinkUp 0 0 16, .hostLinkUp 1 0 0),
     (.hostLinkLost 4, .hostLinkLost 3), (.hostWindowAccess 4 0 1 none, .hostWindowAccess 3 0 1 none), (.hostWindowAccess 0 63 2 none, .hostWindowAccess 0 63 1 none), (.hostSnoop 4 0, .hostSnoop 3 0),
     (.birspiReceive 4 0 none, .birspiReceive 3 0 none), (.probeReceive 128 h, .probeReceive 127 h), (.probeReplyReceive 128 h, .probeReplyReceive 127 h),
     (.portLinkDown 128, .portLinkDown 127), (.d2dDieLost 16, .d2dDieLost 15), (.clockWindowEnd (2 ^ 32) false, .clockWindowEnd (2 ^ 32 - 1) false),
     (.metrologyCalWrite 64 0, .metrologyCalWrite 63 0), (.laneTest 8, .laneTest 7), (.laneTestEnd 8 true, .laneTestEnd 7 true),
     (.csramMacroTest 9, .csramMacroTest 8), (.csramMacroTestEnd 9 .pass, .csramMacroTestEnd 8 .pass), (.stageWrite (2 ^ 16) 0, .stageWrite (2 ^ 16 - 1) 0),
     (.registerWrite (2 ^ 24) 8 0, .registerWrite (2 ^ 24 - 1) 8 0), (.registerWrite 0 16 0, .registerWrite 0 2 0),
     (.misalignedRegisterRead (2 ^ 24) 8, .misalignedRegisterRead (2 ^ 24 - 1) 4), (.misalignedRegisterRead 0 0, .misalignedRegisterRead 0 1),
     (.memoryTrained 256 0, .memoryTrained 255 0), (.memoryTrained 0 (2 ^ 16), .memoryTrained 0 (2 ^ 16 - 1))].all (fun x => !x.1.wf && x.2.wf) = true := by
  decide +kernel

theorem states_longPayload (h : Header) (b : Byte) :
    (Instr.relayChunkReceive h (List.replicate 65537 b)).wf = false ∧ (Instr.relayChunkReceive h (List.replicate 65536 b)).wf = true := by
  simp only [Instr.wf, payloadOk, List.length_replicate]
  decide

/-! ### Small checks of this model -/

/-- R41: the bytes "123456789" yield 0xE306_9283. -/
theorem test_crc32c : crc32c [0x31, 0x32, 0x33, 0x34, 0x35, 0x36, 0x37, 0x38, 0x39] = 0xE3069283 := by decide +kernel

/-- FIPS 180-4, the message "abc". -/
theorem test_sha256 : leNat (sha256 [0x61, 0x62, 0x63]).reverse = 0xBA7816BF8F01CFEA414140DE5DAE2223B00361A396177A9CB410FF61F20015AD := by
  decide +kernel

/-- Right after reset no command waits, no ring is enabled, memory lists nothing, and the engine waits in phase 0x1. -/
theorem test_reset : State.reset.pending = [] ∧ State.reset.cmd.rings = [] ∧ State.reset.mem.dev = [] ∧ State.reset.boot.phase = 1 ∧ State.reset.Inv :=
  ⟨rfl, rfl, rfl, rfl, inv_of (by decide +kernel)⟩

theorem test_decode (n w : Nat) : decodeTableWord n w = none := rfl

/-- R55: NOP is taken from its ring, and completes. -/
theorem test_nop : (ringGet (after (.nop 1 (mk 0x00 [])) sR1) 1).sqHead = 1 := by decide +kernel

/-- R39, Table Cmd-20: a packet whose own CRC fails ends with CRC_ERROR under the tag 0xFFFF_FFFF, and its ring goes on. -/
theorem test_badCrc :
    let s := after (.nop 1 { mk 0x00 [] with crc := 5 }) sR1
    (ringGet s 1).st = .enabled ∧ s.cmd.tasks.map (fun t => (t.phase, t.pkt.tag)) = [(.done ⟨0x22, 0x010000, 0, 0⟩, 0xFFFFFFFF)] := by
  decide +kernel

/-- R292: an addition saturates at 2^32 - 1. -/
theorem test_semSaturates : semGet (semAdd 7 5 .nobody (semPut 7 0xFFFFFFFE sUp)) 7 = 0xFFFFFFFF := by decide +kernel

/-- R317: the check nibble of an entry of zeros is 5. -/
theorem test_pteCheck : pteCheck 0 = 5 ∧ sealPte 0x47 = 0x6000000000000047 := by decide +kernel

end Sys2Proof.Tests
end

section
/-! PROOFS. What reading a packet leaves unchanged: a ring's RCT entry is written to device memory, which touches memory and
what the engine keeps of the host's lines alone; the packet's task joins the front end's tasks, and its turn and count are noted. -/

namespace Sys2Proof.Machine

/-! ### Writes of device memory -/

/-- `t` differs from `s` in memory and in what the engine keeps of the host's lines at most (R391, R392). -/
def MemHostOnly (s t : State) : Prop := t = { s with mem := t.mem, host := t.host }

namespace MemHostOnly

theorem trans {s t u : State} (h : MemHostOnly s t) (k : MemHostOnly t u) : MemHostOnly s u :=
  Eq.trans k (by rw [h])

theorem cmd {s t : State} (h : MemHostOnly s t) : t.cmd = s.cmd := by rw [h]

end MemHostOnly

theorem clearPoison_memHostOnly (a n : Nat) (s : State) : MemHostOnly s (clearPoison a n s) := by
  unfold clearPoison
  split <;> rfl

/-- A write of one line, with the poison it clears. -/
theorem clearPoison_rawWriteDev_memHostOnly (a k n : Nat) (b : Bytes) (s : State) :
    MemHostOnly s (clearPoison k n (rawWriteDev a b s)) :=
  MemHostOnly.trans (t := rawWriteDev a b s) rfl (clearPoison_memHostOnly k n _)

theorem evictNear_memHostOnly (k : Nat) (l : Option Nat) (s : State) : MemHostOnly s (evictNear k l s) := by
  have dropped : ∀ q, MemHostOnly s { s with host := { s.host with near := s.host.near.filter q } } := fun _ => rfl
  unfold evictNear
  split
  · rfl
  · simp only
    split
    · rfl
    · split
      · exact (dropped _).trans (clearPoison_rawWriteDev_memHostOnly _ _ _ _ _)
      · rfl

theorem backInvalidate_memHostOnly (d : DirLine) (w : List (Nat × Bytes)) (s : State) :
    MemHostOnly s (backInvalidate d w s) := by
  unfold backInvalidate
  split <;> rfl

theorem writeDevLine_memHostOnly (a : Nat) (b : Bytes) (s : State) : MemHostOnly s (writeDevLine a b s) := by
  have h := evictNear_memHostOnly (a / 64) none s
  unfold writeDevLine
  simp only
  split
  · exact h.trans (backInvalidate_memHostOnly _ _ _)
  · exact h.trans (clearPoison_rawWriteDev_memHostOnly _ _ _ _ _)

theorem writeDevLines_memHostOnly (a : Nat) (b : Bytes) (s : State) : MemHostOnly s (writeDevLines a b s) := by
  unfold writeDevLines
  induction splitLines b.length a b generalizing s with
  | nil => rfl
  | cons x l ih => exact (writeDevLine_memHostOnly x.1 x.2 s).trans (ih _)

theorem ringSet_memHostOnly (n : Nat) (r : Ring) (s : State) :
    MemHostOnly { s with cmd := { s.cmd with rings := smapSet s.cmd.rings n r } } (ringSet n r s) := by
  unfold ringSet
  simp only
  split
  · exact writeDevLines_memHostOnly _ _ _
  · rfl

/-! ### A packet's turn -/

/-- Besides memory and the host's lines, `t` differs from `s` in the front end's rings, turns and acceptance counts at most. -/
def TurnOnly (s t : State) : Prop :=
  t = { s with
    mem := t.mem
    host := t.host
    cmd := { s.cmd with
      rings := t.cmd.rings
      recent := t.cmd.recent
      lastRing := t.cmd.lastRing
      fastAccepted := t.cmd.fastAccepted
      fwAccepted := t.cmd.fwAccepted
      sat64 := t.cmd.sat64 } }

namespace TurnOnly

theorem trans {s t u : State} (h : TurnOnly s t) (k : TurnOnly t u) : TurnOnly s u :=
  Eq.trans k (by rw [h])

theorem regs {s t : State} (h : TurnOnly s t) : t.regs = s.regs := by rw [h]
theorem gov {s t : State} (h : TurnOnly s t) : t.gov = s.gov := by rw [h]
theorem tasks {s t : State} (h : TurnOnly s t) : t.cmd.tasks = s.cmd.tasks := by rw [h]
theorem staged {s t : State} (h : TurnOnly s t) : t.cmd.staged = s.cmd.staged := by rw [h]

end TurnOnly

theorem MemHostOnly.turnOnly {s t : State} (h : MemHostOnly s t) : TurnOnly s t := by
  unfold TurnOnly
  rw [h.cmd]
  exact h

theorem ringSet_turnOnly (n : Nat) (r : Ring) (s : State) : TurnOnly s (ringSet n r s) :=
  have held : TurnOnly s { s with cmd := { s.cmd with rings := smapSet s.cmd.rings n r } } := rfl
  held.trans (ringSet_memHostOnly n r s).turnOnly

theorem countAccept_turnOnly (op : Byte) (s : State) : TurnOnly s (countAccept op s) := by
  unfold countAccept
  split <;> rfl

theorem noteTurn_turnOnly (n : Nat) (s : State) : TurnOnly s (noteTurn n s) := by
  unfold noteTurn
  split <;> rfl

/-- Everything of `tookTask` but the new task itself. -/
theorem tookTask_turnOnly (op : Byte) (n : Nat) (t : Task) (s : State) :
    TurnOnly { s with cmd := { s.cmd with nextTask := s.cmd.nextTask + 1, tasks := s.cmd.tasks ++ [t] } } (tookTask op n t s) := by
  have h := ((ringSet_turnOnly n { ringGet s n with sqHead := (ringGet s n).sqHead + 1 } s).trans
    (countAccept_turnOnly op _)).trans (noteTurn_turnOnly n _)
  unfold tookTask
  simp only
  rw [h]
  rfl

@[simp] theorem tookPacket_regs (op : Byte) (n : Nat) (p : Packet) (s : State) : (tookPacket op n p s).regs = s.regs :=
  (tookTask_turnOnly op n _ s).regs

@[simp] theorem tookPacket_gov (op : Byte) (n : Nat) (p : Packet) (s : State) : (tookPacket op n p s).gov = s.gov :=
  (tookTask_turnOnly op n _ s).gov

@[simp] theorem tookPacket_staged (op : Byte) (n : Nat) (p : Packet) (s : State) :
    (tookPacket op n p s).cmd.staged = s.cmd.staged :=
  (tookTask_turnOnly op n _ s).staged

@[simp] theorem tookPacket_tasks (op : Byte) (n : Nat) (p : Packet) (s : State) :
    (tookPacket op n p s).cmd.tasks = s.cmd.tasks ++ [packetTask op n p s] :=
  (tookTask_turnOnly op n _ s).tasks

@[simp] theorem packetTask_id (op : Byte) (n : Nat) (p : Packet) (s : State) : (packetTask op n p s).id = s.cmd.nextTask := rfl

/-- Under the invariant no earlier task has the new number, so the number finds the packet's own task. -/
theorem taskOf_tookPacket {s : State} (hs : s.Inv) (op : Byte) (n : Nat) (p : Packet) :
    taskOf (tookPacket op n p s) s.cmd.nextTask = some (packetTask op n p s) := by
  have hold : s.cmd.tasks.find? (fun t => t.id == s.cmd.nextTask) = none := by
    rw [List.find?_eq_none]
    intro t ht
    have hlt := hs.2 t ht
    simp only [beq_iff_eq]
    omega
  simp [taskOf, List.find?_append, hold]

/-- Reading a packet sets a flag of it at most. -/
@[simp] theorem keptPacket_params (s : State) (n : Nat) (p : Packet) : (keptPacket s n p).params = p.params := by
  simp only [keptPacket, taskPacket, Bool.not_true, Bool.false_eq_true, if_false]
  split <;> rfl

@[simp] theorem pf_packetTask (op : Byte) (n : Nat) (p : Packet) (s : State) (lo k : Nat) :
    pf (packetTask op n p s).pkt lo k = pf p lo k := by
  simp only [pf, packetTask, newTask, keptPacket_params]

/-! ### Steps 4 to 6 -/

/-- A packet that fails step 4 ends with the failing check. -/
theorem acceptPacket_failsStep4 {op : Byte} {n : Nat} {p : Packet} {s : State} {step4 : Byte → Packet → Checks} {r : Result}
    (begin_ : Nat → State → State) (hr : Reads op n p s)
    (hh : headChecks op n (ringGet s n).proto ((ringGet s n).sqHead.toNat % ringDepth (ringGet s n)) true p = none)
    (hf : step4Fail op (ringGet s n).proto p (step4 (ringGet s n).proto p) = some r) :
    acceptPacket op step4 begin_ n p s = finishTask s.cmd.nextTask r (tookPacket op n p s) := by
  rw [acceptPacket_reads step4 begin_ hr, hh]
  simp only [hf]

/-- Where an opcode has a check table and the reserved bits are clear, step 4 reports the table's first failure (R520). -/
theorem step4Fail_eq_firstFail {op proto : Byte} {p : Packet} (cs : Checks) (ho : byteOrderOp op = false)
    (hz : reservedAt op proto p = none) : step4Fail op proto p cs = firstFail cs := by
  simp [step4Fail, ho, hz]

/-- A task whose checks fail ends with their result. -/
theorem beginNow_fails {whole : Task → Act Unit} {id : Nat} {s u : State} {t : Task} {r : Result} (ht : taskOf s id = some t)
    (hw : (whole t).go (some id) s = (.error (.fail r), u)) : beginNow whole id s = finishTask id r u := by
  simp only [beginNow, ht, hw]
  rfl

/-- A task that passes its checks, and is neither turned away nor held, takes effect. -/
theorem beginNow_starts {whole : Task → Act Unit} {id : Nat} {s u : State} {t : Task} (ht : taskOf s id = some t)
    (hw : (whole t).go (some id) s = (.ok (), u)) (hb : mayBegin t s = true) : beginNow whole id s = u := by
  obtain ⟨hfull, hheld⟩ : (s.xl.overflow && !overflowExempt t.op) = false ∧ (pOrdered t.pkt && earlierTask s t) = false := by
    simpa only [mayBegin, Bool.and_eq_true, Bool.not_eq_true'] using hb
  simp only [beginNow, ht, hw, hfull, hheld, Bool.false_eq_true, if_false]

/-! ### Accesses run step by step -/

/-- What follows an access runs on the state and the value that the access yields. -/
theorem go_bind_ok {α β : Type} {a : Act α} {id : Option Nat} {s u : State} {x : α} (f : α → Act β) (h : a.go id s = (.ok x, u)) :
    (a >>= f).go id s = (f x).go id u := by
  change (let (y, u) := a.go id s; (ExceptT.bindCont (fun x => f x ⟨id, id, 0⟩) y : StateM State (Except Stop β)) u) = _
  rw [h]
  rfl

/-- What follows an access that stops does not run. -/
theorem go_bind_error {α β : Type} {a : Act α} {id : Option Nat} {s u : State} {e : Stop} (f : α → Act β)
    (h : a.go id s = (.error e, u)) : (a >>= f).go id s = (.error e, u) := by
  change (let (y, u) := a.go id s; (ExceptT.bindCont (fun x => f x ⟨id, id, 0⟩) y : StateM State (Except Stop β)) u) = _
  rw [h]
  rfl

/-- Checks of which one fails end the access with the first such. -/
theorem go_need_fails {cs : Checks} {r : Result} (id : Option Nat) (s : State) (h : firstFail cs = some r) :
    (need cs).go id s = (.error (.fail r), s) := by
  simp only [need, h]
  rfl

theorem go_need_passes {cs : Checks} (id : Option Nat) (s : State) (h : firstFail cs = none) :
    (need cs).go id s = (.ok (), s) := by
  simp only [need, h]
  rfl

end Sys2Proof.Machine
end

section
/-! PROOFS. GOV_POLICY (R364). -/

namespace Sys2Proof.Machine

/-! ### Its checks and its effect -/

/-- R364's table, as the first failing row. -/
theorem firstFail_govPolicyStep4 (proto : Byte) (p : Packet) :
    firstFail (govPolicyStep4 proto p) =
      if pf p 8 1 < 70 ∨ 95 < pf p 8 1 then some (rBadParam 3 8)
      else if pf p 9 1 < 40 ∨ pf p 8 1 ≤ pf p 9 1 then some (rBadParam 3 9)
      else if pf p 12 2 ≠ 0 ∧ (pf p 12 2 < 80 ∨ 360 < pf p 12 2) then some (rBadParam 3 12)
      else none := by
  by_cases h1 : pf p 8 1 < 70 ∨ 95 < pf p 8 1
  · simp [firstFail, govPolicyStep4, policyChecks, bad, h1]
  by_cases h2 : pf p 9 1 < 40 ∨ pf p 8 1 ≤ pf p 9 1
  · simp [firstFail, govPolicyStep4, policyChecks, bad, h1, h2]
  by_cases h3 : pf p 12 2 ≠ 0 ∧ (pf p 12 2 < 80 ∨ 360 < pf p 12 2)
  · simp [firstFail, govPolicyStep4, policyChecks, bad, h1, h2, h3]
  simp [firstFail, govPolicyStep4, policyChecks, bad, h1, h2, h3]

/-- Step 5 fails on a ceiling at or below the live P_idle. -/
theorem govPolicyWhole_fails {t : Task} {s : State} (id : Option Nat)
    (h : ceilOf (pf t.pkt 12 2) ≤ bitsNat s.regs.govGain 32 16) :
    (govPolicyWhole t).go id s = (.error (.fail (rBadParam 3 12)), s) :=
  go_bind_error _ (go_need_fails (s := s) id (by simp [firstFail, bad, h]))

/-- A ceiling above it passes, and the fields are set. -/
theorem govPolicyWhole_passes {t : Task} {s : State} (id : Option Nat)
    (h : bitsNat s.regs.govGain 32 16 < ceilOf (pf t.pkt 12 2)) :
    (govPolicyWhole t).go id s = (.ok (), startGovPolicy t s) :=
  go_bind_ok _ (go_need_passes (s := s) id (by simp [firstFail, bad, h]))

/-! ### SOL_GOV_CTL -/

/-- The word of SOL_GOV_CTL with these fields (Table Reg-1). -/
def govCtlWord (hard soft ceil : Nat) : Word := BitVec.ofNat 64 (ceil * 2 ^ 16 + soft * 2 ^ 8 + hard)

section
variable {hard soft ceil : Nat} (hh : hard < 2 ^ 8) (hs : soft < 2 ^ 8) (hc : ceil < 2 ^ 16)
include hh hs hc

theorem govCtlWord_toNat : (govCtlWord hard soft ceil).toNat = ceil * 2 ^ 16 + soft * 2 ^ 8 + hard := by
  rw [govCtlWord, BitVec.toNat_ofNat]
  omega

/-- The three fields fill the register's writable bits. -/
theorem govCtlWord_masked : govCtlWord hard soft ceil &&& 0x00000000FFFFFFFF = govCtlWord hard soft ceil := by
  apply BitVec.eq_of_toNat_eq
  rw [BitVec.toNat_and, govCtlWord_toNat hh hs hc]
  change (ceil * 2 ^ 16 + soft * 2 ^ 8 + hard) &&& (2 ^ 32 - 1) = _
  rw [Nat.and_two_pow_sub_one_eq_mod]
  omega

theorem govCtlWord_fields : bitsNat (govCtlWord hard soft ceil) 0 8 = hard ∧ bitsNat (govCtlWord hard soft ceil) 8 8 = soft ∧
    bitsNat (govCtlWord hard soft ceil) 16 16 = ceil := by
  simp only [bitsNat, govCtlWord_toNat hh hs hc]
  omega

end

/-- Registers that hold no reserved bit hold none with another SOL_GOV_CTL whose own are clear. -/
theorem tidy_withGovCtl {r : Regs} {w : Word} (hr : r.tidy = r) (hw : w &&& 0x00000000FFFFFFFF = w) :
    ({ r with govCtl := w } : Regs).tidy = { r with govCtl := w } :=
  calc ({ r with govCtl := w } : Regs).tidy = { r.tidy with govCtl := w &&& 0x00000000FFFFFFFF } := rfl
    _ = { r with govCtl := w } := by rw [hr, hw]

/-! ### The command -/

theorem exec_govPolicy (n : Nat) (p : Packet) (s : State) :
    exec (.govPolicy n p) s = leaves s (acceptPacket 0x70 govPolicyStep4 (beginNow govPolicyWhole) n p s) := rfl

section
variable {s : State} {n : Nat} {p : Packet} (hr : Reads 0x70 n p s)
  (hh : headChecks 0x70 n (ringGet s n).proto ((ringGet s n).sqHead.toNat % ringDepth (ringGet s n)) true p = none)
  (hz : reservedAt 0x70 (ringGet s n).proto p = none)
include hr hh hz

/-- A row of R364's table that fails ends the packet. -/
theorem exec_govPolicy_failsTable {r : Result} (hf : firstFail (govPolicyStep4 (ringGet s n).proto p) = some r) :
    exec (.govPolicy n p) s = leaves s (finishTask s.cmd.nextTask r (tookPacket 0x70 n p s)) := by
  rw [exec_govPolicy, acceptPacket_failsStep4 _ hr hh ((step4Fail_eq_firstFail _ (by decide) hz).trans hf)]

variable (hf : firstFail (govPolicyStep4 (ringGet s n).proto p) = none)
include hf

theorem accepts_govPolicy : Accepts 0x70 govPolicyStep4 n p s :=
  ⟨hr, hh, (step4Fail_eq_firstFail _ (by decide) hz).trans hf⟩

/-- With the table passed, a ceiling at or below the live P_idle ends the packet. -/
theorem exec_govPolicy_failsIdle (hs : s.Inv) (hi : ceilOf (pf p 12 2) ≤ bitsNat s.regs.govGain 32 16) :
    exec (.govPolicy n p) s = leaves s (finishTask s.cmd.nextTask (rBadParam 3 12) (tookPacket 0x70 n p s)) := by
  rw [exec_govPolicy, acceptPacket_accepts _ (accepts_govPolicy hr hh hz hf),
    beginNow_fails (taskOf_tookPacket hs 0x70 n p) (govPolicyWhole_fails _ (by simpa using hi))]

/-- A packet that passes takes effect at once. -/
theorem exec_govPolicy_passes (hs : s.Inv) (hi : bitsNat s.regs.govGain 32 16 < ceilOf (pf p 12 2))
    (hb : mayBegin (packetTask 0x70 n p s) (tookPacket 0x70 n p s) = true) :
    exec (.govPolicy n p) s = leaves s (startGovPolicy (packetTask 0x70 n p s) (tookPacket 0x70 n p s)) := by
  rw [exec_govPolicy, acceptPacket_accepts _ (accepts_govPolicy hr hh hz hf),
    beginNow_starts (taskOf_tookPacket hs 0x70 n p) (govPolicyWhole_passes _ (by simpa using hi)) hb]

end

/-- The effect, with the packet's own fields. -/
theorem startGovPolicy_packetTask (op : Byte) (n : Nat) (p : Packet) (s u : State) :
    startGovPolicy (packetTask op n p s) u = finishOk s.cmd.nextTask 0 { u with regs := { u.regs with
      govCtl := govCtlWord (pf p 8 1) (pf p 9 1) (pf p 12 2) } } := by
  simp only [startGovPolicy, pf_packetTask, packetTask_id, govCtlWord]

/-- What the command leaves after the fields are set: SOL_GOV_CTL holds them, from which the governor's next update takes them,
and the other registers, the governor's state and the staged values are as before. -/
theorem leaves_setGovCtl {s u : State} {hard soft ceil : Nat} (id work : Nat) (hs : s.Inv) (hr : u.regs = s.regs) (hg : u.gov = s.gov)
    (hst : u.cmd.staged = s.cmd.staged) (hh : hard < 2 ^ 8) (hsoft : soft < 2 ^ 8) (hc : ceil < 2 ^ 16) :
    ∃ t, leaves s (finishOk id work { u with regs := { u.regs with govCtl := govCtlWord hard soft ceil } }) = .next t ∧
      bitsNat t.regs.govCtl 0 8 = hard ∧ bitsNat t.regs.govCtl 8 8 = soft ∧ bitsNat t.regs.govCtl 16 16 = ceil ∧
      { t.regs with govCtl := s.regs.govCtl } = s.regs ∧ t.gov = s.gov ∧ t.cmd.staged = s.cmd.staged ∧
      hardEff t = min hard (min (tcritOf s.fuses.tcrit0) (tcritOf s.fuses.tcrit1)) := by
  have hregs : ({ u.regs with govCtl := govCtlWord hard soft ceil } : Regs).tidy =
      { s.regs with govCtl := govCtlWord hard soft ceil } := by
    rw [hr]
    exact tidy_withGovCtl hs.tidy (govCtlWord_masked hh hsoft hc)
  obtain ⟨fhard, fsoft, fceil⟩ := govCtlWord_fields hh hsoft hc
  refine ⟨_, leaves_next _ _, ?_⟩
  simp only [finishOk, mapTask_regs, mapTask_gov, hregs, hardEff]
  exact ⟨fhard, fsoft, fceil, trivial, hg, hst, congrArg (min · _) fhard⟩

/-- Settles O54: each failing row is the table's first, the ceiling is compared with P_idle once the table has passed, and a packet
that passes both sets SOL_GOV_CTL's fields. -/
theorem govPolicyChecked : Obligations.GovPolicyChecked := by
  intro s u n p hard soft ceil hs hr hu hh hz hhard hsoft hceil
  subst hu hhard hsoft hceil
  have table := firstFail_govPolicyStep4 (ringGet s n).proto p
  refine ⟨fun h1 => ?_, fun h1 h2 h3 => ?_, fun h1 h2 h3 h4 h5 h6 => ?_, fun h1 h2 h3 h4 h5 h6 => ?_, fun h1 h2 h3 h4 h5 h6 hb => ?_⟩
  · exact exec_govPolicy_failsTable hr hh hz (table.trans (if_pos h1))
  · rw [if_neg (by omega), if_pos h3] at table
    exact exec_govPolicy_failsTable hr hh hz table
  · rw [if_neg (by omega), if_neg (by omega), if_pos ⟨h5, h6⟩] at table
    exact exec_govPolicy_failsTable hr hh hz table
  · rw [if_neg (by omega), if_neg (by omega), if_neg (by omega)] at table
    exact exec_govPolicy_failsIdle hr hh hz table hs h6
  · rw [if_neg (by omega), if_neg (by omega), if_neg (by omega)] at table
    have effect := exec_govPolicy_passes hr hh hz table hs h6 hb
    rw [startGovPolicy_packetTask] at effect
    refine ⟨effect, ?_⟩
    rw [effect]
    exact leaves_setGovCtl _ _ hs (tookPacket_regs ..) (tookPacket_gov ..) (tookPacket_staged ..) (by omega) (by omega) (by omega)

end Sys2Proof.Machine
end

section
/-! PROOFS. Power of the Gauge's sub-island (R450) and its event log (R456). -/

namespace Sys2Proof.Machine

/-! ### The event log -/

/-- R456: the new entry is the log's last, and the oldest go beyond 128. -/
theorem gaugeLog_eq (code detail : Nat) (s : State) :
    gaugeLog code detail s = { s with gauge := { s.gauge with
      log := (s.gauge.log ++ [logEntry (islandTime s.gauge) code detail s.gauge.logCount.toNat]).drop (s.gauge.log.length + 1 - 128)
      logCount := s.gauge.logCount + 1 } } := by
  simp only [gaugeLog, onGauge, List.length_append, List.length_singleton]

theorem gaugeLog_log_length (code detail : Nat) (s : State) :
    (gaugeLog code detail s).gauge.log.length = min (s.gauge.log.length + 1) 128 := by
  rw [gaugeLog_eq]
  simp only [List.length_drop, List.length_append, List.length_singleton]
  omega

/-! ### The new epoch -/

theorem gaugeInjected_none {s : State} (det : Nat) (hi : s.rep.inj = none) (hp : s.gauge.portInj = none) :
    gaugeInjected det s = (false, s) := by
  simp [gaugeInjected, injectAt_none det 0 hi, hp]

/-- The epoch that power starts where `n` bits of the epoch fuse bank are blown. -/
def nextEpoch (n : Nat) : Nat := min (n + 1) 4096

/-- What the log holds once power is up: the power-loss entry, and one of a calibration word whose self-check fails. -/
def epochLog (bad : Option Nat) (e : Nat) : List (BitVec 128) :=
  logEntry 0 0x01 e 0 :: bad.toList.map (fun w => logEntry 0 0x08 w 1)

/-- The Gauge once power is up. -/
def epochGauge (bad : Option Nat) (s : State) : GaugeState :=
  { GaugeState.firstEpoch with
    epoch := nextEpoch s.fuses.epochBits
    epochsSpent := decide (4096 ≤ s.fuses.epochBits)
    calFail := bad.isSome
    log := epochLog bad (nextEpoch s.fuses.epochBits)
    logCount := if bad.isSome then 2 else 1
    inCoast := s.clk.coast
    queue := s.gauge.queue }

theorem epochGauge_spentFlag (bad : Option Nat) (s : State) :
    readoutFlags (epochGauge bad s) / 2 % 2 = if 4096 ≤ s.fuses.epochBits then 1 else 0 := by
  by_cases h : 4096 ≤ s.fuses.epochBits <;> cases bad <;> simp [readoutFlags, epochGauge, GaugeState.firstEpoch, h]

/-- The state in which the new epoch has its power-loss entry, and no word has been reported. -/
def epochBegun (failed : Bool) (s : State) : State :=
  gaugeLog 0x01 (nextEpoch s.fuses.epochBits) { s with
    gauge := { GaugeState.firstEpoch with
      epoch := nextEpoch s.fuses.epochBits
      log := []
      logCount := 0
      epochsSpent := decide (4096 ≤ s.fuses.epochBits)
      calFail := failed
      inCoast := s.clk.coast
      queue := s.gauge.queue }
    fuses := { s.fuses with epochBits := nextEpoch s.fuses.epochBits } }

/-- Island time starts at zero with the epoch. -/
theorem islandTime_zero {g : GaugeState} (h : g.island = 0) : islandTime g = 0 := by
  rw [islandTime, h]
  rfl

theorem epochBegun_gauge (failed : Bool) (s : State) :
    (epochBegun failed s).gauge = { epochGauge none s with calFail := failed } := by
  rw [epochBegun, gaugeLog_eq, islandTime_zero rfl]
  simp [epochGauge, epochLog]

section
variable {s : State} (hi : s.rep.inj = none) (hp : s.gauge.portInj = none)
include hi hp

theorem gaugePowerUp_passes : gaugePowerUp none s = epochBegun false s := by
  simp only [gaugePowerUp, gaugeInjected_none 0x1D hi hp]
  rfl

theorem gaugePowerUp_fails (w : Nat) : gaugePowerUp (some w) s =
    gaugeLog 0x08 w (logErr { det := 0x1D, sev := 0 } (epochBegun true s)) := by
  simp only [gaugePowerUp, gaugeInjected_none 0x1D hi hp]
  rfl

theorem gaugePowerUp_gauge (bad : Option Nat) : (gaugePowerUp bad s).gauge = epochGauge bad s := by
  cases bad with
  | none =>
    rw [gaugePowerUp_passes hi hp, epochBegun_gauge]
    rfl
  | some w =>
    rw [gaugePowerUp_fails hi hp, gaugeLog_eq, logErr_gauge, epochBegun_gauge, islandTime_zero rfl]
    simp [epochGauge, epochLog]

theorem gaugePowerUp_fuses (bad : Option Nat) :
    (gaugePowerUp bad s).fuses = { s.fuses with epochBits := nextEpoch s.fuses.epochBits } := by
  cases bad with
  | none =>
    rw [gaugePowerUp_passes hi hp]
    rfl
  | some w =>
    rw [gaugePowerUp_fails hi hp, gaugeLog_eq]
    exact logErr_fuses _ _

theorem gaugePowerUp_inv (hs : s.Inv) (bad : Option Nat) : (gaugePowerUp bad s).Inv := by
  have begun : ∀ failed, (epochBegun failed s).Inv := fun _ => hs
  cases bad with
  | none => exact gaugePowerUp_passes hi hp ▸ begun false
  | some w =>
    rw [gaugePowerUp_fails hi hp]
    exact logErr_inv _ (begun true)

/-- Beside the Gauge and its fuse, power changes what an error record changes. -/
theorem gaugePowerUp_logOnly (bad : Option Nat) :
    LogOnly s { gaugePowerUp bad s with gauge := s.gauge, fuses := s.fuses } := by
  cases bad with
  | none =>
    rw [gaugePowerUp_passes hi hp]
    exact LogOnly.refl s
  | some w =>
    rw [gaugePowerUp_fails hi hp]
    exact { logErr_logOnly { det := 0x1D, sev := 0 } (epochBegun true s) with fuses := rfl, gauge := rfl }

end

/-! ### The command -/

/-- An effect that moves the epoch's fuses alone leaves them no lower than they were. -/
theorem burnt_epochBits {s t : State} {e : Nat} (h : t.Inv) (hf : t.fuses = { s.fuses with epochBits := e })
    (hp : t.pending = s.pending) :
    burnt s t = .next { t with fuses := { s.fuses with epochBits := max s.fuses.epochBits e } } := by
  simp only [burnt, h.tidy, h.numbered, hf, ← hp, Nat.max_self, Bool.or_self, ite_self]

theorem exec_gaugePowerUp {s : State} (bad : Option Nat) (hs : s.Inv) (hi : s.rep.inj = none) (hp : s.gauge.portInj = none) :
    exec (.gaugePowerUp bad) s = .next { gaugePowerUp bad s with
      fuses := { s.fuses with epochBits := max s.fuses.epochBits (nextEpoch s.fuses.epochBits) } } :=
  burnt_epochBits (gaugePowerUp_inv hi hp hs bad) (gaugePowerUp_fuses hi hp bad) (gaugePowerUp_logOnly hi hp bad).pending

/-- Settles O52: power leaves `epochGauge`, whose fields are the statement's, and an entry joins the log as `gaugeLog_eq` says. -/
theorem gaugePowersUp : Obligations.GaugePowersUp := by
  constructor
  · intro s bad hs hi hp
    refine ⟨_, exec_gaugePowerUp bad hs hi hp, ?_⟩
    simp only [gaugePowerUp_gauge hi hp]
    exact ⟨rfl, rfl, rfl, epochGauge_spentFlag bad s, rfl, rfl, rfl, rfl, rfl, rfl, rfl, rfl, rfl, rfl, rfl, rfl,
      gaugePowerUp_logOnly hi hp bad⟩
  · intro s code detail
    refine ⟨gaugeLog_eq code detail s, fun _ => ?_⟩
    rw [gaugeLog_log_length]
    exact Nat.min_le_right _ _

end Sys2Proof.Machine
end

section
/-! PROOFS. A record of error as a command's whole effect, and the write of SOL_RCT_BASE (R502, R506). -/

namespace Sys2Proof.Machine

/-- A command whose whole effect is an error record leaves the record. -/
theorem leaves_logErr {s : State} (hs : s.Inv) (e : ErrRec) : leaves s (logErr e s) = .next (logErr e s) :=
  leaves_inv (logErr_inv e hs) (logErr_fuses e s) (logErr_pending e s)

/-- A command without effect leaves the state as it is. -/
theorem leaves_self {s : State} (hs : s.Inv) : leaves s s = .next s := leaves_inv hs rfl rfl

/-! ### SOL_RCT_BASE -/

theorem rctBaseWrite_allDisabled {s : State} (v : Word) (h : ∀ e ∈ s.cmd.rings, e.2.st = .disabled) :
    rctBaseWrite v s = { s with regs := { s.regs with rctBase := v &&& 0x00FFFFFFFFF00000 } } :=
  if_pos (List.all_eq_true.2 fun e he => beq_iff_eq.2 (h e he))

theorem rctBaseWrite_notDisabled {s : State} (v : Word) (h : ∃ e ∈ s.cmd.rings, e.2.st ≠ .disabled) :
    rctBaseWrite v s = misuse 0x120 s := by
  obtain ⟨e, he, hne⟩ := h
  exact if_neg fun hall => hne (beq_iff_eq.1 (List.all_eq_true.1 hall e he))

/-- Registers that hold no reserved bit hold none with another SOL_RCT_BASE under its field's mask. -/
theorem tidy_withRctBase {r : Regs} (hr : r.tidy = r) (v : Word) :
    ({ r with rctBase := v &&& 0x00FFFFFFFFF00000 } : Regs).tidy = { r with rctBase := v &&& 0x00FFFFFFFFF00000 } :=
  calc ({ r with rctBase := v &&& 0x00FFFFFFFFF00000 } : Regs).tidy
      = { r.tidy with rctBase := v &&& 0x00FFFFFFFFF00000 &&& 0x00FFFFFFFFF00000 } := rfl
    _ = { r with rctBase := v &&& 0x00FFFFFFFFF00000 } := by rw [hr, and_and_mask]

theorem exec_rctBaseWrite (v : Word) (s : State) :
    exec (.rctBaseWrite v) s = leaves s (guardWrite 0x120 (rctBaseWrite v) s) := rfl

/-- Settles O51: R502's guard first, then R506's condition on the rings. -/
theorem rctBaseGuarded : Obligations.RctBaseGuarded := by
  intro s v hs hr
  refine ⟨fun hw h => ?_, fun hw h => ?_, fun hw => ?_, rfl, fun _ => rfl⟩
  · rw [exec_rctBaseWrite, guardWrite_live _ _ hr hw, rctBaseWrite_allDisabled v h]
    exact leaves_inv ⟨tidy_withRctBase hs.tidy v, hs.2⟩ rfl rfl
  · rw [exec_rctBaseWrite, guardWrite_live _ _ hr hw, rctBaseWrite_notDisabled v h]
    exact leaves_logErr hs _
  · rw [exec_rctBaseWrite, guardWrite_early _ _ hr hw]
    exact leaves_logErr hs _

end Sys2Proof.Machine
end

section
/-! PROOFS. The doorbell (R30, R31, R515) and the end of a drain (R35). -/

namespace Sys2Proof.Machine

/-! ### The doorbell -/

theorem exec_doorbellWrite (n size : Nat) (v : Word) (s : State) :
    exec (.doorbellWrite n size v) s = leaves s (doorbellWrite n size v s) := rfl

section
variable {s : State} (n : Nat) (v : Word) (hr : s.boot.inReset = false) (hi : s.rep.inj = none)
include hr hi

/-- R502, R515: a write that is not of 8 bytes, comes early or is for a disabled ring is discarded and logged. -/
theorem doorbellWrite_discarded (size : Nat) (h : size ≠ 8 ∨ writesLive s = false ∨ (ringGet s n).st = .disabled) :
    doorbellWrite n size v s = misuse (doorbellOffset n) s := by
  by_cases h8 : size = 8
  · rcases h with h | h | h
    · exact absurd h8 h
    · simp [doorbellWrite, injectAt_none 0x1A 0 hi, hr, h8, h]
    · simp [doorbellWrite, injectAt_none 0x1A 0 hi, hr, h8, h]
  · simp [doorbellWrite, injectAt_none 0x1A 0 hi, hr, h8, misuse]

variable (hw : writesLive s = true)
include hw

/-- What a live write of 8 bytes does on an enabled ring: both halves are checked and taken together (R31). -/
theorem doorbellWrite_enabled (he : (ringGet s n).st = .enabled) :
    doorbellWrite n 8 v s =
      if ringDepth (ringGet s n) < ((ringGet s n).cqTail - bits v 32 32).toNat ∨
          ringDepth (ringGet s n) < (v.setWidth 32 - (ringGet s n).sqHead).toNat then
        ringIrq n (ringError n 1 (logErr { det := 0x02, sev := 2, phys := n, address := doorbellOffset n, ring := n } s))
      else { s with cmd := { s.cmd with rings := smapSet s.cmd.rings n { ringGet s n with
        sqTail := v.setWidth 32
        cqHead := bits v 32 32
        behind := (s.host.waiting.filter (·.data.isSome)).map (·.id)
        behindLines := (s.host.backInv.filter (fun b => !b.write.isEmpty)).map (·.line) } } } := by
  simp [doorbellWrite, injectAt_none 0x1A 0 hi, hr, hw, he]

/-- On a ring in error or draining the upper half alone is checked and taken. -/
theorem doorbellWrite_headOnly (he : (ringGet s n).st = .error ∨ (ringGet s n).st = .draining) :
    doorbellWrite n 8 v s =
      if ringDepth (ringGet s n) < ((ringGet s n).cqTail - bits v 32 32).toNat then
        logErr { det := 0x02, sev := 0, phys := n, address := doorbellOffset n, ring := n } s
      else { s with cmd := { s.cmd with rings := smapSet s.cmd.rings n { ringGet s n with cqHead := bits v 32 32 } } } := by
  rcases he with he | he <;> simp [doorbellWrite, injectAt_none 0x1A 0 hi, hr, hw, he]

end

/-- Changing rings alone keeps the invariant. -/
theorem State.Inv.withRings {s : State} (hs : s.Inv) (l : SMap Ring) : ({ s with cmd := { s.cmd with rings := l } } : State).Inv := hs

/-! ### Draining -/

theorem exec_ringDrainEnd (n : Nat) (s : State) : exec (.ringDrainEnd n) s = leaves s (drainEnd n s) := rfl

theorem drainEnd_notDraining {n : Nat} {s : State} (h : (ringGet s n).st ≠ .draining) : drainEnd n s = s := by
  simp [drainEnd, h]

/-- A ring does not leave draining before each task but the one that drains it has completed. -/
theorem drainEnd_waits {n : Nat} {s : State} (h : ∃ x ∈ ringTasks s n, some x.id ≠ (ringGet s n).drainTask) :
    drainEnd n s = s := by
  have waits : (ringTasks s n).any (fun t => some t.id != (ringGet s n).drainTask) = true := by simpa using h
  simp [drainEnd, waits]

/-- The state in which a drained ring is disabled, its translations let go. -/
def ringDrained (n : Nat) (s : State) : State :=
  setRingStore n [] (ringSet n { ringGet s n with
    st := .disabled
    sqHead := if (ringGet s n).drainReset then (ringGet s n).sqTail else (ringGet s n).sqHead
    drainTask := none
    drainReset := false } s)

/-- With no other task left the ring is disabled, and the task that drained it, if any, completes. -/
theorem drainEnd_drained {n : Nat} {s : State} (hd : (ringGet s n).st = .draining)
    (h : ∀ x ∈ ringTasks s n, some x.id = (ringGet s n).drainTask) :
    drainEnd n s = (ringGet s n).drainTask.elim (ringDrained n s) (fun id => finishOk id 0 (ringDrained n s)) := by
  have none_left : (ringTasks s n).any (fun t => some t.id != (ringGet s n).drainTask) = false := by simpa using h
  simp only [drainEnd, hd, none_left, ringDrained]
  cases (ringGet s n).drainTask <;> rfl

end Sys2Proof.Machine
end

section
/-! PROOFS. What a write through a ring's held translations and an interrupt leave unchanged, for the completion record. -/

namespace Sys2Proof.Machine

/-! ### What writing a record keeps -/

/-- What a write of memory, an error record and an interrupt keep: how far a ring's completion queue is filled, the tables, what a
holder keeps, and streams. -/
structure CqKept (n : Nat) (s t : State) : Prop where
  cqTail : (ringGet t n).cqTail = (ringGet s n).cqTail
  tab : t.tab = s.tab
  hold : t.hold = s.hold
  strm : t.strm = s.strm

namespace CqKept

variable {n : Nat} {s t u : State}

theorem refl (n : Nat) (s : State) : CqKept n s s := ⟨rfl, rfl, rfl, rfl⟩

theorem trans (h : CqKept n s t) (k : CqKept n t u) : CqKept n s u :=
  ⟨k.cqTail.trans h.cqTail, k.tab.trans h.tab, k.hold.trans h.hold, k.strm.trans h.strm⟩

end CqKept

theorem ringGet_of_rings {s t : State} (h : t.cmd.rings = s.cmd.rings) (n : Nat) : ringGet t n = ringGet s n := by
  simp only [ringGet, h]

theorem LogOnly.cqKept {s t : State} (h : LogOnly s t) (n : Nat) : CqKept n s t :=
  ⟨by rw [ringGet_of_rings h.rings], h.tab, h.hold, h.strm⟩

theorem MemHostOnly.cqKept {s t : State} (h : MemHostOnly s t) (n : Nat) : CqKept n s t := by
  refine ⟨by rw [ringGet_of_rings (congrArg CmdState.rings h.cmd)], ?_, ?_, ?_⟩ <;> rw [h]

/-! ### Accesses -/

/-- An access that keeps this, whether it yields a value or stops. -/
def CqKeeping (n : Nat) {α : Type} (a : Act α) : Prop := ∀ id s, CqKept n s (a.go id s).2

namespace CqKeeping

variable {n : Nat} {α β : Type}

theorem pure (x : α) : CqKeeping n (Pure.pure x : Act α) := fun _ s => .refl n s

theorem stop (x : Stop) : CqKeeping n (Machine.stop x : Act α) := fun _ s => .refl n s

theorem get : CqKeeping n (MonadState.get : Act State) := fun _ s => .refl n s

theorem modified {f : State → State} (h : ∀ s, CqKept n s (f s)) : CqKeeping n (modify f : Act Unit) := fun _ s => h s

theorem bind {a : Act α} {f : α → Act β} (h : CqKeeping n a) (k : ∀ x, CqKeeping n (f x)) : CqKeeping n (a >>= f) := by
  intro id s
  have hs := h id s
  rcases ha : a.go id s with ⟨e | x, u⟩ <;> rw [ha] at hs
  · rw [go_bind_error f ha]
    exact hs
  · rw [go_bind_ok f ha]
    exact hs.trans (k x id u)

end CqKeeping

theorem injectAt_cqKept (n det unit : Nat) (s : State) : CqKept n s (injectAt det unit s).2 := by
  have other : ∀ i, CqKept n s { s with rep := { s.rep with inj := i } } := fun _ => ⟨rfl, rfl, rfl, rfl⟩
  unfold injectAt
  split
  · exact .refl n s
  · split
    · exact .refl n s
    · split
      · exact other _
      · split <;> exact other _

theorem injectedAct_cqKeeping (n det unit : Nat) : CqKeeping n (injectedAct det unit) :=
  fun _ s => injectAt_cqKept n det unit s

theorem logAct_cqKeeping (n : Nat) (e : ErrRec) : CqKeeping n (logAct e) := fun _ s => (logErr_logOnly _ s).cqKept n

theorem offlineResult_cqKept (n : Nat) (s : State) (u : Nat) : CqKept n s (offlineResult s u).2 := by
  unfold offlineResult
  split
  · split
    · exact .refl n s
    · exact ⟨rfl, rfl, rfl, rfl⟩
  · exact .refl n s

theorem needLink_cqKeeping (n l : Nat) : CqKeeping n (needLink l) := by
  unfold needLink
  refine .bind (injectedAct_cqKeeping _ _ _) fun fired => ?_
  split
  · exact .bind (logAct_cqKeeping _ _) fun _ => .bind .get fun _ => .stop _
  · refine .bind .get fun s => ?_
    split
    · exact .pure _
    · exact .bind .get fun _ => .stop _

theorem needSite_cqKeeping (n a : Nat) : CqKeeping n (needSite a) := by
  unfold needSite
  refine .bind .get fun s => ?_
  split
  · exact .pure _
  · refine .bind (injectedAct_cqKeeping _ _ _) fun fired => ?_
    split
    · exact .bind (logAct_cqKeeping _ _) fun _ => .bind .get fun _ => .stop _
    · refine .bind .get fun s => ?_
      split
      · exact .pure _
      · exact fun _ s => offlineResult_cqKept n s _

theorem writeHost_memHostOnly (l a : Nat) (b : Bytes) (s : State) : MemHostOnly s (writeHost l a b s) := by
  have evicted : ∀ (ks : List Nat) (s : State), MemHostOnly s (ks.foldl (fun s k => evictNear k (some l) s) s) := by
    intro ks
    induction ks with
    | nil => exact fun _ => rfl
    | cons k ks ih => exact fun s => (evictNear_memHostOnly k (some l) s).trans (ih _)
  exact (evicted (linesOf a b.length) s).trans rfl

theorem writeScratch_memHostOnly (o : Nat) (b : Bytes) (s : State) : MemHostOnly s (writeScratch o b s) := rfl

theorem writeDev_cqKeeping (n a : Nat) (b : Bytes) : CqKeeping n (writeDev a b) := by
  unfold writeDev
  refine .bind (needSite_cqKeeping n a) fun _ => .bind ?_ fun far => ?_
  · split
    · exact injectedAct_cqKeeping _ _ _
    · exact .pure _
  · split
    · exact .bind (logAct_cqKeeping _ _) fun _ => .pure _
    · exact .modified fun s => (writeDevLines_memHostOnly a b s).cqKept n

theorem writePlace_cqKeeping (n : Nat) (p : Place) (b : Bytes) : CqKeeping n (writePlace p b) := by
  unfold writePlace
  split
  · exact .pure _
  · cases p with
    | dev a => exact writeDev_cqKeeping n a b
    | host l a => exact .bind (needLink_cqKeeping n l) fun _ => .modified fun s => (writeHost_memHostOnly l a b s).cqKept n
    | scratch o => exact .modified fun s => (writeScratch_memHostOnly o b s).cqKept n

theorem writePieces_cqKeeping (n : Nat) (ps : List (Place × Nat)) (b : Bytes) : CqKeeping n (writePieces ps b) := by
  induction ps generalizing b with
  | nil => exact .pure _
  | cons p ps ih => exact .bind (writePlace_cqKeeping n p.1 _) fun _ => ih _

theorem ringWrite_cqKept (n va : Nat) (b : Bytes) (s : State) : CqKept n s (ringWrite n va b s).2 := by
  unfold ringWrite
  split
  · exact .refl n s
  · rename_i ps _
    split
    · exact .refl n s
    · have written := writePieces_cqKeeping n ps b none s
      split <;> rename_i h <;> rw [h] at written <;> exact written

/-! ### The record's interrupt -/

theorem smapGet_smapSet_same {α : Type} (m : SMap α) (k : Nat) (x : α) : smapGet (smapSet m k x) k = some x := by
  induction m with
  | nil => simp [smapSet, smapGet]
  | cons e m ih =>
    obtain ⟨j, y⟩ := e
    simp only [smapSet]
    split
    · simp [smapGet]
    · split
      · simp [smapGet]
      · simp only [smapGet]
        rw [if_neg ‹_›, if_neg ‹_›, ih]

theorem ringGet_of_set {s : State} {n : Nat} {m : SMap Ring} {r : Ring} (h : s.cmd.rings = smapSet m n r) : ringGet s n = r := by
  rw [ringGet, h, smapGet_smapSet_same, Option.getD_some]

theorem completionIrq_cqKept (n : Nat) (irq idle : Bool) (s : State) : CqKept n s (completionIrq n irq idle s) := by
  have counted : ∀ k, CqKept n s { s with cmd := { s.cmd with rings := smapSet s.cmd.rings n { ringGet s n with sinceIrq := k } } } :=
    fun _ => ⟨by rw [ringGet_of_set rfl], rfl, rfl, rfl⟩
  unfold completionIrq
  simp only
  split
  · exact (counted 0).trans ((msixOn_logOnly _ _ _).cqKept n)
  · exact counted _

/-- A ring with one more completion slot taken. -/
def Ring.slotTaken (r : Ring) : Ring := { r with cqTail := r.cqTail + 1, completions := satAdd r.completions 1 }

/-- What is written of a record takes a slot (R28); its cq_wb copy (R33) and its interrupt keep what `CqKept` names. -/
theorem writeRecord_slotTaken {n : Nat} {tag : BitVec 32} {res : Result} {s u : State} (irq idle : Bool)
    (hd : (ringGet s n).discard = false)
    (hw : ringWrite n (cqSlot (ringGet s n) (ringGet s n).cqTail) (completionBytes tag res (now s)) s = (true, u)) :
    CqKept n { u with cmd := { u.cmd with rings := smapSet u.cmd.rings n (ringGet s n).slotTaken } }
      (writeRecord n tag irq idle res s) := by
  simp only [writeRecord, hw]
  rw [if_neg (by simp [hd])]
  have taken := (ringSet_memHostOnly n (ringGet s n).slotTaken u).cqKept n
  refine .trans ?_ (completionIrq_cqKept n irq idle _)
  split
  · exact taken
  · exact taken.trans (ringWrite_cqKept n _ _ _)

/-! ### A task that has ended -/

theorem taskOf_dropTask (id : Nat) (s : State) : taskOf (dropTask id s) id = none := by
  simp [taskOf, dropTask]

theorem atCompletion_of_ne {t : Task} (r : Result) (s : State) (h : t.op ≠ 0x33) : atCompletion t r s = s :=
  if_neg fun hc => h hc.1

theorem claimLines_noDir (ls : List Nat) {s : State} (h : s.host.dir = []) : claimLines ls s = (true, s) := by
  simp [claimLines, h]

section
variable {s : State} {id : Nat} {t : Task} {res : Result} (ht : taskOf s id = some t) (hp : t.phase = .done res) (ho : t.origin = none)
include ht hp ho

/-- R28: a task whose record has no slot waits. -/
theorem completeTask_full (hq : wantsRecord t res = true) (hd : (ringGet s t.ring).discard = false)
    (hf : cqFull (ringGet s t.ring) = true) : completeTask id s = s := by
  simp [completeTask, ht, hp, ho, hq, hd, hf]

variable (hh : writesHeld s = false)
include hh

/-- R58: a task that wants no record completes without one. -/
theorem completeTask_quiet (hq : wantsRecord t res = false) : completeTask id s = dropTask id (atCompletion t res s) := by
  simp [completeTask, ht, hp, ho, hh, hq]

/-- A task with a free slot, whose lines the host does not hold, completes with its record. -/
theorem completeTask_record (hq : wantsRecord t res = true) (hd : (ringGet s t.ring).discard = false)
    (hf : cqFull (ringGet s t.ring) = false) (hdir : s.host.dir = []) (hop : t.op ≠ 0x33) :
    completeTask id s = dropTask id (writeRecord t.ring t.pkt.tag (pIrq t.pkt)
      (!sqWaiting (ringGet s t.ring) && (ringTasks s t.ring).length == 1) res s) := by
  simp [completeTask, ht, hp, ho, hh, hq, hd, hf, claimLines_noDir _ hdir, atCompletion_of_ne _ _ hop]

end

/-! ### COMPLETION_WRITE -/

theorem exec_completionWrite (id : Nat) (s : State) : exec (.completionWrite id) s = leaves s (completionWrite id s) := rfl

theorem completionWrite_noTask {id : Nat} {s : State} (h : taskOf s id = none) : completionWrite id s = s := by
  simp [completionWrite, h]

theorem completionWrite_notDone {id : Nat} {s : State} {t : Task} (ht : taskOf s id = some t) (hd : t.isDone = false) :
    completionWrite id s = s := by
  simp [completionWrite, ht, hd]

theorem isDone_of_phase {t : Task} {res : Result} (h : t.phase = .done res) : t.isDone = true := by
  simp only [Task.isDone, h]

section
variable {s : State} {id : Nat} {t : Task} {res : Result} (hr : s.boot.inReset = false) (ht : taskOf s id = some t)
  (hp : t.phase = .done res) (hf : pPeerFlush t.pkt = false)
include hr ht hp hf

/-- A task that cannot complete yet stays as it is. -/
theorem completionWrite_waits (hc : completeTask id s = s) : completionWrite id s = s := by
  simp [completionWrite, peerFlush, ht, isDone_of_phase hp, hr, hf, hc]

/-- A task that completes is gone, and what waited for its end goes on. -/
theorem completionWrite_completes {w : State} (hc : completeTask id s = dropTask id w) :
    completionWrite id s = endSweep (dropTask id w) := by
  simp [completionWrite, peerFlush, ht, isDone_of_phase hp, hr, hf, hc, taskOf_dropTask]

end

/-! ### The statement -/

/-- Settles O53: the doorbell by its ring's state, the drain by the tasks left on its ring, and the completion by its ring's slots. -/
theorem ringsServed : Obligations.RingsServed := by
  intro s u n size id v r t res hs hr hi rfl
  refine ⟨fun h => ?_, fun hw he hcq hsq => ?_, fun hw he h => ?_, fun hw he hcq => ?_, fun hw he hcq => ?_,
    fun hd hall hid => ?_, fun hd => ?_, fun hd h => ?_, fun hd hnil hid => ?_, fun ht => ?_, fun ht hd => ?_,
    fun ht hp hf ho hq hd hfull => ?_, fun ht hp hf ho hq hh => ?_, fun ht hp hf ho hq hh hd hfull hdir hop hw => ?_⟩
  · rw [exec_doorbellWrite, doorbellWrite_discarded n v hr hi size h]
    exact leaves_logErr hs _
  · rw [exec_doorbellWrite, doorbellWrite_enabled n v hr hi hw he, if_neg (by omega)]
    exact leaves_inv (hs.withRings _) rfl rfl
  · rw [exec_doorbellWrite, doorbellWrite_enabled n v hr hi hw he, if_pos h]
  · rw [exec_doorbellWrite, doorbellWrite_headOnly n v hr hi hw he, if_neg (by omega)]
    exact leaves_inv (hs.withRings _) rfl rfl
  · rw [exec_doorbellWrite, doorbellWrite_headOnly n v hr hi hw he, if_pos hcq]
    exact leaves_logErr hs _
  · rw [exec_ringDrainEnd, drainEnd_drained hd (fun x hx => by rw [hid, hall x hx]), hid]
    rfl
  · rw [exec_ringDrainEnd, drainEnd_notDraining hd]
    exact leaves_self hs
  · rw [exec_ringDrainEnd, drainEnd_waits h]
    exact leaves_self hs
  · rw [exec_ringDrainEnd, drainEnd_drained hd (by simp [hnil]), hid]
    rfl
  · rw [exec_completionWrite, completionWrite_noTask ht]
    exact leaves_self hs
  · rw [exec_completionWrite, completionWrite_notDone ht hd]
    exact leaves_self hs
  · rw [exec_completionWrite, completionWrite_waits hr ht hp hf (completeTask_full ht hp ho hq hd hfull)]
    exact leaves_self hs
  · rw [exec_completionWrite, completionWrite_completes hr ht hp hf (completeTask_quiet ht hp ho hh hq)]
  · have written := ringWrite_cqKept t.ring (cqSlot (ringGet s t.ring) (ringGet s t.ring).cqTail)
      (completionBytes t.pkt.tag res (now s)) s
    rw [hw] at written
    refine ⟨_, congrArg (leaves s) (completionWrite_completes hr ht hp hf
      (completeTask_record ht hp ho hh hq hd hfull hdir hop)), ?_⟩
    have taken := writeRecord_slotTaken (pIrq t.pkt) (!sqWaiting (ringGet s t.ring) && (ringTasks s t.ring).length == 1) hd hw
    exact ⟨taken.cqTail.trans (by rw [ringGet_of_set rfl]; rfl), taken.tab.trans written.tab, taken.hold.trans written.hold,
      taken.strm.trans written.strm⟩

end Sys2Proof.Machine
end

section
/-! PROOFS. What every command leaves, whatever its effect: the invariant, the queue, and fuses that only burn (R450, R451, R492). -/

namespace Sys2Proof.Machine

/-! ### The two kinds of outcome -/

/-- The commands that may burn one-time fuses. -/
def mayBurn : Instr → Bool
  | .registerWrite _ _ _ | .svnCommit | .gaugePowerUp _ | .metrologyCalWrite _ _ | .sealBlow => true
  | _ => false

/-- Every command but those leaves its effect with the fuses as they were. -/
theorem exec_leaves (c : Instr) (s : State) (h : mayBurn c = false) : ∃ t, exec c s = leaves s t := by
  cases c <;> first | exact ⟨_, rfl⟩ | cases h

theorem exec_burnt (c : Instr) (s : State) (h : mayBurn c = true) : ∃ t, exec c s = burnt s t := by
  cases c <;> first | exact ⟨_, rfl⟩ | cases h

/-- Every command leaves a state that meets the invariant, with the queue as it was. -/
theorem exec_keeps (c : Instr) (s : State) : ∃ t, exec c s = .next t ∧ t.pending = s.pending ∧ t.Inv := by
  cases h : mayBurn c
  · obtain ⟨t, ht⟩ := exec_leaves c s h
    obtain ⟨hi, hp⟩ := leaves_keeps (leaves_next s t)
    exact ⟨_, ht, hp, hi⟩
  · obtain ⟨t, ht⟩ := exec_burnt c s h
    obtain ⟨hi, hp⟩ := burnt_keeps (s := s) (t := t) rfl
    exact ⟨_, ht, hp, hi⟩

theorem step_idle {s : State} (h : s.pending = []) : step s = leaves s (takeUnlisted (clockEdge s)) := by
  simp only [step, h]

theorem step_front {s : State} {c : Instr} {rest : List Instr} (h : s.pending = c :: rest) :
    step s = exec c { s with pending := rest } := by
  simp only [step, h]

/-- Settles O1: the two equations of a step. -/
theorem stepRunsFront : Obligations.StepRunsFront := fun _ _ _ => ⟨rfl, step_idle⟩

/-- Settles O55. -/
theorem commandsComplete : Obligations.CommandsComplete := fun s c => exec_keeps c s

/-- Settles O2: the idle edge and every command leave a state that meets the invariant. -/
theorem stepKeepsInv : Obligations.StepKeepsInv := by
  intro s s' _ hstep
  cases hq : s.pending with
  | nil =>
    rw [step_idle hq] at hstep
    exact (leaves_keeps hstep).1
  | cons c rest =>
    rw [step_front hq] at hstep
    obtain ⟨t, ht, -, hi⟩ := exec_keeps c { s with pending := rest }
    rw [ht] at hstep
    cases hstep
    exact hi

/-! ### Fuses -/

/-- How one-time fuses may move: the floor and the epochs rise, a blown seal stays and closes the calibration words, and nothing else
but the field repair bank moves. -/
structure OnlyBurns (f g : Fuses) : Prop where
  floor : f.svnFloor ≤ g.svnFloor
  epochs : f.epochBits ≤ g.epochBits
  blown : f.sealed = true → g.sealed = true ∧ g.cal = f.cal
  rest : { g with svnFloor := f.svnFloor, epochBits := f.epochBits, sealed := f.sealed, cal := f.cal, field := f.field } = f

theorem leaves_onlyBurns {s t u : State} (h : leaves s t = .next u) : OnlyBurns s.fuses u.fuses := by
  cases h
  exact ⟨Nat.le_refl _, Nat.le_refl _, fun h => ⟨h, rfl⟩, rfl⟩

theorem burnt_onlyBurns {s t u : State} (h : burnt s t = .next u) : OnlyBurns s.fuses u.fuses := by
  cases h
  exact ⟨Nat.le_max_left .., Nat.le_max_left .., fun h => by simp [h], rfl⟩

theorem exec_onlyBurns {c : Instr} {s u : State} (h : exec c s = .next u) : OnlyBurns s.fuses u.fuses := by
  cases hc : mayBurn c
  · obtain ⟨t, ht⟩ := exec_leaves c s hc
    exact leaves_onlyBurns (ht.symm.trans h)
  · obtain ⟨t, ht⟩ := exec_burnt c s hc
    exact burnt_onlyBurns (ht.symm.trans h)

theorem step_onlyBurns {s u : State} (h : step s = .next u) : OnlyBurns s.fuses u.fuses := by
  cases hq : s.pending with
  | nil => exact leaves_onlyBurns ((step_idle hq).symm.trans h)
  | cons c rest => exact exec_onlyBurns (s := { s with pending := rest }) ((step_front hq).symm.trans h)

/-- A fuse that a burning command's effect leaves is left by the command. -/
theorem burnt_fuses {s t u : State} (h : burnt s t = .next u) :
    (t.fuses.svnFloor = s.fuses.svnFloor → u.fuses.svnFloor = s.fuses.svnFloor) ∧
    (t.fuses.epochBits = s.fuses.epochBits → u.fuses.epochBits = s.fuses.epochBits) ∧
    (t.fuses.sealed = s.fuses.sealed → u.fuses.sealed = s.fuses.sealed) ∧
    (t.fuses.cal = s.fuses.cal → u.fuses.cal = s.fuses.cal) := by
  cases h
  refine ⟨fun e => ?_, fun e => ?_, fun e => ?_, fun e => ?_⟩
  · simp only [e, Nat.max_self]
  · simp only [e, Nat.max_self]
  · simp only [e, Bool.or_self]
  · simp only [e, ite_self]

theorem leaves_fuses {s t u : State} (h : leaves s t = .next u) : u.fuses = { s.fuses with field := u.fuses.field } := by
  cases h
  rfl

theorem injectAt_fuses (det unit : Nat) (s : State) : (injectAt det unit s).2.fuses = s.fuses := by
  unfold injectAt
  split
  · rfl
  · split
    · rfl
    · split
      · rfl
      · split <;> rfl

@[simp] theorem gaugeInjected_fuses (det : Nat) (s : State) : (gaugeInjected det s).2.fuses = s.fuses := by
  unfold gaugeInjected
  simp only
  split <;> exact injectAt_fuses det 0 s

@[simp] theorem gaugeLog_fuses (code detail : Nat) (s : State) : (gaugeLog code detail s).fuses = s.fuses := rfl

/-- The island's power-up moves no fuse but its epochs. -/
theorem gaugePowerUp_onlyEpochs (bad : Option Nat) (s : State) :
    (gaugePowerUp bad s).fuses = { s.fuses with epochBits := (gaugePowerUp bad s).fuses.epochBits } := by
  simp only [gaugePowerUp]
  split <;> simp

/-- SVN_COMMIT moves no fuse but the floor. -/
theorem svnCommit_onlyFloor (s : State) : (svnCommit s).fuses = { s.fuses with svnFloor := (svnCommit s).fuses.svnFloor } := by
  unfold svnCommit
  split
  · rfl
  · split
    · simp [misuse]
    · split <;> rfl

/-- Which one-time fuses each command but a register write may move. -/
theorem exec_burnsOwn {c : Instr} {s t : State} (h : exec c s = .next t) (hw : ∀ o n v, c ≠ .registerWrite o n v) :
    (c ≠ .svnCommit → t.fuses.svnFloor = s.fuses.svnFloor) ∧
    ((∀ k, c ≠ .gaugePowerUp k) → t.fuses.epochBits = s.fuses.epochBits) ∧
    (c ≠ .sealBlow → t.fuses.sealed = s.fuses.sealed) ∧
    ((∀ w v, c ≠ .metrologyCalWrite w v) → t.fuses.cal = s.fuses.cal) := by
  cases hc : mayBurn c
  case false =>
    obtain ⟨u, hu⟩ := exec_leaves c s hc
    rw [leaves_fuses (hu.symm.trans h)]
    exact ⟨fun _ => rfl, fun _ => rfl, fun _ => rfl, fun _ => rfl⟩
  case true =>
    cases c <;> try cases hc
    case registerWrite o n v => exact absurd rfl (hw o n v)
    case svnCommit =>
      obtain ⟨-, epochs, blown, cal⟩ := burnt_fuses (t := svnCommit s) h
      rw [svnCommit_onlyFloor] at epochs blown cal
      exact ⟨fun h => absurd rfl h, fun _ => epochs rfl, fun _ => blown rfl, fun _ => cal rfl⟩
    case gaugePowerUp k =>
      obtain ⟨floor, -, blown, cal⟩ := burnt_fuses (t := gaugePowerUp k s) h
      rw [gaugePowerUp_onlyEpochs] at floor blown cal
      exact ⟨fun _ => floor rfl, fun h => absurd rfl (h k), fun _ => blown rfl, fun _ => cal rfl⟩
    case metrologyCalWrite w v =>
      obtain ⟨floor, epochs, blown, -⟩ := burnt_fuses (s := s) h
      refine ⟨fun _ => floor ?_, fun _ => epochs ?_, fun _ => blown ?_, fun h => absurd rfl (h w v)⟩ <;> split <;> rfl
    case sealBlow =>
      obtain ⟨floor, epochs, -, cal⟩ := burnt_fuses (s := s) h
      refine ⟨fun _ => floor ?_, fun _ => epochs ?_, fun h => absurd rfl h, fun _ => cal ?_⟩ <;> split <;> rfl

/-- Settles O3: every outcome only burns, and of the burning commands each moves its own fuse. -/
theorem fusesOnlyBurn : Obligations.FusesOnlyBurn := by
  intro s t c
  refine ⟨fun u hu => ?_, exec_burnsOwn⟩
  have burns := step_onlyBurns hu
  exact ⟨burns.floor, burns.epochs, burns.blown, burns.rest⟩

/-! ### Reset -/

/-- Settles O56. -/
theorem resetAsStated : Obligations.ResetAsStated := by
  refine ⟨⟨by decide, by decide⟩, rfl, rfl, rfl, rfl, rfl, rfl, rfl, rfl, rfl, rfl, ?_⟩
  decide +kernel

end Sys2Proof.Machine
end

section
/-! PROOFS. The clocks (R421 to R431). -/

namespace Sys2Proof.Machine

/-! ### Outcomes written out -/

/-- The outcome of an effect that keeps registers, tasks and fuses, named by what the effect comes to. -/
theorem leaves_of_eq {s t u : State} (hs : s.Inv) (h : t = u) (hr : u.regs = s.regs := by rfl) (hc : u.cmd = s.cmd := by rfl)
    (hf : u.fuses = s.fuses := by rfl) (hp : u.pending = s.pending := by rfl) : leaves s t = .next u :=
  h ▸ leaves_same hs (h ▸ hr) (h ▸ hc) (h ▸ hf) (h ▸ hp)

/-- A command whose effect comes to nothing leaves the state as it is. -/
theorem leaves_nothing {s t : State} (hs : s.Inv) (h : t = s) : leaves s t = .next s := leaves_of_eq hs h

/-- The outcome of an effect that comes to an error record. -/
theorem leaves_misuse {s t : State} (hs : s.Inv) (o : Nat) (h : t = misuse o s) : leaves s t = .next (misuse o s) := by
  rw [h]
  exact leaves_logErr hs _

/-! ### Settling, test windows, RCO direct -/

theorem clkTest_starts {s : State} {v : Word} (hv : v.getLsbD 0 = true) (hb : s.clk.testBusy = false) :
    clkTest v s = { s with clk := { s.clk with testBusy := true, testTol := bitsNat s.regs.clkCtl 0 12 } } := by
  simp [clkTest, hv, hb, onClk]

theorem clkTest_ignored {s : State} {v : Word} (h : v.getLsbD 0 = false ∨ s.clk.testBusy = true) : clkTest v s = s :=
  if_neg (by rcases h with h | h <;> simp only [h, Bool.not_true, Bool.and_false, Bool.false_and, Bool.false_eq_true, not_false_eq_true])

/-- Settles O17, each command in the state it acts in and outside it. -/
theorem clockStartsAndRetries : Obligations.ClockStartsAndRetries := by
  intro s v hs hr
  refine ⟨fun h => ?_, fun h => ?_, fun h hl => ?_, fun h => ?_, fun hw hv hb => ?_, fun hw h => ?_⟩
  · exact leaves_of_eq hs (by simp [h, hr, onClk])
  · exact leaves_nothing hs (if_neg fun e => h (by simpa [hr] using e))
  · exact leaves_of_eq hs (by simp [h, hl, onClk])
  · exact leaves_nothing hs (if_neg fun e => h (of_decide_eq_true (Bool.and_eq_true _ _ ▸ e).1))
  · exact leaves_of_eq hs ((guardWrite_live _ _ hr hw).trans (clkTest_starts hv hb))
  · exact leaves_nothing hs ((guardWrite_live _ _ hr hw).trans (clkTest_ignored h))

/-! ### Comparison windows -/

section
variable {s : State} (hi : s.rep.inj = none) (n : Nat)
include hi

theorem clockWindowEnd_test (hb : s.clk.testBusy = true) : clockWindowEnd n true s =
    { s with clk := { s.clk with
        testBusy := false, testFail := !(windowPasses n s.clk.testTol s), lastCount := BitVec.ofNat 32 n } } := by
  simp [clockWindowEnd, hb, injectAt_none _ _ hi, onClk]

/-- A continuous window whose count lies within the tolerance. -/
theorem clockWindowEnd_passes (hst : s.clk.st ≠ 1) (hp : windowPasses n s.clk.tol s = true) : clockWindowEnd n false s =
    windowPass { s with clk := { s.clk with lastCount := BitVec.ofNat 32 n, tol := bitsNat s.regs.clkCtl 0 12 } } := by
  simp only [clockWindowEnd, if_neg hst, injectAt_none _ _ hi, hp, onClk]
  rfl

end

/-- Settles O18: a test window reports; the first passing window starts a lock; a later one counts. -/
theorem clockWindowPasses : Obligations.ClockWindowPasses := by
  intro s n hs hi
  refine ⟨fun hb => ?_, fun hst hl hp => ?_, fun hst hp => ?_⟩
  · exact leaves_of_eq hs (clockWindowEnd_test hi n hb)
  · exact leaves_of_eq hs ((clockWindowEnd_passes hi n (by simp [hst]) hp).trans (by simp [windowPass, hst, hl, onClk]))
  · exact leaves_of_eq hs ((clockWindowEnd_passes hi n (by simp [hst]) hp).trans (by simp [windowPass, hst, onClk]))

/-! ### Coast -/

/-- Coast entry from a root clock other than the RCO (R423, R428). -/
theorem crystalFail_enters {s : State} (hr : s.boot.inReset = false) (hc : s.clk.coast = false) (hsrc : s.clk.src = .pllCrystal) :
    crystalFail 0x15 false s = elect (gaugeCoast true (loseLock { logErr { det := 0x15, sev := 1 } s with
      clk := { s.clk with coast := true, xtalFail := true, coasts := satAdd s.clk.coasts 1, passes := 0, lastPass := false, st := 3,
                          pllLock := false, ramp := .up, locking := none } })) := by
  simp [crystalFail, hr, hc, hsrc, onClk]

/-- Settles O19. -/
theorem crystalFails : Obligations.CrystalFails := by
  intro s hs hr hc hsrc
  refine ⟨congrArg (leaves s) (crystalFail_enters hr hc hsrc), fun hl => ?_, fun hl => ?_⟩
  · exact congrArg (leaves s) (by simp [hsrc, hl])
  · exact leaves_nothing hs (by simp [hl])

/-! ### The PLL and the ramp -/

/-- A lock to the crystal or the RCO moves the domains to root ÷64 and has the servo acquire again (R427, R429). -/
theorem pllLock_locks {s : State} {x : Bool} (hi : s.rep.inj = none) (hl : s.clk.locking = some x) : pllLock s = { s with
    clk := { s.clk with src := if x then .pllCrystal else .pllRco, pllLock := true, locking := none, ramp := .down, divA := 64, divF := 64,
                        divC := 64, st := if x && s.clk.coast then 6 else 3 }
    time := { s.time with lock := false, good := 0, bad := 0, ppsOut := false, acquire := some [], lastSync := none,
                          lastPair := none } } := by
  simp [pllLock, hl, injectAt_none _ _ hi, sourceChanged, acquire, loseLock, onClk]

/-- Phase 0x1 gives way to 0x2, and no other phase changes. -/
theorem clocksRun_eq (s : State) :
    clocksRun s = { s with boot := { s.boot with phase := if s.boot.phase = 1 then 2 else s.boot.phase } } := by
  unfold clocksRun
  split <;> rfl

theorem lockFails_rco {s : State} (hl : s.clk.locking = some false) : lockFails false s =
    logErr { det := 0x16, sev := 1 } { s with
      clk := { s.clk with locking := none, st := 7 }
      boot := { s.boot with phase := if s.boot.phase = 1 then 2 else s.boot.phase } } := by
  simp only [lockFails, hl, clocksRun_eq]
  rfl

theorem clockRampStep_up {s : State} (h : s.clk.ramp = .up) (hd : s.clk.divA < 63 ∨ s.clk.divF < 63 ∨ s.clk.divC < 63) :
    clockRampStep s = { s with clk := { s.clk with
      divA := min 64 (s.clk.divA + 1), divF := min 64 (s.clk.divF + 1), divC := min 64 (s.clk.divC + 1) } } := by
  simp [clockRampStep, h, onClk]
  omega

theorem clockRampStep_down {s : State} (h : s.clk.ramp = .down) (hd : 5 < s.clk.divA ∨ 6 < s.clk.divF ∨ 9 < s.clk.divC) :
    clockRampStep s = { s with clk := { s.clk with
      divA := if 4 < s.clk.divA then s.clk.divA - 1 else s.clk.divA
      divF := if 5 < s.clk.divF then s.clk.divF - 1 else s.clk.divF
      divC := if 8 < s.clk.divC then s.clk.divC - 1 else s.clk.divC } } := by
  have short : ¬ ((stepDown s.clk.divA 4 = 4 ∧ stepDown s.clk.divF 5 = 5) ∧ stepDown s.clk.divC 8 = 8) := by
    simp only [stepDown]
    split <;> split <;> split <;> omega
  simp [clockRampStep, h, onClk, short]
  simp [stepDown]

/-- Settles O20. -/
theorem pllLocks : Obligations.PllLocks := by
  refine ⟨fun s x hs hi hl => ⟨leaves_of_eq hs (pllLock_locks hi hl), fun hx => ?_, fun hx => ?_⟩,
    fun s hs => ⟨fun h => leaves_nothing hs (by simp [clockRampStep, h]), fun h hd => leaves_of_eq hs (clockRampStep_up h hd),
      fun h hd => leaves_of_eq hs (clockRampStep_down h hd)⟩⟩
  · subst hx
    exact congrArg (leaves s) (by simp [hl, injectAt_none _ _ hi, lockFails_rco hl])
  · subst hx
    exact congrArg (leaves s) (by simp [hl, injectAt_none _ _ hi, lockFails])

end Sys2Proof.Machine
end

section
/-! PROOFS. The Gauge: its intervals (R445, R453), supervision (R449), test port and seal (R451, R452, R457). -/

namespace Sys2Proof.Machine

/-! ### Counters -/

/-- The Gauge without what a saturation or a gap in the M-die's reports adds: the flag, the event log and the gap's duration. -/
def GaugeState.unlogged (g : GaugeState) : GaugeState := { g with satFlag := false, log := [], logCount := 0, gapMs := 0, gapUs := 0 }

theorem gaugeLog_unlogged (code detail : Nat) (s : State) : (gaugeLog code detail s).gauge.unlogged = s.gauge.unlogged := by
  rw [gaugeLog_eq]
  rfl

theorem gaugeAdd_unlogged (field : Nat) (get : GaugeState → Word) (put : GaugeState → Word → GaugeState) (k : Nat) (s : State) :
    (gaugeAdd field get put k s).gauge.unlogged = (put s.gauge (satAdd (get s.gauge) k)).unlogged := by
  unfold gaugeAdd
  simp only
  split
  · split
    · rfl
    · exact gaugeLog_unlogged ..
  · rfl

theorem gaugeAdd_frame (field : Nat) (get : GaugeState → Word) (put : GaugeState → Word → GaugeState) (k : Nat) (s : State) :
    gaugeAdd field get put k s = { s with gauge := (gaugeAdd field get put k s).gauge } := by
  unfold gaugeAdd
  simp only
  split
  · split <;> rfl
  · rfl

/-- The four counters of energy take an interval's additions (R445). -/
def gaugeEnergies (core hbm mdie : Nat) (s : State) : State :=
  gaugeAdd 0 (·.eTotal) (fun g x => { g with eTotal := x }) (core + hbm + mdie)
    (gaugeAdd 3 (·.eMdie) (fun g x => { g with eMdie := x }) mdie
      (gaugeAdd 2 (·.eHbm) (fun g x => { g with eHbm := x }) hbm
        (gaugeAdd 1 (·.eCore) (fun g x => { g with eCore := x }) core s)))

theorem gaugeEnergies_unlogged (core hbm mdie : Nat) (s : State) : (gaugeEnergies core hbm mdie s).gauge.unlogged =
    { s.gauge.unlogged with
      eCore := satAdd s.gauge.eCore core
      eHbm := satAdd s.gauge.eHbm hbm
      eMdie := satAdd s.gauge.eMdie mdie
      eTotal := satAdd s.gauge.eTotal (core + hbm + mdie) } := by
  have total : ∀ u : State, (gaugeAdd 0 (·.eTotal) (fun g x => { g with eTotal := x }) (core + hbm + mdie) u).gauge.unlogged =
      { u.gauge.unlogged with eTotal := satAdd u.gauge.unlogged.eTotal (core + hbm + mdie) } := gaugeAdd_unlogged _ _ _ _
  have third : ∀ u : State, (gaugeAdd 3 (·.eMdie) (fun g x => { g with eMdie := x }) mdie u).gauge.unlogged =
      { u.gauge.unlogged with eMdie := satAdd u.gauge.unlogged.eMdie mdie } := gaugeAdd_unlogged _ _ _ _
  have second : ∀ u : State, (gaugeAdd 2 (·.eHbm) (fun g x => { g with eHbm := x }) hbm u).gauge.unlogged =
      { u.gauge.unlogged with eHbm := satAdd u.gauge.unlogged.eHbm hbm } := gaugeAdd_unlogged _ _ _ _
  have first : (gaugeAdd 1 (·.eCore) (fun g x => { g with eCore := x }) core s).gauge.unlogged =
      { s.gauge.unlogged with eCore := satAdd s.gauge.eCore core } := gaugeAdd_unlogged _ _ _ _ _
  rw [gaugeEnergies, total, third, second, first]
  rfl

theorem gaugeEnergies_frame (core hbm mdie : Nat) (s : State) :
    gaugeEnergies core hbm mdie s = { s with gauge := (gaugeEnergies core hbm mdie s).gauge } := by
  unfold gaugeEnergies
  rw [gaugeAdd_frame 0, gaugeAdd_frame 3, gaugeAdd_frame 2, gaugeAdd_frame 1]

/-! ### Beside the Gauge -/

/-- What is only a record stays so, whatever becomes of the Gauge beside it. -/
theorem LogOnly.gauged {s t u : State} {g : GaugeState} (h : LogOnly { s with gauge := g } t)
    (hu : u = { t with gauge := u.gauge }) : LogOnly s { u with gauge := s.gauge } := by
  rw [hu]
  exact { h with gauge := rfl }

/-- The invariant does not speak of the Gauge. -/
theorem State.Inv.gauged {t u : State} (h : t.Inv) (hu : u = { t with gauge := u.gauge }) : u.Inv := by
  rw [hu]
  exact h

/-! ### An interval -/

/-- The HBM channel's share uses a draw at most. -/
theorem hbmShare_eq (rail mine all : Nat) (s : State) :
    ∃ f d, hbmShare rail mine all s = (f, { s with draws := d }) ∧ (0 < all → f = rail * mine / all) := by
  unfold hbmShare
  split
  · exact ⟨_, _, rfl, fun h => by omega⟩
  · exact ⟨_, _, rfl, fun _ => rfl⟩

/-- What the M-die path's report leaves: its energy, taken; or none, a gap that is logged when it begins. -/
theorem mdieStep_eq {s : State} (hs : s.Inv) (hi : s.rep.inj = none) (hp : s.gauge.portInj = none) :
    ∃ u : State, mdieStep s = (s.gauge.report.getD 0, u) ∧
      u.gauge.unlogged = { s.gauge.unlogged with report := none, mdieAbsent := s.gauge.report.isNone } ∧
      LogOnly s { u with gauge := s.gauge } ∧ u.Inv := by
  simp only [mdieStep, gaugeInjected_none 0x1E hi hp]
  cases hr : s.gauge.report with
  | some e =>
    simp only [Bool.false_eq_true, if_false]
    split
    · exact ⟨_, rfl, by simp only [onGauge, gaugeLog_eq, GaugeState.unlogged, Option.isNone_some], .refl s, hs⟩
    · exact ⟨_, rfl, by simp only [onGauge, GaugeState.unlogged, Option.isNone_some], .refl s, hs⟩
  | none =>
    simp only [Bool.false_eq_true, if_false]
    split
    · exact ⟨_, rfl, by simp only [onGauge, GaugeState.unlogged, Option.isNone_none], .refl s, hs⟩
    · refine ⟨_, rfl, ?_, (logErr_logOnly { det := 0x1E, sev := 0 } s).gauged ?_, (logErr_inv { det := 0x1E, sev := 0 } hs).gauged ?_⟩
      · simp only [onGauge, gaugeLog_eq, GaugeState.unlogged, logErr_gauge, Option.isNone_none]
      · simp only [onGauge, gaugeLog_eq]
      · simp only [onGauge, gaugeLog_eq]

/-- The interval's powers, the M-die's pulses and the millisecond counters follow the energies. -/
theorem gaugeInterval_eq {core rail mine all f m : Nat} {s u v : State} (hshare : hbmShare rail mine all s = (f, v))
    (hreport : mdieStep v = (m, u)) : ∃ p cm cu um uu, gaugeInterval core rail mine all s = { gaugeEnergies core f m u with
      gauge := { (gaugeEnergies core f m u).gauge with
        pCore := intervalPower core, pHbm := intervalPower f, pMdie := intervalPower m, pTotal := intervalPower (core + f + m)
        pulses := p, coastMs := cm, coastUs := cu, unsupMs := um, unsupUs := uu } } := by
  simp only [gaugeInterval, hshare, hreport]
  exact ⟨_, _, _, _, _, rfl⟩

/-- Settles O21: the share, the report, and four additions that saturate. -/
theorem gaugeIntervalAdds : Obligations.GaugeIntervalAdds := by
  intro s eCore eRail mine all hs hi hp
  obtain ⟨f, d, hshare, hf⟩ := hbmShare_eq eRail mine all s
  obtain ⟨u, hreport, hgauge, honly, hinv⟩ := mdieStep_eq (s := { s with draws := d }) hs hi hp
  have energies := (gaugeEnergies_unlogged eCore f (s.gauge.report.getD 0) u).trans (by rw [hgauge])
  obtain ⟨p, cm, cu, um, uu, hinterval⟩ := gaugeInterval_eq (core := eCore) hshare hreport
  rw [gaugeEnergies_frame] at hinterval
  generalize (gaugeEnergies eCore f (s.gauge.report.getD 0) u).gauge = g at hinterval energies
  have kept : ∀ {α : Type} (field : GaugeState → α), field g.unlogged = field _ := fun field => congrArg field energies
  have before : ∀ {α : Type} (field : GaugeState → α), field u.gauge.unlogged = field _ := fun field => congrArg field hgauge
  refine ⟨_, f, (congrArg (leaves s) hinterval).trans (leaves_inv hinv honly.fuses honly.pending), hf, (kept (·.eCore)).trans ?_,
    (kept (·.eHbm)).trans ?_, (kept (·.eMdie)).trans ?_, (kept (·.eTotal)).trans ?_, rfl, rfl, rfl, rfl, kept (·.report),
    kept (·.mdieAbsent), kept (·.epoch), kept (·.queue), kept (·.rows), kept (·.bytes), kept (·.records),
    { honly with gauge := rfl, draws := rfl }⟩
  · exact congrArg (satAdd · eCore) (before (·.eCore))
  · exact congrArg (satAdd · f) (before (·.eHbm))
  · exact congrArg (satAdd · _) (before (·.eMdie))
  · exact congrArg (satAdd · _) (before (·.eTotal))

/-! ### Reports and supervision -/

theorem gaugeSupervision_within {s : State} {edges : Nat} (hi : s.rep.inj = none) (hp : s.gauge.portInj = none)
    (h : ((4 * edges : Int) - expectedEdges4 s).natAbs * 1000000 ≤ 2000 * expectedEdges4 s) :
    gaugeSupervision edges s = if s.gauge.supervision then gaugeLog 0x03 0 { s with gauge := { s.gauge with supervision := false } }
      else s := by
  simp only [gaugeSupervision, gaugeInjected_none 0x1C hi hp, Bool.or_false]
  rw [if_neg (by simpa using h)]
  rfl

/-- R449: a fault begins with a log entry of code 0x02 and a record. -/
theorem gaugeSupervision_beyond {s : State} {edges : Nat} (hi : s.rep.inj = none) (hp : s.gauge.portInj = none)
    (hf : s.gauge.supervision = false)
    (h : 2000 * expectedEdges4 s < ((4 * edges : Int) - expectedEdges4 s).natAbs * 1000000) :
    ∃ ppm, gaugeSupervision edges s = gaugeLog 0x02 ppm
      (logErr { det := 0x1C, sev := 0 } { s with gauge := { s.gauge with supervision := true } }) := by
  simp only [gaugeSupervision, gaugeInjected_none 0x1C hi hp, Bool.or_false]
  rw [if_pos (by simpa using h), if_neg (by simp [hf])]
  exact ⟨_, rfl⟩

/-- Settles O22. -/
theorem gaugeReportsAndSupervision : Obligations.GaugeReportsAndSupervision := by
  intro s e edges hs
  refine ⟨leaves_of_eq hs rfl, fun hi hp h => ⟨fun hf => ?_, fun hf => ?_⟩, fun hi hp hf h => ?_⟩
  · exact leaves_nothing hs ((gaugeSupervision_within hi hp h).trans (if_neg (by simp [hf])))
  · exact leaves_of_eq hs ((gaugeSupervision_within hi hp h).trans (if_pos hf))
  · obtain ⟨ppm, hfault⟩ := gaugeSupervision_beyond hi hp hf h
    have only := logErr_logOnly { det := 0x1C, sev := 0 } { s with gauge := { s.gauge with supervision := true } }
    have inv := logErr_inv { det := 0x1C, sev := 0 } (s := { s with gauge := { s.gauge with supervision := true } }) hs
    rw [gaugeLog_eq, logErr_gauge] at hfault
    exact ⟨_, (congrArg (leaves s) hfault).trans (leaves_inv (inv.gauged rfl) only.fuses only.pending), rfl, rfl, only.gauged rfl⟩

/-! ### The test port and the seal -/

/-- A readout's block uses a draw at most. -/
theorem readoutBlock_draws (r : Readout) (s : State) : ∃ d, (readoutBlock r s).2 = { s with draws := d } := by
  unfold readoutBlock
  simp only
  split
  · exact ⟨_, rfl⟩
  · split <;> exact ⟨_, rfl⟩

/-- A readout without a task is given to the port. -/
theorem gaugeSign_port {s : State} {r : Readout} {rest : List Readout} (hq : s.gauge.queue = r :: rest) (ht : r.task = none) :
    gaugeSign s = onGauge (fun g => { g with portOut := (readoutBlock r { s with gauge := { s.gauge with
      queue := rest, seq := s.gauge.seq + 1 } }).1 })
      (readoutBlock r { s with gauge := { s.gauge with queue := rest, seq := s.gauge.seq + 1 } }).2 := by
  simp [gaugeSign, hq, ht, onGauge]

/-- Settles O23. -/
theorem gaugeServesTestPort : Obligations.GaugeServesTestPort := by
  intro s r rest kind nonce hs
  refine ⟨fun hq ht => ?_, fun hq => ?_, fun hk hl => ?_, fun h => ?_⟩
  · obtain ⟨d, hd⟩ := readoutBlock_draws r { s with gauge := { s.gauge with queue := rest, seq := s.gauge.seq + 1 } }
    have signed := gaugeSign_port hq ht
    rw [hd] at signed
    exact ⟨_, leaves_of_eq hs signed, rfl, rfl, rfl, rfl⟩
  · exact leaves_nothing hs (by simp [gaugeSign, hq])
  · exact leaves_of_eq hs ((if_neg (by simp; omega)).trans rfl)
  · exact leaves_nothing hs (if_pos (by simpa using h))

/-- A calibration write before the seal. -/
theorem burnt_cal {s : State} (hs : s.Inv) (hf : s.fuses.sealed = false) (w : Nat) (v : BitVec 32) :
    burnt s { s with fuses := { s.fuses with cal := smapSet s.fuses.cal w v } } =
      .next { s with fuses := { s.fuses with cal := smapSet s.fuses.cal w v } } :=
  burnt_inv (t := { s with fuses := { s.fuses with cal := smapSet s.fuses.cal w v } }) hs (by simp [hf]) rfl

/-- A burning command that burns nothing. -/
theorem burnt_sealed {s t : State} (hs : t.Inv) (hf : t.fuses = s.fuses) (hp : t.pending = s.pending) : burnt s t = .next t :=
  burnt_inv hs (by rw [hf]; simp) hp

/-- Settles O24. -/
theorem gaugeTestPortAndSeal : Obligations.GaugeTestPortAndSeal := by
  intro s d w v b hs
  refine ⟨fun h => ?_, fun h => ?_, ?_, fun hf => ?_, fun hf => ?_, fun hf => ?_, fun hf => ?_⟩
  · exact leaves_of_eq hs (if_pos h)
  · exact leaves_nothing hs (if_neg h)
  · exact leaves_of_eq hs rfl
  · exact (congrArg (burnt s) (if_neg (by simp [hf]))).trans (burnt_cal hs hf w v)
  · exact (congrArg (burnt s) (if_pos hf)).trans (burnt_sealed hs rfl rfl)
  · exact (congrArg (burnt s) (if_neg (by simp [hf]))).trans (burnt_inv hs (by simp [hf]) rfl)
  · exact (congrArg (burnt s) (if_pos hf)).trans (burnt_sealed hs rfl rfl)

end Sys2Proof.Machine
end

section
/-! PROOFS. The election of a grandmaster and the announcements it hears (R437, R440). -/

namespace Sys2Proof.Machine

/-! ### An election touches Fabric Time alone -/

theorem elect_frame (s : State) : elect s = { s with time := (elect s).time } := by
  unfold elect
  simp only
  split
  · split <;> rfl
  · split
    · rfl
    · split
      · rfl
      · split <;> rfl

@[simp] theorem elect_regs (s : State) : (elect s).regs = s.regs := by rw [elect_frame]
@[simp] theorem elect_cmd (s : State) : (elect s).cmd = s.cmd := by rw [elect_frame]
@[simp] theorem elect_fuses (s : State) : (elect s).fuses = s.fuses := by rw [elect_frame]
@[simp] theorem elect_pending (s : State) : (elect s).pending = s.pending := by rw [elect_frame]

/-- An engine that may be grandmaster, and has heard of none, is its own. -/
theorem elect_self {s : State} (ha : s.time.announces = []) (hp : gmPrioOf s < 255) (hc : s.clk.coast = false) :
    elect s = { s with time := { s.time with parent := none, gmEid := (ownEid s).toNat, gmPrio := gmPrioOf s, steps := 0, holdover := false
                                             holdSince := none, acquire := none, lastSync := none } } := by
  have own : ownCandidate s = true := by simp [ownCandidate, hp, hc]
  simp [elect, ha, own, bestGm, onTime]

/-- An engine that may not be, and has heard of none, knows none. -/
theorem elect_none {s : State} (ha : s.time.announces = []) (h : 255 ≤ gmPrioOf s ∨ s.clk.coast = true) :
    (elect s).time.gmPrio = 0xFF ∧ (elect s).time.parent = none := by
  have own : ownCandidate s = false := by
    rcases h with h | h
    · simp [ownCandidate, show ¬ gmPrioOf s < 255 by omega]
    · simp [ownCandidate, h]
  simp only [elect, ha, own, List.filter_nil, Bool.false_eq_true, if_false, List.map_nil, List.append_nil, bestGm, onTime_time]
  trivial

/-! ### Announcements -/

section
variable {s : State} {src : Nat} {a : Announce} (hf : s.time.announces.find? (fun a => a.src == src) = some a)
include hf

theorem announceExpire_young (h : usSince s a.at_ < 375000) : announceExpire src s = s := by
  simp only [announceExpire, hf, if_pos h]

theorem announceExpire_other (h : 375000 ≤ usSince s a.at_) (hp : s.time.parent ≠ some src) : announceExpire src s =
    elect { s with time := { s.time with announces := s.time.announces.filter (fun x => x.src != src) } } := by
  simp [announceExpire, hf, Nat.not_lt.2 h, onTime, hp]

theorem announceExpire_parent (h : 375000 ≤ usSince s a.at_) (hp : s.time.parent = some src) : announceExpire src s =
    elect { s with time := { s.time with
      announces := s.time.announces.filter (fun x => x.src != src)
      parent := none, holdover := true, holdSince := some (tick s), acquire := none, lastSync := none } } := by
  simp [announceExpire, hf, Nat.not_lt.2 h, onTime, hp, enterHoldover, tick]

end

/-- Settles O26. -/
theorem announcementsExpire : Obligations.AnnouncementsExpire := by
  refine ⟨fun s src a hs hf => ⟨fun h => ?_, fun h hp => ?_, fun h hp => ?_⟩, fun s => ⟨?_, fun ha hp hc => ⟨?_, ?_⟩, elect_none⟩⟩
  · exact leaves_nothing hs (announceExpire_young hf h)
  · exact leaves_of_eq hs (announceExpire_other hf h hp) (elect_regs _) (elect_cmd _) (elect_fuses _) (elect_pending _)
  · exact leaves_of_eq hs (announceExpire_parent hf h hp) (elect_regs _) (elect_cmd _) (elect_fuses _) (elect_pending _)
  · rw [elect_frame]
  · rw [elect_self ha hp hc]
  · rw [elect_self ha hp hc]
    simp [timeLocked, hp, ownEid]

end Sys2Proof.Machine
end

section
/-! PROOFS. What accesses and messages keep, said once for every relation that an error record, an injection, a poisoned line and a
free value respect. -/

namespace Sys2Proof.Machine

/-! ### Frames of accesses -/

/-- A relation between the states before and after that holds of what any access may do: write an error record, use an injection,
count a poisoned line, draw a free value. -/
structure Frame (R : State → State → Prop) : Prop where
  refl : ∀ s, R s s
  trans : ∀ {s t u}, R s t → R t u → R s u
  logged : ∀ {s t}, LogOnly s t → R s t
  armed : ∀ (s : State) i, R s { s with rep := { s.rep with inj := i } }
  met : ∀ (s : State) k, R s { s with mem := { s.mem with poisonCount := k } }
  drawn : ∀ (s : State) d, R s { s with draws := d }

/-- An access for whatever task whose states before and after are related, whether it yields a value or stops. -/
def Within (R : State → State → Prop) {α : Type} (a : Act α) : Prop := ∀ w s, R s ((a.run w).run s).2

theorem Within.go {R : State → State → Prop} {α : Type} {a : Act α} (h : Within R a) (id : Option Nat) (s : State) :
    R s (a.go id s).2 := h _ s

/-- What handles an access's stop runs where the access stops. -/
theorem run_tryCatch {α : Type} (a : Act α) (f : Stop → Act α) (w : Serves) (s : State) :
    ((tryCatch a f).run w).run s = match (a.run w).run s with
      | (.ok x, u) => (.ok x, u)
      | (.error e, u) => ((f e).run w).run u := by
  have caught : (tryCatch a f).run w = ExceptT.tryCatch (a.run w) (fun e => (f e).run w) := rfl
  rw [caught]
  simp only [ExceptT.tryCatch, ExceptT.run, ExceptT.mk, bind, StateT.bind]
  rcases (a.run w) s with ⟨e | x, u⟩ <;> rfl

/-- What follows an access runs where the access yields a value. -/
theorem run_bind {α β : Type} (a : Act α) (f : α → Act β) (w : Serves) (s : State) :
    (((a >>= f).run w).run s) = match (a.run w).run s with
      | (.ok x, u) => ((f x).run w).run u
      | (.error e, u) => (.error e, u) := by
  change (let (y, u) := (a.run w).run s; (ExceptT.bindCont (fun x => f x w) y : StateM State (Except Stop β)) u) = _
  rcases (a.run w).run s with ⟨e | x, u⟩ <;> rfl

namespace Within

variable {R : State → State → Prop} (F : Frame R) {α β : Type}
include F

theorem pure (x : α) : Within R (Pure.pure x : Act α) := fun _ s => F.refl s

theorem stop (x : Stop) : Within R (Machine.stop x : Act α) := fun _ s => F.refl s

theorem get : Within R (MonadState.get : Act State) := fun _ s => F.refl s

theorem read : Within R (MonadReader.read : Act Serves) := fun _ s => F.refl s

omit F in
theorem modified {f : State → State} (h : ∀ s, R s (f s)) : Within R (modify f : Act Unit) := fun _ s => h s

theorem bind {a : Act α} {f : α → Act β} (h : Within R a) (k : ∀ x, Within R (f x)) : Within R (a >>= f) := by
  intro w s
  have hs := h w s
  rw [run_bind]
  rcases ha : (a.run w).run s with ⟨e | x, u⟩ <;> rw [ha] at hs
  · exact hs
  · exact F.trans hs (k x w u)

omit F in
/-- A read of the state before an access, whose value is that state. -/
theorem getThen {f : State → Act β} (k : ∀ s w, R s (((f s).run w).run s).2) : Within R (MonadState.get >>= f) := fun w s => k s w

theorem catching {a : Act α} {f : Stop → Act α} (h : Within R a) (k : ∀ x, Within R (f x)) : Within R (tryCatch a f) := by
  intro w s
  have hs := h w s
  rw [run_tryCatch]
  rcases ha : (a.run w).run s with ⟨e | x, u⟩ <;> rw [ha] at hs
  · exact F.trans hs (k e w u)
  · exact hs

end Within

section
variable {R : State → State → Prop} (F : Frame R)
include F

theorem Frame.injectAt (det unit : Nat) (s : State) : R s (injectAt det unit s).2 := by
  unfold Machine.injectAt
  split
  · exact F.refl s
  · split
    · exact F.refl s
    · split
      · exact F.armed s _
      · split <;> exact F.armed s _

theorem Frame.logErr (e : ErrRec) (s : State) : R s (logErr e s) := F.logged (logErr_logOnly e s)

theorem injectedAct_within (det unit : Nat) : Within R (injectedAct det unit) := fun _ s => F.injectAt det unit s

theorem logAct_within (e : ErrRec) : Within R (logAct e) := fun _ s => F.logErr _ s

theorem Frame.offlineResult (s : State) (u : Nat) : R s (offlineResult s u).2 := by
  unfold Machine.offlineResult
  split
  · split
    · exact F.refl s
    · exact F.drawn s _
  · exact F.refl s

theorem needSite_within (a : Nat) : Within R (needSite a) := by
  unfold needSite
  refine .bind F (.get F) fun s => ?_
  split
  · exact .pure F _
  · refine .bind F (injectedAct_within F _ _) fun fired => ?_
    split
    · exact .bind F (logAct_within F _) fun _ => .bind F (.get F) fun _ => .stop F _
    · refine .bind F (.get F) fun s => ?_
      split
      · exact .pure F _
      · exact .getThen fun s _ => F.offlineResult s _

theorem needLink_within (l : Nat) : Within R (needLink l) := by
  unfold needLink
  refine .bind F (injectedAct_within F _ _) fun fired => ?_
  split
  · exact .bind F (logAct_within F _) fun _ => .bind F (.get F) fun _ => .stop F _
  · refine .bind F (.get F) fun s => ?_
    split
    · exact .pure F _
    · exact .bind F (.get F) fun _ => .stop F _

theorem meetPoison_within (line : Nat) (inj : Bool) : Within R (meetPoison line inj) := by
  unfold meetPoison
  refine .bind F (.modified fun s => F.met s _) fun _ => .bind F (.get F) fun s => ?_
  exact logAct_within F _

theorem checkPoison_within (ls : List Nat) : Within R (checkPoison ls) := by
  induction ls with
  | nil => exact .pure F _
  | cons l ls ih =>
    unfold checkPoison
    refine .bind F (.get F) fun s => .bind F ?_ fun inj => ?_
    · split
      · exact injectedAct_within F _ _
      · exact .pure F _
    · split
      · exact .bind F (meetPoison_within F _ _) fun _ => .stop F _
      · exact ih

theorem readDev_within (a n : Nat) : Within R (readDev a n) := by
  unfold readDev
  refine .bind F (needSite_within F a) fun _ => .bind F ?_ fun far => ?_
  · split
    · exact injectedAct_within F _ _
    · exact .pure F _
  · split
    · exact .bind F (.bind F (logAct_within F _) fun _ => .pure F _) fun _ => .pure F _
    · exact .bind F (checkPoison_within F _) fun _ => .bind F (.get F) fun _ => .pure F _

theorem readPlace_within (p : Place) (n : Nat) : Within R (readPlace p n) := by
  unfold readPlace
  split
  · exact .pure F _
  · cases p with
    | dev a => exact readDev_within F a n
    | host l a => exact .bind F (needLink_within F l) fun _ => .bind F (.get F) fun _ => .pure F _
    | scratch o => exact .bind F (.get F) fun _ => .pure F _

theorem Frame.lookDev (a n : Nat) (s : State) : R s (lookDev a n s).2 := by
  have hread := (readDev_within F a n).go none s
  unfold Machine.lookDev
  split <;> rename_i h <;> rw [h] at hread <;> exact hread

end

/-! ### Messages -/

/-- A frame that leaves room for the routes read and the messages on their way. -/
structure RouteFrame (R : State → State → Prop) : Prop extends Frame R where
  carried : ∀ (s : State) r x, R s { s with fab := { s.fab with routes := r, sent := x } }

section
variable {R : State → State → Prop} (F : RouteFrame R)
include F

theorem RouteFrame.readRoute (m : Nat) (s : State) : R s (readRoute m s).2 := by
  have looked := F.trans (F.injectAt 0x11 0 s)
    (F.lookDev (bitsNat (injectAt 0x11 0 s).2.regs.fabRoute 16 40 * 2 ^ 16 + 16 * m) 16 (injectAt 0x11 0 s).2)
  unfold Machine.readRoute
  simp only
  split <;> rename_i h <;> rw [h] at looked <;> exact looked

theorem RouteFrame.routeEntry (m : Nat) (s : State) : R s (routeEntry m s).2 := by
  have kept : ∀ (u : State) e, R u { u with fab := { u.fab with routes := e } } := fun u e => F.carried u e u.fab.sent
  have first := F.readRoute m s
  unfold Machine.routeEntry
  split
  · exact F.refl s
  · split
    · exact F.refl s
    · simp only
      split <;> rename_i h1 <;> rw [h1] at first
      · exact F.trans first (kept _ _)
      · have second := F.trans first (F.readRoute m _)
        split <;> rename_i h2 <;> rw [h2] at second
        · exact F.trans second (kept _ _)
        · exact F.trans second (F.logErr _ _)

theorem RouteFrame.choosePort (dst cls task : Nat) (s : State) : R s (choosePort dst cls task s).2 := by
  have entry := F.routeEntry (eidModule dst) s
  unfold Machine.choosePort
  split
  · exact F.refl s
  · simp only
    split
    · exact entry
    · split <;> exact entry

theorem RouteFrame.transmit (h : Header) (b : Bytes) (s : State) : R s (transmit h b s) := by
  have port := F.choosePort (hDst h) (hCls h) (hTask h) s
  unfold Machine.transmit
  split
  · split <;> rename_i hp <;> rw [hp] at port
    · exact F.trans port (F.carried _ _ _)
    · exact port
  · exact F.refl s

end

/-- What a message that leaves may change of the endpoint (R401, R409 to R413). -/
def FabState.sending (f g : FabState) : FabState :=
  { f with kept := g.kept, nextMsg := g.nextMsg, txSeq := g.txSeq, credits := g.credits, selfQ := g.selfQ, sent := g.sent, routes := g.routes }

/-- A frame that leaves room for messages too. -/
structure SendFrame (R : State → State → Prop) : Prop extends Frame R where
  said : ∀ (s : State) g, R s { s with fab := s.fab.sending g }

section
variable {R : State → State → Prop} (F : SendFrame R)
include F

theorem SendFrame.toRouteFrame : RouteFrame R where
  toFrame := F.toFrame
  carried s r x := F.said s { s.fab with routes := r, sent := x }

theorem SendFrame.transmit (h : Header) (b : Bytes) (s : State) : R s (transmit h b s) := F.toRouteFrame.transmit h b s

/-- A change of what a message that leaves may change. -/
theorem SendFrame.of_fab {s : State} {g : FabState} (h : g = s.fab.sending g) : R s { s with fab := g } := by
  rw [h]
  exact F.said s g

theorem SendFrame.firstSend (m : SentMsg) (s : State) : R s (firstSend m s) := by
  unfold Machine.firstSend
  extract_lets u v
  have hu : R s u := by
    unfold u
    split
    · exact F.of_fab rfl
    · exact F.refl s
  exact F.trans hu (F.trans (F.of_fab rfl) (F.transmit _ _ _))

theorem SendFrame.sendLoose (dst ty : Nat) (ext : List (Nat × Nat × Nat)) (s : State) : R s (sendLoose dst ty ext s) := by
  have numbered : R s { s with fab := { s.fab with nextMsg := s.fab.nextMsg + 1 } } := F.of_fab rfl
  unfold Machine.sendLoose
  split
  · exact F.refl s
  · simp only
    split
    · exact numbered
    · exact F.trans numbered (F.transmit _ _ _)

theorem SendFrame.sendMsg (dst ty task tag : Nat) (ext : List (Nat × Nat × Nat)) (b : Bytes) (s : State) :
    R s (sendMsg dst ty task tag ext b s) := by
  unfold Machine.sendMsg
  split
  · exact F.refl s
  · extract_lets load
    split
    · exact F.of_fab rfl
    · simp only
      split
      · exact F.trans (F.of_fab rfl) (F.firstSend _ _)
      · split
        · exact F.trans (F.of_fab rfl) (F.sendLoose _ _ _ _)
        · exact F.of_fab rfl

omit F in
theorem Frame.foldl (F : Frame R) {α : Type} {f : State → α → State} (h : ∀ s x, R s (f s x)) (l : List α) (s : State) : R s (l.foldl f s) := by
  induction l generalizing s with
  | nil => exact F.refl s
  | cons x l ih => exact F.trans (h s x) (ih _)

theorem SendFrame.sayDown (s : State) : R s (sayDown s) :=
  F.toFrame.foldl (fun _ _ => F.sendMsg ..) _ _

end

/-! ### What a message sent changes -/

/-- What a message sent may change: the endpoint as messages leave, and what reading the routing table may, an error record among it. -/
def SendOnly (s t : State) : Prop :=
  t = { s with
    fab := s.fab.sending t.fab
    draws := t.draws
    regs := { s.regs with irqPend := t.regs.irqPend, msixPend := t.regs.msixPend }
    cmd := { s.cmd with msix := t.cmd.msix }
    mem := { s.mem with dev := t.mem.dev, poison := t.mem.poison, poisonCount := t.mem.poisonCount }
    host := { s.host with near := t.host.near, backInv := t.host.backInv, bisnp := t.host.bisnp }
    rep := { s.rep with
      prod := t.rep.prod, lost := t.rep.lost, sev0 := t.rep.sev0, sev1 := t.rep.sev1, sev2 := t.rep.sev2, buffer := t.rep.buffer
      fired := t.rep.fired, quiet := t.rep.quiet, inj := t.rep.inj } }

theorem LogOnly.sendOnly {s t : State} (h : LogOnly s t) : SendOnly s t := by
  have hhost : t.host = { s.host with near := t.host.near, backInv := t.host.backInv, bisnp := t.host.bisnp } := by rw [← h.host]
  have hcmd : t.cmd = { s.cmd with msix := t.cmd.msix } := by rw [← h.counts]
  have hregs : t.regs = { s.regs with irqPend := t.regs.irqPend, msixPend := t.regs.msixPend } := by rw [← h.regs]
  have hmem : t.mem = { s.mem with dev := t.mem.dev, poison := t.mem.poison, poisonCount := t.mem.poisonCount } := by rw [← h.memory]
  have hrep : t.rep = { s.rep with
      prod := t.rep.prod, lost := t.rep.lost, sev0 := t.rep.sev0, sev1 := t.rep.sev1, sev2 := t.rep.sev2, buffer := t.rep.buffer
      fired := t.rep.fired, quiet := t.rep.quiet, inj := t.rep.inj } := by rw [← h.repair]
  unfold SendOnly
  rw [← hhost, ← hcmd, ← hregs, ← hmem, ← hrep, h.fab]
  change t = { s with fab := s.fab, draws := t.draws, regs := t.regs, cmd := t.cmd, mem := t.mem, host := t.host, rep := t.rep }
  rw [← h.fuses, ← h.boot, ← h.tab, ← h.hold, ← h.grad, ← h.berm, ← h.strm, ← h.xl, ← h.gov, ← h.fab, ← h.clk, ← h.time, ← h.gauge, ← h.pending]

theorem sendOnly_frame : SendFrame SendOnly where
  refl _ := rfl
  trans h k := Eq.trans k (by rw [h]; rfl)
  logged := LogOnly.sendOnly
  armed _ _ := rfl
  met _ _ := rfl
  drawn _ _ := rfl
  said _ _ := rfl

end Sys2Proof.Machine
end

section
/-! PROOFS. Resets and firmware (R484 to R493, R466), the boot self-test (R496) and ring 0 (R507). -/

namespace Sys2Proof.Machine

/-! ### Cold reset -/

/-- The Reset columns hold no reserved bit. -/
theorem cold_tidy (eid : Eid) : (Regs.cold eid).tidy = Regs.cold eid := by
  by_cases h : bitsNat eid 0 4 = 0 <;> simp [Regs.tidy, Regs.cold, h]

theorem coldState_inv (s : State) : (coldState s).Inv := ⟨cold_tidy _, fun _ h => by cases h⟩

/-- What cold reset leaves (Table Boot-2). -/
theorem leaves_coldState (s : State) : leaves s (coldState s) = .next (coldState s) := leaves_inv (coldState_inv s) rfl rfl

theorem coldRelease_settles {s : State} (h : s.fuses.xsettle ≤ 8) :
    coldRelease s = { s with boot := { s.boot with inReset := false } } := by
  unfold coldRelease
  split
  · exact if_neg (Nat.not_lt.2 h)
  · rename_i hr
    simp only [Bool.not_eq_true] at hr
    rw [← hr]

/-- Settles O28. -/
theorem coldResetClears : Obligations.ColdResetClears := by
  refine ⟨fun s _ => ⟨coldState s, leaves_coldState s, leaves_coldState s, leaves_coldState s, rfl, rfl, rfl, rfl, rfl, rfl, rfl, rfl, rfl, rfl,
    rfl, rfl, rfl, rfl, rfl, rfl, rfl, rfl, rfl, rfl, rfl, rfl, rfl, rfl, rfl, rfl, rfl, rfl, rfl, rfl, rfl⟩, fun s hs => ⟨?_, ?_, fun h => ?_, fun h => ?_⟩⟩
  · exact leaves_self hs
  · exact leaves_self hs
  · exact leaves_of_eq hs (coldRelease_settles h)
  · cases hr : s.boot.inReset
    · exact leaves_nothing hs (by simp [coldRelease, hr])
    · exact congrArg (leaves s) (by simp [coldRelease, hr, h])

/-! ### Engine reset -/

/-- Before firmware restarts, an engine reset leaves what `resetState` names; the messages that tell it change no more than messages do. -/
structure ResetKept (s t : State) : Prop where
  boot : t.boot = { s.boot with fwResult := 0, commitResult := 0, bootFail := 0 }
  regs : t.regs = { Regs.cold s.fuses.eid with clkCtl := s.regs.clkCtl, clkout := s.regs.clkout }
  cmd : t.cmd.rings = [] ∧ t.cmd.tasks = [] ∧ t.cmd.staged = [] ∧ t.cmd.pendCommit = none
  tab : t.tab = TableState.cold
  hold : t.hold = HolderState.cold
  grad : t.grad = GradState.cold
  strm : t.strm.streams = [] ∧ t.strm.sems = []
  xl : t.xl = XlateState.cold
  gov : t.gov = GovState.cold
  fab : t.fab.kept = [] ∧ t.fab.lost = s.fab.lost
  clk : t.clk = s.clk
  gauge : t.gauge = s.gauge
  fuses : t.fuses = s.fuses
  mem : t.mem.host = s.mem.host ∧ t.mem.scratch = []
  rep : t.rep.polderMap = s.rep.polderMap ∧ t.rep.soft = s.rep.soft ∧ t.rep.inj = none
  pending : t.pending = s.pending

theorem setFtimeCtl_frame (v : Word) (s : State) :
    setFtimeCtl v s = { s with regs := { s.regs with ftimeCtl := v }, time := (setFtimeCtl v s).time } := by
  unfold setFtimeCtl
  simp only
  rw [elect_frame]
  split <;> rfl

theorem resetState_kept (s : State) : ResetKept s (resetState s) := by
  unfold resetState
  simp only
  rw [setFtimeCtl_frame]
  constructor <;> (repeat' apply And.intro) <;> rfl

/-- Messages sent before the reset make no difference to what it keeps. -/
theorem ResetKept.of_sendOnly {s u t : State} (h : SendOnly s u) (k : ResetKept u t) : ResetKept s t := by
  rw [h] at k
  exact ⟨k.boot, k.regs, k.cmd, k.tab, k.hold, k.grad, k.strm, k.xl, k.gov, k.fab, k.clk, k.gauge, k.fuses, k.mem, k.rep, k.pending⟩

theorem engReset_kept (s : State) : ResetKept s (resetState (sayDown s)) :=
  .of_sendOnly (sendOnly_frame.sayDown s) (resetState_kept _)

theorem ResetKept.inv {s t : State} (k : ResetKept s t) (hs : s.Inv) : t.Inv := by
  refine ⟨?_, ?_⟩
  · have hclk : s.regs.clkCtl &&& 0x000000001FC00FFF = s.regs.clkCtl := congrArg Regs.clkCtl hs.tidy
    have hout : s.regs.clkout &&& 0x0000000000017FFF = s.regs.clkout := congrArg Regs.clkout hs.tidy
    rw [k.regs]
    calc ({ Regs.cold s.fuses.eid with clkCtl := s.regs.clkCtl, clkout := s.regs.clkout } : Regs).tidy
        = { (Regs.cold s.fuses.eid).tidy with clkCtl := s.regs.clkCtl &&& 0x000000001FC00FFF
                                              clkout := s.regs.clkout &&& 0x0000000000017FFF } := rfl
      _ = _ := by rw [cold_tidy, hclk, hout]
  · obtain ⟨-, htasks, -⟩ := k.cmd
    rw [htasks]
    intro _ h
    cases h

/-- Firmware is restarted from phase 0x3 on; before it start-up goes on (R487, R491). -/
theorem engReset_restarts {s : State} (hr : s.boot.inReset = false) (h7 : s.boot.phase ≠ 7)
    (hfw : (s.boot.phase = 1 ∨ s.boot.phase = 2) ∨ (s.regs.fwSrc.getLsbD 60 = false ∧ sha256 s.boot.image = s.boot.digest)) :
    engReset s = { resetState (sayDown s) with boot := { (resetState (sayDown s)).boot with
      phase := if s.boot.phase = 1 ∨ s.boot.phase = 2 then s.boot.phase else 5 } } := by
  have boot := (engReset_kept s).boot
  unfold engReset
  rw [if_neg (by simp [hr]), if_neg h7]
  simp only
  generalize resetState (sayDown s) = t at boot ⊢
  have phase : t.boot.phase = s.boot.phase := by rw [boot]
  by_cases h : s.boot.phase = 1 ∨ s.boot.phase = 2
  · rw [if_pos (by simpa [phase] using h), if_pos h, ← phase]
  · obtain ⟨hsrc, hsha⟩ := hfw.resolve_left h
    have whole : sha256 t.boot.image = t.boot.digest := by rw [boot]; exact hsha
    rw [if_neg (by simpa [phase] using h), if_neg h]
    simp only [fwRestart, hsrc, whole, onBoot, Bool.not_false, Bool.true_and, beq_self_eq_true, if_true]

/-- Settles O29. -/
theorem engineResetClears : Obligations.EngineResetClears := by
  intro s hs
  refine ⟨fun hr => ?_, fun hr h7 => ?_, fun hr h7 hfw => ?_⟩
  · exact leaves_nothing hs (if_pos hr)
  · exact leaves_misuse hs _ ((if_neg (by simp [hr])).trans (if_pos h7))
  · have kept := engReset_kept s
    have restarted := engReset_restarts hr h7 hfw
    generalize resetState (sayDown s) = t at kept restarted
    obtain ⟨hrings, htasks, hstaged, hcommit⟩ := kept.cmd
    obtain ⟨hpolder, hsoft, hinj⟩ := kept.rep
    refine ⟨_, (congrArg (leaves s) restarted).trans (leaves_inv (kept.inv hs) kept.fuses kept.pending), ?_, kept.regs, hrings, htasks,
      hstaged, hcommit, kept.tab, kept.hold, kept.grad, kept.strm.1, kept.strm.2, kept.xl, kept.gov, kept.fab.1, kept.fab.2, kept.clk,
      kept.gauge, kept.fuses, kept.mem.1, kept.mem.2, hpolder, hsoft, hinj⟩
    simp only [kept.boot]

/-! ### Firmware -/

section
variable {s : State} (hr : s.boot.inReset = false)
include hr

theorem fwLoad_awaited (hp : s.boot.phase = 3) : fwLoad s = fwLoadFrom s.regs.fwSrc s := by
  simp [fwLoad, hr, hp]

theorem fwLoad_discarded (hp : s.boot.phase ≠ 3) : fwLoad s = misuse 0x100 s := by
  unfold fwLoad
  rw [if_neg (by simp [hr]), if_pos (by simpa using hp)]

end

/-- An image that passes every check runs (R490). -/
theorem fwLoadFrom_passes {s : State} {src : Word} {h body : Bytes} (hh : fwRead (fwPlace src) 256 s = (some h, s))
    (hl : fwLenOk (leField h 16 4) = true) (hb : fwRead ((fwPlace src).add 256) (leField h 16 4) s = (some body, s))
    (hj : fwJudge s.fuses h body = 1) : fwLoadFrom src s = { s with boot := { s.boot with
      phase := 5, fwResult := 1, fwVersion := BitVec.ofNat 32 (leField h 12 4), fwSvn := BitVec.ofNat 8 (leField h 11 1)
      image := body, digest := fwSlice h 24 32 } } := by
  simp only [fwLoadFrom, hh, hl, hb, hj]
  rfl

theorem fwLoadFrom_unread {s : State} {src : Word} (hh : fwRead (fwPlace src) 256 s = (none, s)) :
    fwLoadFrom src s = { s with boot := { s.boot with phase := 3, fwResult := 2, fwVersion := 0, fwSvn := 0 } } := by
  simp only [fwLoadFrom, hh]
  rfl

/-- With no task of its own and the image intact, firmware runs on (R466). -/
theorem heartbeatTimeout_restarts {s : State} (hr : s.boot.inReset = false) (hi : s.rep.inj = none) (hw : writesLive s = true)
    (ht : fwTasks s = []) (hsha : sha256 s.boot.image = s.boot.digest) : heartbeatTimeout s =
      { logErr { det := 0x19, sev := 2, action := 7 } s with boot := { s.boot with phase := 5 } } := by
  have none_left : fwTasks (logErr { det := 0x19, sev := 2, action := 7 } s) = [] := by simpa [fwTasks] using ht
  simp [heartbeatTimeout, hr, hw, injectAt_none _ _ hi, none_left, fwRestart, hsha, onBoot]

/-- Settles O30. -/
theorem firmwareLoads : Obligations.FirmwareLoads := by
  refine ⟨fun s h body hs hr => ⟨fun hp hh hl hb hj => ?_, fun hp hh => ?_, fun hp => ?_, fun hp => ?_⟩,
    fun s hs hr hi => ⟨fun hw ht hsha => ?_, fun hw => ?_⟩⟩
  · exact leaves_of_eq hs ((fwLoad_awaited hr hp).trans (fwLoadFrom_passes hh hl hb hj))
  · exact leaves_of_eq hs ((fwLoad_awaited hr hp).trans (fwLoadFrom_unread hh))
  · exact leaves_misuse hs _ (fwLoad_discarded hr hp)
  · have live : writesLive s = true := by simpa [writesLive] using hp
    have raised : svnCommit s = { s with fuses := { s.fuses with svnFloor := max s.fuses.svnFloor (min 127 s.boot.fwSvn.toNat) } } := by
      rcases hp with hp | hp <;> simp [svnCommit, hr, hp, live]
    exact (congrArg (burnt s) raised).trans (burnt_inv hs (by simp) rfl)
  · have only := logErr_logOnly { det := 0x19, sev := 2, action := 7 } s
    exact (congrArg (leaves s) (heartbeatTimeout_restarts hr hi hw ht hsha)).trans
      (leaves_inv (logErr_inv { det := 0x19, sev := 2, action := 7 } hs) only.fuses only.pending)
  · exact leaves_nothing hs (if_pos (by simp [hw]))

/-! ### The boot self-test -/

/-- Sectors dropped for no task leave the berm's counts alone to change. -/
theorem bermDrop_nobody (hit : Sector → Bool) (s : State) : ∃ b, bermDrop .nobody hit s = { s with berm := b } ∧
    b.sets = (s.berm.sets.map (fun e => (e.1, e.2.filter (fun x => !hit x)))).filter (fun e => !e.2.isEmpty) := by
  unfold bermDrop
  simp only
  split
  · exact ⟨_, rfl, rfl⟩
  · unfold bermCount
    simp only
    split
    · exact ⟨_, rfl, rfl⟩
    · exact ⟨_, rfl, rfl⟩

/-- Every sector dropped leaves no set. -/
theorem drop_all_sets (l : SMap (List Sector)) :
    (l.map (fun e => (e.1, e.2.filter (fun x => !(fun _ => true) x)))).filter (fun e => !e.2.isEmpty) = [] := by
  simp

/-- The sets of the boot self-test, where nothing is found. -/
theorem runSets_boot (s : State) : ∃ b h m d, runSets 63 [] .nobody s =
      ⟨[], [], none, none, { s with berm := b, hold := h, mem := m, draws := d }⟩ ∧
    b.sets = [] ∧ m.dev = s.mem.dev ∧ m.host = s.mem.host := by
  obtain ⟨b, hdrop, hsets⟩ := bermDrop_nobody (fun _ => true) s
  simp only [runSets, bermForget, hdrop]
  exact ⟨_, _, _, _, rfl, hsets.trans (drop_all_sets _), rfl, rfl⟩

/-- Settles O31. -/
theorem bootSelftestRuns : Obligations.BootSelftestRuns := by
  intro s found hs
  refine ⟨fun hr hp => ?_, fun h => ?_⟩
  · obtain ⟨b, h, m, d, hrun, hsets, hdev, hhost⟩ := runSets_boot s
    have done : bootSelftest [] s = { s with berm := b, hold := h, mem := m, draws := d, boot := { s.boot with bootFail := 0, phase := 3 } } := by
      simp [bootSelftest, hr, hp, hrun, countOfSet]
    exact ⟨_, leaves_of_eq hs done, rfl, hsets, hdev, hhost, rfl, rfl, rfl, rfl, rfl⟩
  · exact leaves_nothing hs (if_pos (by simpa using h))

/-! ### Ring 0 -/

section
variable {s : State} (hd : (ringGet s 0).st = .disabled)
include hd

theorem ring0On_noBase (hb : rctBase s = 0) : ring0On s = misuse 0x138 s := by
  simp [ring0On, hd, hb]

theorem ring0On_builds (hb : rctBase s ≠ 0) {sq cq : List Xlat}
    (hsq : (ctRange false (2 ^ 11) (ring0Built s).sqBase.toNat ((ring0Built s).sqBase.toNat + 64 * ringDepth (ring0Built s))).go none s =
      (.ok (some sq), s))
    (hcq : (ctRange true (2 ^ 11) (ring0Built s).cqBase.toNat ((ring0Built s).cqBase.toNat + 32 * ringDepth (ring0Built s))).go none s =
      (.ok (some cq), s)) :
    ring0On s = ringSet 0 (ring0Built s) { s with
      xl := { s.xl with ring0Store := sq ++ cq }, cmd := { s.cmd with ring0Moved := false } } := by
  unfold ring0On
  simp only
  rw [if_neg (by simp [hd]), if_neg hb, go_bind_ok _ hsq, go_bind_ok _ hcq]
  rfl

end

theorem ring0On_ignored {s : State} (h : (ringGet s 0).st ≠ .disabled) : ring0On s = s := by
  unfold ring0On
  exact if_pos (by simpa using h)

/-- Settles O32. -/
theorem ringZeroSwitches : Obligations.RingZeroSwitches := by
  intro s hs hr hw
  refine ⟨fun h => ?_, fun hd hb => ?_, fun sq cq hd hb hsq hcq => ?_, fun h => ?_, fun h => ?_⟩
  · exact leaves_nothing hs ((guardWrite_live _ _ hr hw).trans (ring0On_ignored h))
  · exact leaves_misuse hs _ ((guardWrite_live _ _ hr hw).trans (ring0On_noBase hd hb))
  · exact congrArg (leaves s) ((guardWrite_live _ _ hr hw).trans (ring0On_builds hd hb hsq hcq))
  · exact congrArg (leaves s) ((guardWrite_live _ _ hr hw).trans (by simp [ring0Off, h]))
  · exact leaves_nothing hs ((guardWrite_live _ _ hr hw).trans (by simp [ring0Off, h]))

end Sys2Proof.Machine
end

section
/-! PROOFS. The staged set and its commit (R61 to R64, R493, R503), and register writes by field (R499 to R510). -/

namespace Sys2Proof.Machine

/-- The outcome of an effect that keeps fuses, named by a state that meets the invariant. -/
theorem leaves_of_inv {s t u : State} (h : t = u) (hu : u.Inv) (hf : u.fuses = s.fuses := by rfl) (hp : u.pending = s.pending := by rfl) :
    leaves s t = .next u := by
  subst h
  exact leaves_inv hu hf hp

/-! ### Staging -/

theorem stageWrite_stages {s : State} {off : Nat} {v m : Word} (hm : stagedMask off = some m) (ho : off ≠ 0x160)
    (hf : stageFits s.cmd.staged [(off, v &&& m)] = true) :
    stageWrite off v s = { s with cmd := { s.cmd with staged := stageOne s.cmd.staged (off, v &&& m) } } := by
  simp [stageWrite, hm, ho, hf]

theorem stageWrite_full {s : State} {off : Nat} {v m : Word} (hm : stagedMask off = some m)
    (hf : stageFits s.cmd.staged [(off, v &&& m)] = false) : stageWrite off v s = misuse off s := by
  simp [stageWrite, hm, hf]

/-- SOL_MEM_CTL's hbm_online bits act at once, and its other bits join the set. -/
theorem stageWrite_memCtl {s : State} {v : Word} (hf : stageFits s.cmd.staged [(0x160, v &&& 0xF00)] = true) :
    stageWrite 0x160 v s = { bringOnline v s with cmd := { (bringOnline v s).cmd with
      staged := stageOne (bringOnline v s).cmd.staged (0x160, v &&& 0xF00) } } := by
  have hm : stagedMask 0x160 = some 0xF00 := rfl
  simp only [stageWrite, hm, hf, Bool.not_true, Bool.false_eq_true, if_false, if_true]

/-- Settles O33. -/
theorem stagingKeepsRegisters : Obligations.StagingKeepsRegisters := by
  intro s off v m hs hr hw hm
  have acts : exec (.stageWrite off v) s = leaves s (stageWrite off v s) := by
    refine congrArg (leaves s) ?_
    rw [if_pos (by simp [hm])]
    exact guardWrite_live _ _ hr hw
  refine ⟨fun ho hf => ?_, fun hf => ?_, fun hf => ?_, ?_⟩
  · exact acts.trans (leaves_of_inv (stageWrite_stages hm ho hf) hs)
  · exact acts.trans (leaves_misuse hs _ (stageWrite_full hm hf))
  · exact congrArg (leaves s) ((guardWrite_live _ _ hr hw).trans (stageWrite_memCtl hf))
  · exact leaves_of_inv (guardWrite_live _ _ hr hw) hs

/-! ### CFG_COMMIT -/

/-- A captured set goes back whole where nothing was staged since. -/
theorem returnSet_nothingSince (l : List (Nat × Word)) {s : State} (h : s.cmd.staged = []) :
    returnSet l s = { s with cmd := { s.cmd with staged := l } } := by
  simp [returnSet, h]

theorem capture_fails {s : State} {reason i : Nat} (task : Option Nat)
    (h : setChecks s.cmd.staged { s with cmd := { s.cmd with staged := [] } } = some (reason, i)) :
    ∃ r, capture task s.cmd.staged.length s = (some r, { s with cmd := { s.cmd with
      lastReason := BitVec.ofNat 8 reason, lastIndex := BitVec.ofNat 16 i, pendCommit := none } }) := by
  simp only [capture, h, commitBad, bne_self_eq_false, Bool.false_eq_true, if_false]
  rw [returnSet_nothingSince _ rfl]
  exact ⟨_, rfl⟩

theorem capture_passes {s : State} (task : Option Nat)
    (h : setChecks s.cmd.staged { s with cmd := { s.cmd with staged := [] } } = none) :
    capture task s.cmd.staged.length s =
      (none, { s with cmd := { s.cmd with staged := [], pendCommit := some ⟨s.cmd.staged, task⟩ } }) := by
  simp only [capture, h, bne_self_eq_false, Bool.false_eq_true, if_false]

/-- Settles O34. -/
theorem cfgCommitChecks : Obligations.CfgCommitChecks := by
  intro s reason i hs hr
  have taken : s.boot.phase = 5 → (ringGet s 0).st = .disabled → s.cmd.pendCommit = none →
      (s.boot.phase != 5 || (ringGet s 0).st != .disabled || s.cmd.pendCommit.isSome) = false := by
    intro hp hd hc
    simp [hp, hd, hc]
  refine ⟨fun hp hd hc h => ?_, fun hp hd hc h => ?_, fun h => ?_⟩
  · obtain ⟨r, hcap⟩ := capture_fails none h
    refine leaves_of_inv ((if_neg (by simp [hr])).trans ?_) hs
    rw [cfgCommit, taken hp hd hc]
    simp only [hcap, Bool.false_eq_true, if_false]
  · refine congrArg (leaves s) ((if_neg (by simp [hr])).trans ?_)
    rw [cfgCommit, taken hp hd hc]
    simp only [capture_passes none h, Bool.false_eq_true, if_false]
  · refine leaves_misuse hs _ ((if_neg (by simp [hr])).trans ?_)
    rw [cfgCommit, if_pos (by simpa [or_assoc] using h)]

/-! ### The commit point -/

/-- The registers that a set may change while queues, the spillway, the page-table root, the window, the routes, the error ring and
Fabric Time stay where they are. -/
structure Unmoved (r n : Regs) : Prop where
  spillBase : n.spillBase = r.spillBase
  spillCtl : n.spillCtl = r.spillCtl
  fabRoute : n.fabRoute = r.fabRoute
  fabCtl : n.fabCtl = r.fabCtl
  ftimeCtl : n.ftimeCtl = r.ftimeCtl
  hwinCtl : n.hwinCtl = r.hwinCtl
  ptRoot : n.ptRoot = r.ptRoot
  fcQueue : n.fcQueue = r.fcQueue
  errBase : n.errBase = r.errBase

/-- The offsets of the registers whose new values move none of these. -/
def plainOffset (o : Nat) : Prop := o = 0x150 ∨ o = 0x160 ∨ o = 0x1000 ∨ o = 0x1018 ∨ o = 0x1200 ∨ o = 0x1208 ∨ o = 0x1428

theorem applyEntry_unmoved {e : Nat × Word} (h : plainOffset e.1) (r : Regs) : Unmoved r (applyEntry r e) := by
  obtain ⟨o, v⟩ := e
  rcases h with rfl | rfl | rfl | rfl | rfl | rfl | rfl <;> constructor <;> rfl

theorem applyEntries_unmoved {l : List (Nat × Word)} (h : ∀ e ∈ l, plainOffset e.1) (r : Regs) : Unmoved r (applyEntries r l) := by
  induction l generalizing r with
  | nil => constructor <;> rfl
  | cons e l ih =>
    have one := applyEntry_unmoved (h e List.mem_cons_self) r
    have rest := ih (fun x hx => h x (List.mem_cons_of_mem _ hx)) (applyEntry r e)
    exact ⟨rest.spillBase.trans one.spillBase, rest.spillCtl.trans one.spillCtl, rest.fabRoute.trans one.fabRoute,
      rest.fabCtl.trans one.fabCtl, rest.ftimeCtl.trans one.ftimeCtl, rest.hwinCtl.trans one.hwinCtl, rest.ptRoot.trans one.ptRoot,
      rest.fcQueue.trans one.fcQueue, rest.errBase.trans one.errBase⟩

/-- A set that moves nothing is in force at once, with no line to wait for. -/
theorem putSet_unmoved {l : List (Nat × Word)} {s : State} (h : Unmoved s.regs (applyEntries s.regs l)) :
    putSet l s = some ([], { s with regs := applyEntries s.regs l }) := by
  have root : rootMoves s.regs (applyEntries s.regs l) = false := by simp [rootMoves, h.ptRoot]
  have queue : queueMoves s.regs (applyEntries s.regs l) = false := by simp [queueMoves, h.fcQueue]
  have spill : spillChanges s.regs (applyEntries s.regs l) = false := by simp [spillChanges, h.spillBase, h.spillCtl]
  have lines : windowLines s.regs (applyEntries s.regs l) s = [] := by simp [windowLines, h.hwinCtl]
  simp [putSet, root, queue, spill, lines, withRegs, h.fabRoute, h.ftimeCtl, h.errBase, backInvalidateWhere]

/-- Settles O35. -/
theorem commitPointApplies : Obligations.CommitPointApplies := by
  intro s c id t w hs
  refine ⟨fun h => leaves_nothing hs (by simp [configCommitPoint, h]), fun hc hready htask ht hph hcross hplain => ?_⟩
  have started : commitStarted c s = true := by simp [commitStarted, htask, ht, hph]
  have put := putSet_unmoved (s := s) (applyEntries_unmoved hplain s.regs)
  refine congrArg (leaves s) ?_
  simp only [configCommitPoint, hc, started, hready, Bool.and_self, if_true, commitNow, hcross, put, htask, List.isEmpty_nil]

/-! ### The event mask -/

/-- Whether a write of SOL_IRQ_MASK clears the mask bit of a pending event. -/
def unmasks (v : Word) (s : State) (e : Nat) : Bool := s.regs.irqMask.getLsbD e && !v.getLsbD e && s.regs.irqPend.getLsbD e

theorem irqMaskWrite_eq (v : Word) (s : State) : irqMaskWrite v s = (List.range 4).foldl (fun u e =>
    if s.regs.irqMask.getLsbD e && !v.getLsbD e && u.regs.irqPend.getLsbD e then
      msixOn (lowestLink u) (bitsNat u.regs.irqEvt (16 * e) 16) u else u) { s with regs := { s.regs with irqMask := v &&& 0xF } } := rfl

theorem msixOn_irqPend (l : Option Nat) (v : Nat) (s : State) : (msixOn l v s).regs.irqPend = s.regs.irqPend := by
  unfold msixOn
  split
  · rfl
  · split <;> rfl

/-- Where no pending event is unmasked, nothing is sent. -/
theorem unmask_none {v : Word} {s u : State} (l : List Nat) (hu : u.regs.irqPend = s.regs.irqPend) (h : ∀ e ∈ l, unmasks v s e = false) :
    l.foldl (fun u e => if s.regs.irqMask.getLsbD e && !v.getLsbD e && u.regs.irqPend.getLsbD e then
      msixOn (lowestLink u) (bitsNat u.regs.irqEvt (16 * e) 16) u else u) u = u := by
  induction l with
  | nil => rfl
  | cons e l ih =>
    have he := h e List.mem_cons_self
    rw [unmasks, ← hu] at he
    rw [List.foldl_cons, he]
    exact ih (fun x hx => h x (List.mem_cons_of_mem _ hx))

/-- The one pending event unmasked sends its message, in the order of the events. -/
theorem unmask_one {v : Word} {s u : State} {e : Nat} (hu : u.regs.irqPend = s.regs.irqPend) (he : unmasks v s e = true)
    {l : List Nat} (hl : l.Nodup) (hm : e ∈ l) (h : ∀ k ∈ l, k ≠ e → unmasks v s k = false) :
    l.foldl (fun u e => if s.regs.irqMask.getLsbD e && !v.getLsbD e && u.regs.irqPend.getLsbD e then
      msixOn (lowestLink u) (bitsNat u.regs.irqEvt (16 * e) 16) u else u) u = msixOn (lowestLink u) (bitsNat u.regs.irqEvt (16 * e) 16) u := by
  obtain ⟨a, b, rfl⟩ := List.append_of_mem hm
  have apart := List.nodup_middle.mp hl
  have out : ∀ k ∈ a ++ b, unmasks v s k = false := fun k hk =>
    h k (by simp only [List.mem_append, List.mem_cons] at hk ⊢; tauto) (fun e' => (List.nodup_cons.mp apart).1 (e' ▸ hk))
  rw [unmasks, ← hu] at he
  rw [List.foldl_append, unmask_none a hu (fun k hk => out k (List.mem_append_left _ hk)), List.foldl_cons, he]
  exact unmask_none b ((msixOn_irqPend _ _ _).trans hu) (fun k hk => out k (List.mem_append_right _ hk))

theorem unmasks_not {v : Word} {s : State} {e : Nat}
    (h : s.regs.irqMask.getLsbD e = true → v.getLsbD e = true ∨ s.regs.irqPend.getLsbD e = false) : unmasks v s e = false := by
  unfold unmasks
  grind

theorem irqMask_tidy {s : State} (h : s.Inv) (v : Word) : ({ s.regs with irqMask := v &&& 0xF } : Regs).tidy = { s.regs with irqMask := v &&& 0xF } :=
  (show _ = { s.regs.tidy with irqMask := v &&& 0xF &&& 0xF } from rfl).trans (by rw [h.tidy, BitVec.and_assoc, BitVec.and_self])

theorem msixOn_cmd (l : Option Nat) (v : Nat) (s : State) :
    (msixOn l v s).cmd.tasks = s.cmd.tasks ∧ (msixOn l v s).cmd.nextTask = s.cmd.nextTask ∧ (msixOn l v s).fuses = s.fuses ∧
      (msixOn l v s).pending = s.pending := by
  unfold msixOn
  split
  · exact ⟨rfl, rfl, rfl, rfl⟩
  · split <;> exact ⟨rfl, rfl, rfl, rfl⟩

theorem State.Inv.msixOn {s : State} (h : s.Inv) (l : Option Nat) (v : Nat) : (msixOn l v s).Inv := by
  obtain ⟨htasks, hnext, -, -⟩ := msixOn_cmd l v s
  exact ⟨msixOn_tidy l v h.1, by rw [htasks, hnext]; exact h.2⟩

/-! ### Writes of whole registers -/

theorem registerWrite_live {s : State} {off : Nat} (v : Word) (hr : s.boot.inReset = false) (hw : writesLive s = true)
    (hm : off < 0x10000) (ha : off % 8 = 0) (hn : regNamed off = true) (h1 : off ≠ 0x100) (h2 : off ≠ 0x1A0) :
    registerWrite off 8 v s = writeLive off v s := by
  have hx : isMsix s off = false := by
    simp only [isMsix, Bool.and_eq_false_iff, Bool.or_eq_false_iff, decide_eq_false_iff_not]
    omega
  have hd : isDoorbell off = false := by
    simp only [isDoorbell, Bool.and_eq_false_iff, decide_eq_false_iff_not]
    omega
  simp [registerWrite, hr, hx, ha, hn, wholeWrite, h1, h2, hd, guardWrite_live off _ hr hw]

/-- A write that keeps fuses, named by the state it leaves. -/
theorem burnt_of_eq {s t u : State} (h : t = u) (hu : u.Inv) (hf : u.fuses = s.fuses := by rfl) (hp : u.pending = s.pending := by rfl) :
    burnt s t = .next u := by
  subst h
  exact burnt_sealed hu hf hp

theorem stageSel_inv {s : State} (h : s.Inv) (v : Word) : State.Inv { s with regs := { s.regs with stageSel := v &&& 0x1FF } } :=
  ⟨(show _ = { s.regs.tidy with stageSel := v &&& 0x1FF &&& 0x1FF } from rfl).trans (by rw [h.tidy, BitVec.and_assoc, BitVec.and_self]), h.2⟩

theorem migTail_inv {s : State} (h : s.Inv) (v : Word) :
    State.Inv { s with regs := { s.regs with migTail := v &&& 0x0000FFFFFFFFFFFF } } :=
  ⟨(show _ = { s.regs.tidy with migTail := v &&& 0x0000FFFFFFFFFFFF &&& 0x0000FFFFFFFFFFFF } from rfl).trans
    (by rw [h.tidy, BitVec.and_assoc, BitVec.and_self]), h.2⟩

/-- Events that a write clears stay within the field. -/
theorem irqPend_inv {s : State} (h : s.Inv) (v : Word) :
    State.Inv { s with regs := { s.regs with irqPend := s.regs.irqPend &&& ~~~v } } := by
  have held : s.regs.irqPend &&& 0xF = s.regs.irqPend := congrArg Regs.irqPend h.tidy
  have kept : s.regs.irqPend &&& ~~~v &&& 0xF = s.regs.irqPend &&& ~~~v := by
    rw [BitVec.and_assoc, BitVec.and_comm (~~~v), ← BitVec.and_assoc, held]
  exact ⟨(show _ = { s.regs.tidy with irqPend := s.regs.irqPend &&& ~~~v &&& 0xF } from rfl).trans (by rw [h.tidy, kept]), h.2⟩

/-! ### Narrow and misaligned accesses -/

theorem registerWrite_narrow {s : State} {off size : Nat} (v : Word) (hr : s.boot.inReset = false) (hm : isMsix s off = false)
    (hn : ¬ (size = 8 ∧ off % 8 = 0)) : registerWrite off size v s = if touchesReg off size then misuse off s else s := by
  simp only [registerWrite, hr, hm, Bool.false_eq_true, if_false]
  rw [if_neg (by simpa using hn)]

theorem registerRead_narrow {s : State} {off size : Nat} (hr : s.boot.inReset = false) (hm : isMsix s off = false)
    (hn : ¬ (size = 8 ∧ off % 8 = 0)) : registerRead off size s =
      if touchesReg off size then misuse off { s with host := { s.host with readData := some (zeroBytes size) } }
      else { s with host := { s.host with readData := some (zeroBytes size) } } := by
  simp only [registerRead, hr, hm, Bool.false_eq_true, if_false]
  rw [if_neg (by simpa using hn)]

/-- Settles O36. -/
theorem registerWritesAct : Obligations.RegisterWritesAct := by
  refine ⟨fun s v hs hr hw => ?_, fun s off size v hs hr hm hn => ?_⟩
  · have whole : ∀ {off : Nat}, off < 0x10000 → off % 8 = 0 → regNamed off = true → off ≠ 0x100 → off ≠ 0x1A0 →
        registerWrite off 8 v s = writeLive off v s := registerWrite_live v hr hw
    have masked : State.Inv { s with regs := { s.regs with irqMask := v &&& 0xF } } := ⟨irqMask_tidy hs v, hs.2⟩
    refine ⟨fun h => ?_, fun e he hmask hv hpend h => ?_, ?_, ?_, ?_, ?_, ?_, ?_⟩
    · refine leaves_of_inv ((guardWrite_live 0x410 _ hr hw).trans ((irqMaskWrite_eq v s).trans (unmask_none _ rfl fun e he => ?_))) masked
      exact unmasks_not (h e (List.mem_range.mp he))
    · obtain ⟨-, -, hf, hp⟩ := msixOn_cmd (lowestLink s) (bitsNat s.regs.irqEvt (16 * e) 16)
        { s with regs := { s.regs with irqMask := v &&& 0xF } }
      have pending : unmasks v s e = true := by simp [unmasks, hmask, hv, hpend]
      refine leaves_of_inv ((guardWrite_live 0x410 _ hr hw).trans ((irqMaskWrite_eq v s).trans
        (unmask_one (s := s) (u := { s with regs := { s.regs with irqMask := v &&& 0xF } }) rfl pending List.nodup_range (List.mem_range.mpr he) fun k hk hne => ?_)))
        (masked.msixOn _ _) hf hp
      exact unmasks_not (h k (List.mem_range.mp hk) hne)
    · exact burnt_of_eq (whole (by decide) (by decide) (by decide) (by decide) (by decide)) (stageSel_inv hs v)
    · exact burnt_of_eq (whole (by decide) (by decide) (by decide) (by decide) (by decide)) (irqPend_inv hs v)
    · exact burnt_of_eq (whole (by decide) (by decide) (by decide) (by decide) (by decide)) (migTail_inv hs v)
    · exact burnt_of_eq (whole (by decide) (by decide) (by decide) (by decide) (by decide)) hs
    · exact burnt_of_eq (whole (by decide) (by decide) (by decide) (by decide) (by decide)) hs
    · have hm : isMsix s 0x28 = false := by simp [isMsix]
      exact burnt_of_eq (by simp [registerWrite, hr, hm, show regNamed 0x28 = false from rfl]) hs
  · refine ⟨fun h => ?_, fun h => ?_, fun h => ?_, fun h => ?_⟩
    · exact leaves_of_inv ((registerRead_narrow hr hm hn).trans (if_pos h)) (logErr_inv _ hs) (logErr_fuses _ _) (logErr_pending _ _)
    · exact leaves_of_inv ((registerRead_narrow hr hm hn).trans (if_neg (by simp [h]))) hs
    · exact burnt_of_eq ((registerWrite_narrow v hr hm hn).trans (if_pos h)) (logErr_inv _ hs) (logErr_fuses _ _) (logErr_pending _ _)
    · exact burnt_of_eq ((registerWrite_narrow v hr hm hn).trans (if_neg (by simp [h]))) hs

end Sys2Proof.Machine
end

section
/-! PROOFS. What an error record counts (R470 to R472), and where writing it leaves what the engine keeps of the host's lines as it is. -/

namespace Sys2Proof.Machine

/-! ### Counts -/

/-- What numbering records changes of the log: `k` more of them, placed or lost. -/
def RecordsNumbered (k : Nat) (s t : State) : Prop :=
  t.rep = { s.rep with prod := s.rep.prod + BitVec.ofNat 32 k, lost := t.rep.lost, buffer := t.rep.buffer }

theorem placeRecord_rep (n : BitVec 32) (b : Bytes) (s : State) :
    (placeRecord n b s).rep = { s.rep with lost := (placeRecord n b s).rep.lost, buffer := (placeRecord n b s).rep.buffer } := by
  unfold placeRecord
  simp only
  split
  · split <;> rfl
  · split
    · rfl
    · rw [writeDevLine_memHostOnly (errRingBase s + n.toNat % 2 ^ errElog2 s * 64) b s]

theorem numberRecord_rep (b : BitVec 32 → Bytes) (s : State) : RecordsNumbered 1 s (numberRecord b s) :=
  placeRecord_rep _ _ _

/-- The severity's counter, and no other, counts a record. -/
theorem countSev_rep (sev : Nat) (s : State) : (countSev sev s).rep = if sev = 0 then { s.rep with sev0 := satAdd s.rep.sev0 1 }
    else if sev = 1 then { s.rep with sev1 := satAdd s.rep.sev1 1 } else { s.rep with sev2 := satAdd s.rep.sev2 1 } := rfl

theorem raiseEvent_rep (e : Nat) (s : State) : (raiseEvent e s).rep = s.rep := by
  have sent : ∀ l v u, (msixOn l v u).rep = u.rep := by
    intro l v u
    unfold msixOn
    split
    · rfl
    · split <;> rfl
  unfold raiseEvent
  simp only
  split
  · rfl
  · rw [sent]

/-- The detector's quiet period noted, where one begins or goes on (R472). -/
def quietNoted (d : Nat) (t : Option Word) (s : State) : State :=
  match t with
  | some t => { s with rep := { s.rep with quiet := smapSet s.rep.quiet d (t, 0) } }
  | none => s

theorem quietNoted_rep (d : Nat) (t : Option Word) (s : State) :
    (quietNoted d t s).rep = { s.rep with quiet := (quietNoted d t s).rep.quiet } := by
  cases t <;> rfl

theorem quietNoted_frame (d : Nat) (t : Option Word) (s : State) :
    (quietNoted d t s).host = s.host ∧ (quietNoted d t s).regs = s.regs := by
  cases t <;> exact ⟨rfl, rfl⟩

/-- The record numbered and its continuations after it, on the state in which its quiet period is noted. -/
def recordWritten (e : ErrRec) (held : BitVec 32) (v : State) : State :=
  e.conts.foldl (fun s c => numberRecord (fun _ => padTo 60 c) s) (numberRecord (fun n => e.body n.toNat held.toNat (now v)) v)

theorem recordWritten_rep {e : ErrRec} (held : BitVec 32) (hc : e.conts = []) (v : State) :
    RecordsNumbered 1 v (recordWritten e held v) := by
  unfold recordWritten
  rw [hc]
  exact numberRecord_rep _ v

theorem logErr_emit_eq (e : ErrRec) (held : BitVec 32) (s : State) : ∃ t, logErr.emit e held s =
    if e.sev = 0 then countSev e.sev (recordWritten e held (quietNoted e.det t s))
    else raiseEvent 1 (countSev e.sev (recordWritten e held (quietNoted e.det t s))) :=
  ⟨_, rfl⟩

/-- A record of severity 1 or 2 is always written (R472), and counted by its severity. -/
theorem logErr_counted {e : ErrRec} (s : State) (hc : e.conts = []) (h : e.sev ≠ 0) :
    (logErr e s).rep.prod = s.rep.prod + 1 ∧ (logErr e s).rep.sev0 = s.rep.sev0 ∧
      (logErr e s).rep.sev1 = (if e.sev = 1 then satAdd s.rep.sev1 1 else s.rep.sev1) ∧
      (logErr e s).rep.sev2 = (if e.sev = 1 then s.rep.sev2 else satAdd s.rep.sev2 1) := by
  have emitted : ∀ (held : BitVec 32) (u : State), (logErr.emit e held u).rep.prod = u.rep.prod + 1 ∧ (logErr.emit e held u).rep.sev0 = u.rep.sev0 ∧
      (logErr.emit e held u).rep.sev1 = (if e.sev = 1 then satAdd u.rep.sev1 1 else u.rep.sev1) ∧
      (logErr.emit e held u).rep.sev2 = (if e.sev = 1 then u.rep.sev2 else satAdd u.rep.sev2 1) := by
    intro held u
    obtain ⟨t, ht⟩ := logErr_emit_eq e held u
    rw [ht, if_neg h, raiseEvent_rep, countSev_rep, if_neg h, recordWritten_rep held hc, quietNoted_rep]
    split <;> exact ⟨rfl, rfl, rfl, rfl⟩
  unfold logErr
  simp only
  split
  · rw [if_neg (fun k => h k.1)]
    exact emitted _ _
  · exact emitted _ _

/-! ### The host's lines -/

/-- No line of the log's ring is held by the host, or kept here of the host's memory's place. -/
theorem LogClear.of_sub {s t : State} (h : LogClear s) (hr : t.regs.errBase = s.regs.errBase) (hd : ∀ d ∈ t.host.dir, d ∈ s.host.dir)
    (hn : ∀ x ∈ t.host.near, x ∈ s.host.near) : LogClear t := by
  unfold LogClear errRingBase errElog2 at *
  rw [hr]
  exact ⟨fun d k => h.1 d (hd d k), fun x k => h.2 x (hn x k)⟩

theorem evictNear_none {k : Nat} {l : Option Nat} {s : State} (h : s.host.near.find? (fun x => x.line == k && x.link == l) = none) :
    evictNear k l s = s := by
  unfold evictNear
  rw [h]

/-- A write of a line that the host does not hold, and of which nothing is kept here. -/
theorem writeDevLine_host {a : Nat} (b : Bytes) {s : State} (hn : ∀ x ∈ s.host.near, x.link = none → x.line ≠ a / 64)
    (hd : ∀ d ∈ s.host.dir, d.line ≠ a / 64) : (writeDevLine a b s).host = s.host := by
  have near : s.host.near.find? (fun x => x.line == a / 64 && x.link == none) = none := by
    simp only [List.find?_eq_none, Bool.and_eq_true, beq_iff_eq, not_and]
    exact fun x hx hl hk => hn x hx hk hl
  have dir : s.host.dir.find? (fun d => d.line == a / 64) = none := by
    simp only [List.find?_eq_none, beq_iff_eq]
    exact hd
  have cleared : ∀ u : State, (clearPoison a b.length u).host = u.host := by
    intro u
    unfold clearPoison
    split <;> rfl
  unfold writeDevLine
  simp only [evictNear_none near, dir, cleared]
  rfl

theorem placeRecord_host {s : State} (h : LogClear s) (n : BitVec 32) (b : Bytes) : (placeRecord n b s).host = s.host := by
  obtain ⟨hd, hn⟩ := h
  unfold placeRecord
  simp only
  split
  · split <;> rfl
  · split
    · rfl
    · have hm := Nat.mod_lt n.toNat (Nat.two_pow_pos (errElog2 s))
      have at64 : errRingBase s % 64 = 0 := by simp only [errRingBase]; omega
      refine writeDevLine_host b (fun x hx hl he => ?_) (fun d hx he => ?_)
      · have := hn x hx hl
        omega
      · have := hd d hx
        omega

theorem numberRecord_host {s : State} (h : LogClear s) (b : BitVec 32 → Bytes) : (numberRecord b s).host = s.host :=
  (placeRecord_host (h.of_sub (t := { s with rep := { s.rep with prod := s.rep.prod + 1 } }) rfl (fun _ k => k) fun _ k => k) _ _)

theorem numberRecord_clear {s : State} (h : LogClear s) {b : BitVec 32 → Bytes} (hb : ∀ n, (b n).length = 60) : LogClear (numberRecord b s) := by
  have kept := numberRecord_host h b
  refine h.of_sub (by rw [← (numberRecord_logOnly hb s).regs]) (by rw [kept]; exact fun _ k => k) (by rw [kept]; exact fun _ k => k)

theorem numberAll_host {s : State} (h : LogClear s) (l : List Bytes) :
    (l.foldl (fun s c => numberRecord (fun _ => padTo 60 c) s) s).host = s.host := by
  induction l generalizing s with
  | nil => rfl
  | cons c l ih =>
    exact (ih (numberRecord_clear h fun _ => padTo_length 60 c)).trans (numberRecord_host h _)

theorem raiseEvent_host (e : Nat) (s : State) : (raiseEvent e s).host = s.host := by
  have sent : ∀ l v u, (msixOn l v u).host = u.host := by
    intro l v u
    unfold msixOn
    split
    · rfl
    · split <;> rfl
  unfold raiseEvent
  simp only
  split
  · rfl
  · rw [sent]

/-- A record written where no line of the log's ring is the host's leaves what the engine keeps of the host as it is. -/
theorem logErr_host {s : State} (h : LogClear s) (e : ErrRec) : (logErr e s).host = s.host := by
  have emitted : ∀ (held : BitVec 32) (u : State), LogClear u → (logErr.emit e held u).host = u.host := by
    intro held u hu
    obtain ⟨t, ht⟩ := logErr_emit_eq e held u
    obtain ⟨hhost, hregs⟩ := quietNoted_frame e.det t u
    have noted : LogClear (quietNoted e.det t u) :=
      hu.of_sub (by rw [hregs]) (by rw [hhost]; exact fun _ k => k) (by rw [hhost]; exact fun _ k => k)
    have written : (recordWritten e held (quietNoted e.det t u)).host = u.host :=
      (numberAll_host (numberRecord_clear noted fun _ => e.body_length _ _ _) _).trans ((numberRecord_host noted _).trans hhost)
    rw [ht]
    split
    · exact written
    · exact (raiseEvent_host 1 _).trans written
  have hf : LogClear { s with rep := { s.rep with fired := s.rep.fired ||| (1#256 <<< e.det) } } :=
    h.of_sub rfl (fun _ k => k) fun _ k => k
  unfold logErr
  simp only
  split
  · split
    · rfl
    · exact emitted _ _ hf
  · exact emitted _ _ hf

end Sys2Proof.Machine
end

section
/-! PROOFS. Memory's sites and the governor (R349 to R366, R463). -/

namespace Sys2Proof.Machine

/-! ### Training -/

/-- Settles O37. -/
theorem memoryTrains : Obligations.MemoryTrains := by
  intro s hr lr hs
  refine ⟨fun h l hl => ?_, fun h => ?_, fun hl l => ?_, fun ht v => ?_, fun ho => ?_, leaves_self hs⟩
  · exact leaves_of_inv (by simp [memoryTrained, h, l, hl]) hs
  · exact leaves_of_inv (by simp [memoryTrained, h]) hs
  · exact leaves_of_inv (by simp [memoryTrained, l, hl]) hs
  · simp [bringOnline, ht]
  · exact leaves_of_inv (if_pos (by simpa using ho)) hs

/-! ### Lines written -/

/-- What a write of lines of device memory changes: the memory and its poison, and what is kept of the host's lines (R390 to R392). -/
def DevOnly (s t : State) : Prop :=
  t = { s with
    mem := { s.mem with dev := t.mem.dev, poison := t.mem.poison }
    host := { s.host with near := t.host.near, backInv := t.host.backInv, bisnp := t.host.bisnp } }

theorem DevOnly.trans {s t u : State} (h : DevOnly s t) (k : DevOnly t u) : DevOnly s u := Eq.trans k (by rw [h])

theorem clearPoison_devOnly (a n : Nat) (s : State) : DevOnly s (clearPoison a n s) := by
  unfold clearPoison
  split <;> rfl

theorem rawWriteDev_devOnly (a k n : Nat) (b : Bytes) (s : State) : DevOnly s (clearPoison k n (rawWriteDev a b s)) :=
  DevOnly.trans (t := rawWriteDev a b s) rfl (clearPoison_devOnly k n _)

theorem evictNear_devOnly (k : Nat) (s : State) : DevOnly s (evictNear k none s) := by
  have dropped : ∀ q, DevOnly s { s with host := { s.host with near := s.host.near.filter q } } := fun _ => rfl
  unfold evictNear
  split
  · rfl
  · simp only
    split
    · rfl
    · exact (dropped _).trans (rawWriteDev_devOnly _ _ _ _ _)

theorem writeDevLine_devOnly (a : Nat) (b : Bytes) (s : State) : DevOnly s (writeDevLine a b s) := by
  have h := evictNear_devOnly (a / 64) s
  unfold writeDevLine
  simp only
  split
  · refine h.trans ?_
    unfold backInvalidate
    split <;> rfl
  · exact h.trans (rawWriteDev_devOnly _ _ _ _ _)

theorem writeDevLines_devOnly (a : Nat) (b : Bytes) (s : State) : DevOnly s (writeDevLines a b s) := by
  unfold writeDevLines
  induction splitLines b.length a b generalizing s with
  | nil => rfl
  | cons x l ih => exact (writeDevLine_devOnly x.1 x.2 s).trans (ih _)

theorem ringSet_devOnly (n : Nat) (r : Ring) (s : State) :
    DevOnly { s with cmd := { s.cmd with rings := smapSet s.cmd.rings n r } } (ringSet n r s) := by
  unfold ringSet
  simp only
  split
  · exact writeDevLines_devOnly _ _ _
  · rfl

/-! ### Sites lost, rows reported -/

/-- What the loss of a site's rings, what it kept for others and its record leave as it is. -/
structure SiteKept (s t : State) : Prop where
  hbmOnline : t.mem.hbmOnline = s.mem.hbmOnline
  hbmLost : t.mem.hbmLost = s.mem.hbmLost
  lpOnline : t.mem.lpOnline = s.mem.lpOnline
  lpLost : t.mem.lpLost = s.mem.lpLost
  scratch : t.mem.scratch = s.mem.scratch
  tab : t.tab = s.tab
  strm : t.strm = s.strm
  xl : t.xl = s.xl
  clk : t.clk = s.clk
  time : t.time = s.time
  gauge : t.gauge = s.gauge
  tasks : t.cmd.tasks = s.cmd.tasks
  fuses : t.fuses = s.fuses
  own : t.regs.fabCtl = s.regs.fabCtl

theorem siteKept_frame : SendFrame SiteKept where
  refl _ := ⟨rfl, rfl, rfl, rfl, rfl, rfl, rfl, rfl, rfl, rfl, rfl, rfl, rfl, rfl⟩
  trans h k := ⟨k.1.trans h.1, k.2.trans h.2, k.3.trans h.3, k.4.trans h.4, k.5.trans h.5, k.6.trans h.6, k.7.trans h.7, k.8.trans h.8,
    k.9.trans h.9, k.10.trans h.10, k.11.trans h.11, k.12.trans h.12, k.13.trans h.13, k.14.trans h.14⟩
  logged h := ⟨by rw [← h.memory], by rw [← h.memory], by rw [← h.memory], by rw [← h.memory], by rw [← h.memory], h.tab, h.strm, h.xl, h.clk,
    h.time, h.gauge, h.tasks, h.fuses, by rw [← h.regs]⟩
  armed _ _ := ⟨rfl, rfl, rfl, rfl, rfl, rfl, rfl, rfl, rfl, rfl, rfl, rfl, rfl, rfl⟩
  met _ _ := ⟨rfl, rfl, rfl, rfl, rfl, rfl, rfl, rfl, rfl, rfl, rfl, rfl, rfl, rfl⟩
  drawn _ _ := ⟨rfl, rfl, rfl, rfl, rfl, rfl, rfl, rfl, rfl, rfl, rfl, rfl, rfl, rfl⟩
  said _ _ := ⟨rfl, rfl, rfl, rfl, rfl, rfl, rfl, rfl, rfl, rfl, rfl, rfl, rfl, rfl⟩

theorem DevOnly.siteKept {s t : State} (h : DevOnly s t) : SiteKept s t := by
  constructor <;> rw [h]

theorem ringCut_siteKept (c : Byte) (d : Bool) (n : Nat) (s : State) : SiteKept s (ringCut c d n s) := by
  have held : ∀ m, SiteKept s { s with cmd := { s.cmd with rings := m } } :=
    fun _ => ⟨rfl, rfl, rfl, rfl, rfl, rfl, rfl, rfl, rfl, rfl, rfl, rfl, rfl, rfl⟩
  unfold ringCut
  simp only
  split
  · exact siteKept_frame.refl s
  · exact siteKept_frame.trans (held _) (ringSet_devOnly _ _ _).siteKept

theorem rings_siteKept (c : Byte) (d : Bool) (l : List Nat) (s : State) :
    SiteKept s (l.foldl (fun s n => ringCut c d n s) s) :=
  siteKept_frame.foldl (fun _ _ => ringCut_siteKept ..) _ _

theorem keptOffline_siteKept (s : State) : SiteKept s (keptOffline s) := by
  have held : ∀ (s : State) h, SiteKept s { s with hold := h } :=
    fun _ _ => ⟨rfl, rfl, rfl, rfl, rfl, rfl, rfl, rfl, rfl, rfl, rfl, rfl, rfl, rfl⟩
  unfold keptOffline
  refine siteKept_frame.trans (siteKept_frame.foldl (fun u k => ?_) _ _) (siteKept_frame.foldl (fun u k => ?_) _ _)
  · split
    · exact siteKept_frame.trans (siteKept_frame.logErr _ _) (siteKept_frame.trans (held _ _) (siteKept_frame.sendMsg ..))
    · exact siteKept_frame.refl _
  · split
    · exact siteKept_frame.trans (siteKept_frame.logErr _ _) (held _ _)
    · exact siteKept_frame.refl _

theorem keptOffline_nothing {s : State} (h1 : s.hold.kept = []) (h2 : s.hold.keptReq = []) : keptOffline s = s := by
  simp [keptOffline, h1, h2]

/-- The state in which a unit has gone, its readings with it, and its translations are dropped. -/
def siteGone (u : Nat) (s : State) : State :=
  { s with
    mem := if u < 2 then { s.mem with hbmOnline := s.mem.hbmOnline &&& ~~~(1#2 <<< u), hbmLost := s.mem.hbmLost ||| (1#2 <<< u) }
      else { s.mem with lpOnline := 0, lpLost := true }
    gov := if u = 0 then { s.gov with t0 := 0xFF, fails0 := 0 } else if u = 1 then { s.gov with t1 := 0xFF, fails1 := 0 } else s.gov
    xl := { s.xl with ptGen := s.xl.ptGen + 1, tlb := s.xl.tlb.filter (fun x => !inUnits s (failUnits s u) x.place) } }

/-- What is left to do where a unit has gone: rings cut, the loss recorded, and what lay there for other engines let go. -/
theorem siteOffline_lost {u : Nat} {s : State} (h : (failUnits s u).any (unitOnline s) = true) :
    ∃ (c : List Nat) (v : State) (m : SMap (BitVec 16)) (e : ErrRec), e.conts = [] ∧ e.sev = 2 ∧ 
      v = c.foldl (fun s n => ringCut 4 true n s) (siteGone u s) ∧
      siteOffline u s = keptOffline (logErr e { v with mem := { v.mem with offlineIdx := m } }) := by
  unfold siteOffline siteGone bumpGen
  simp only [h, Bool.not_true, Bool.false_eq_true, if_false]
  by_cases h0 : u = 0
  · subst h0
    exact ⟨_, _, _, _, rfl, rfl, rfl, rfl⟩
  · by_cases h1 : u = 1
    · subst h1
      exact ⟨_, _, _, _, rfl, rfl, rfl, rfl⟩
    · simp only [if_neg h0, if_neg h1]
      exact ⟨_, _, _, _, rfl, rfl, rfl, rfl⟩

theorem ringCuts_turnOnly (c : Byte) (d : Bool) (l : List Nat) (s : State) : TurnOnly s (l.foldl (fun s n => ringCut c d n s) s) := by
  induction l generalizing s with
  | nil => rfl
  | cons n l ih =>
    have one : TurnOnly s (ringCut c d n s) := by
      unfold ringCut
      simp only
      split
      · rfl
      · exact ringSet_turnOnly _ _ _
    exact one.trans (ih _)

/-- A lost unit, what of the engine stands and what is recorded. -/
theorem siteOffline_loses {u : Nat} {s : State} (h : (failUnits s u).any (unitOnline s) = true) :
    SiteKept (siteGone u s) (siteOffline u s) ∧
      (s.hold.kept = [] → s.hold.keptReq = [] → (siteOffline u s).rep.prod = s.rep.prod + 1) := by
  obtain ⟨c, v, m, e, hc, hsev, hv, heq⟩ := siteOffline_lost h
  have cut : SiteKept (siteGone u s) v := hv ▸ rings_siteKept 4 true c _
  have noted : SiteKept v { v with mem := { v.mem with offlineIdx := m } } :=
    ⟨rfl, rfl, rfl, rfl, rfl, rfl, rfl, rfl, rfl, rfl, rfl, rfl, rfl, rfl⟩
  have turns : TurnOnly (siteGone u s) v := hv ▸ ringCuts_turnOnly 4 true c _
  have hold : v.hold = s.hold := by rw [turns]; rfl
  have rep : v.rep = s.rep := by rw [turns]; rfl
  rw [heq]
  refine ⟨siteKept_frame.trans cut (siteKept_frame.trans noted (siteKept_frame.trans (siteKept_frame.logErr e _)
    (keptOffline_siteKept _))), fun hk hr => ?_⟩
  have counted := (logErr_counted { v with mem := { v.mem with offlineIdx := m } } hc (by rw [hsev]; decide)).1
  rw [keptOffline_nothing (by rw [logErr_hold]; exact hold ▸ hk) (by rw [logErr_hold]; exact hold ▸ hr), counted]
  exact congrArg (fun r => r.prod + 1) rep

theorem hbmRowCe_known {s : State} {k pc bank row : Nat} (hi : s.rep.inj = none) (h : (k, pc, bank, row) ∈ s.mem.ceRows) :
    hbmRowCe k pc bank row s = s := by
  simp [hbmRowCe, injectAt_none _ _ hi, h]

theorem hbmRowCe_new {s : State} {k pc bank row : Nat} (hi : s.rep.inj = none) (h : (k, pc, bank, row) ∉ s.mem.ceRows) :
    hbmRowCe k pc bank row s = logErr
      { det := 0x09, sev := 0, phys := 64 * k + pc, address := unitFpa s k
        detail := [BitVec.ofNat 8 k, BitVec.ofNat 8 pc, BitVec.ofNat 8 bank, 0] ++ leBytes 4 row }
      { s with mem := { s.mem with ceRows := s.mem.ceRows ++ [(k, pc, bank, row)] } } := by
  have first : (s.mem.ceRows.contains (k, pc, bank, row) && !false) = false := by simpa using h
  simp only [hbmRowCe, injectAt_none _ _ hi, first, Bool.false_eq_true, if_false]
  rfl

/-- Settles O38. -/
theorem sitesGoOffline : Obligations.SitesGoOffline := by
  refine ⟨fun s u hs => ⟨fun h => leaves_nothing hs (if_pos (by simp [h])), fun h => ?_⟩, fun s k pc bank row hs hi => ⟨fun h => ?_, fun h => ?_⟩⟩
  · obtain ⟨kept, counted⟩ := siteOffline_loses h
    refine ⟨_, leaves_next s _, fun hu => ⟨?_, ?_, ?_⟩, fun hu => ⟨?_, ?_, ?_⟩, ?_, kept.tab, kept.strm, kept.clk, kept.time, kept.gauge, ?_, kept.tasks, counted⟩
    · exact kept.hbmOnline.trans (by simp only [siteGone, if_pos hu])
    · exact kept.hbmLost.trans (by simp only [siteGone, if_pos hu])
    · exact kept.lpOnline.trans (by simp only [siteGone, if_pos hu])
    · exact kept.lpOnline.trans (by simp only [siteGone, if_neg (Nat.not_lt.mpr hu)])
    · exact kept.lpLost.trans (by simp only [siteGone, if_neg (Nat.not_lt.mpr hu)])
    · exact kept.hbmOnline.trans (by simp only [siteGone, if_neg (Nat.not_lt.mpr hu)])
    · intro x hx
      have hx' : x ∈ (siteOffline u s).xl.tlb := hx
      rw [kept.xl] at hx'
      simpa [siteGone] using (List.mem_filter.mp hx').2
    · refine kept.scratch.trans ?_
      unfold siteGone
      simp only
      split <;> rfl
  · exact leaves_nothing hs (hbmRowCe_known hi h)
  · exact leaves_of_inv (hbmRowCe_new hi h) (logErr_inv _ hs) (logErr_fuses _ _) (logErr_pending _ _)

/-! ### The governor -/

theorem readStack_reads {s : State} {k v : Nat} (last : Byte) (fails h : Nat) (hi : s.rep.inj = none) (ho : s.mem.hbmOnline.getLsbD k = true) :
    readStack k (some v) last fails h s = (BitVec.ofNat 8 v, 0, some v, s) := by
  simp [readStack, ho, injectAt_none _ _ hi]

/-- What an update with both stacks read puts: the fraction, the region and the loop's integral, with the readings they follow. -/
def govPut (a b region frac : Nat) (i : F32) (s : State) : State :=
  { s with gov := { s.gov with
    integ := i, allowed := BitVec.ofNat 9 frac, region := BitVec.ofNat 2 region
    t0 := BitVec.ofNat 8 a, t1 := BitVec.ofNat 8 b, fails0 := 0, fails1 := 0
    power := BitVec.ofNat 16 (s.gauge.pTotal.toNat / 32), freeboard := BitVec.ofInt 8 ((hardEff s : Int) - (max a b : Nat))
    hardEff := BitVec.ofNat 8 (hardEff s)
    throttled := if frac < 256 then satAdd s.gov.throttled 1 else s.gov.throttled } }

/-- The update that reaches the minimum, before its event. -/
def govAtMin (a b : Nat) (s : State) : State :=
  govPut a b 2 8 s.gov.integ { s with gov := { s.gov with hard := true, atMin := true } }

section
variable {s : State} {a b : Nat} (hi : s.rep.inj = none) (ho : s.mem.hbmOnline = 3)
include hi ho

theorem govUpdate_hard (h : hardEff s ≤ max a b) :
    govUpdate (some a) (some b) s =
      if max 8 (s.gov.allowed.toNat / 2) = 8 then
        raiseEvent 2 (govAtMin a b s)
      else govPut a b 2 (max 8 (s.gov.allowed.toNat / 2)) s.gov.integ { s with gov := { s.gov with hard := true } } := by
  have r0 := readStack_reads (v := a) s.gov.t0 s.gov.fails0 (hardEff s) hi (k := 0) (by rw [ho]; rfl)
  have r1 := readStack_reads (v := b) s.gov.t1 s.gov.fails1 (hardEff s) hi (k := 1) (by rw [ho]; rfl)
  simp only [govUpdate, r0, r1, hotter, if_pos h]
  split
  · rename_i hmin
    simp only [hmin]
    rfl
  · rfl

theorem govUpdate_soft (h : max a b < hardEff s) :
    govUpdate (some a) (some b) s =
      if (govLoop s (max a b) (f32Frac s.gauge.pTotal.toNat 64)).1 < busyFloors s then
        govPut a b (if max a b < bitsNat s.regs.govCtl 8 8 then 0 else 1) (busyFloors s)
          (if max a b < bitsNat s.regs.govCtl 8 8 then 0 else s.gov.integ) { s with gov := { s.gov with overridden := true } }
      else govPut a b (if max a b < bitsNat s.regs.govCtl 8 8 then 0 else 1) (govLoop s (max a b) (f32Frac s.gauge.pTotal.toNat 64)).1.toNat
        (govLoop s (max a b) (f32Frac s.gauge.pTotal.toNat 64)).2 s := by
  have r0 := readStack_reads (v := a) s.gov.t0 s.gov.fails0 (hardEff s) hi (k := 0) (by rw [ho]; rfl)
  have r1 := readStack_reads (v := b) s.gov.t1 s.gov.fails1 (hardEff s) hi (k := 1) (by rw [ho]; rfl)
  simp only [govUpdate, r0, r1, hotter, if_neg (Nat.not_le.mpr h)]
  split <;> rfl

end

theorem raiseEvent_irqPend (e : Nat) (s : State) : (raiseEvent e s).regs.irqPend = s.regs.irqPend ||| (1#64 <<< e) := by
  unfold raiseEvent
  simp only
  split
  · rfl
  · rw [msixOn_irqPend]

theorem raiseEvent_inv {e : Nat} (he : e < 4) {s : State} (h : s.Inv) : (raiseEvent e s).Inv :=
  ⟨raiseEvent_tidy he h.1, by rw [(raiseEvent_logOnly e s).tasks, (raiseEvent_logOnly e s).nextTask]; exact h.2⟩

/-- Settles O39. -/
theorem governorUpdates : Obligations.GovernorUpdates := by
  intro s a b hs hi ho
  refine ⟨fun h => ?_, fun h => ?_⟩
  · have eq := govUpdate_hard hi ho h
    by_cases hmin : s.gov.allowed.toNat / 2 ≤ 8
    · rw [if_pos (by omega)] at eq
      have gov := (raiseEvent_logOnly 2 (govAtMin a b s)).gov
      refine ⟨_, leaves_of_inv eq (raiseEvent_inv (by decide) hs) (raiseEvent_logOnly 2 _).fuses (raiseEvent_logOnly 2 _).pending, ?_,
        (congrArg GovState.region gov).trans rfl, (congrArg GovState.hard gov).trans rfl, (congrArg GovState.integ gov).trans rfl, (congrArg GovState.t0 gov).trans rfl,
        (congrArg GovState.t1 gov).trans rfl, fun k => absurd hmin (by omega), fun _ => ⟨(congrArg GovState.atMin gov).trans rfl, ?_⟩⟩
      · rw [(raiseEvent_logOnly 2 _).gov, max_eq_left hmin]
        rfl
      · exact raiseEvent_irqPend 2 _
    · rw [if_neg (by omega)] at eq
      exact ⟨_, leaves_of_inv eq hs, rfl, rfl, rfl, rfl, rfl, rfl, fun _ => rfl, fun k => absurd k hmin⟩
  · have eq := govUpdate_soft hi ho h
    by_cases hb : (govLoop s (max a b) (f32Frac s.gauge.pTotal.toNat 64)).1 < busyFloors s
    · rw [if_pos hb] at eq
      refine ⟨_, leaves_of_inv eq hs, rfl, ?_, rfl, fun k => absurd hb (not_lt.mpr k), fun _ => ⟨rfl, rfl⟩⟩
      unfold govPut
      simp only
      split <;> rfl
    · rw [if_neg hb] at eq
      refine ⟨_, leaves_of_inv eq hs, rfl, ?_, rfl, fun _ => ⟨rfl, rfl⟩, fun k => absurd k hb⟩
      unfold govPut
      simp only
      split <;> rfl

/-! ### Stack repair -/

theorem pprWrite_busy (v : Word) {s : State} (h : s.mem.pprBusy = true) : pprWrite v s = s := if_pos h

section
variable {s : State} {v : Word} (hb : s.mem.pprBusy = false) (hop : bitsNat v 56 3 < 2) (hstart : v.getLsbD 63 = true)
include hb hop hstart

/-- A start with op 0 or 1 begins where its stack is offline, and is refused elsewhere. -/
theorem pprWrite_start : pprWrite v s = if s.mem.hbmOnline.getLsbD (bitsNat v 59 1) then
      { s with regs := { s.regs with hbmPpr := v &&& 0x0FFFFFFFFC000000 }, mem := { s.mem with pprResult := 2 } }
    else { s with regs := { s.regs with hbmPpr := v &&& 0x0FFFFFFFFC000000 }, mem := { s.mem with pprBusy := true } } := by
  have op : ¬ 2 ≤ bitsNat v 56 3 := by omega
  simp only [pprWrite, hb, op, hstart, Bool.not_true, Bool.false_eq_true, if_false]

end

theorem hbmPpr_inv {s : State} (h : s.Inv) (v : Word) (m : MemState) :
    State.Inv { s with regs := { s.regs with hbmPpr := v &&& 0x0FFFFFFFFC000000 }, mem := m } :=
  ⟨(show _ = { s.regs.tidy with hbmPpr := v &&& 0x0FFFFFFFFC000000 &&& 0x0FFFFFFFFC000000 } from rfl).trans
    (by rw [h.tidy, BitVec.and_assoc, BitVec.and_self]), h.2⟩

/-- Settles O40. -/
theorem stackRepairRuns : Obligations.StackRepairRuns := by
  intro s v r n hs hr hw hop hstart
  have live : guardWrite 0x170 (pprWrite v) s = pprWrite v s := guardWrite_live _ _ hr hw
  refine ⟨fun hb ho => ⟨?_, rfl⟩, fun hb ho => ⟨?_, rfl⟩, fun hb => ⟨?_, ?_, ?_⟩, fun hb => ?_⟩
  · exact leaves_of_inv (live.trans ((pprWrite_start hb hop hstart).trans (by rw [ho]; rfl))) (hbmPpr_inv hs v _)
  · exact leaves_of_inv (live.trans ((pprWrite_start hb hop hstart).trans (by rw [ho]; rfl))) (hbmPpr_inv hs v _)
  · exact leaves_nothing hs (live.trans (pprWrite_busy v hb))
  · exact leaves_nothing hs (live.trans (pprWrite_busy v hb))
  · exact leaves_of_inv (by simp [hbmPprDone, hb]) hs
  · exact leaves_nothing hs (by simp [hbmPprDone, hb])

end Sys2Proof.Machine
end
section
/-! PROOFS. The host's links, its window, the aperture and the lines it holds (R369 to R391). -/

namespace Sys2Proof.Machine

/-! ### Links -/

theorem hostLinkUp_mode {s : State} {l w r : Nat} {k : HostLink} (hk : s.host.links[l]? = some k) :
    hostLinkUp l w r s = if k.lost = true ∨ (w ≠ 3 ∧ w ≠ 4) ∨ (r ≠ 5 ∧ r ≠ 6) then s else { s with host := { s.host with
      links := s.host.links.set l ⟨true, false, BitVec.ofNat 4 w, BitVec.ofNat 4 r⟩ } } := by
  have test : (k.lost || !(w == 4 || w == 3) || !(r == 6 || r == 5)) = decide (k.lost = true ∨ (w ≠ 3 ∧ w ≠ 4) ∨ (r ≠ 5 ∧ r ≠ 6)) := by
    rw [Bool.eq_iff_iff]
    simp only [Bool.or_eq_true, Bool.not_eq_true', Bool.or_eq_false_iff, beq_eq_false_iff_ne, decide_eq_true_eq]
    tauto
  simp only [hostLinkUp, hk, test, decide_eq_true_eq]

/-- A record written on a state with other records of the host is a record written on the state itself. -/
theorem LogOnly.onHost {s t : State} {h : HostState} (k : LogOnly { s with host := h } t) (h' : HostState)
    (e : { h' with near := s.host.near, backInv := s.host.backInv, bisnp := s.host.bisnp } = s.host) : LogOnly s { t with host := h' } :=
  { k with host := e }

/-- What a link takes with it when it goes down. -/
def linkGone (l : Nat) (s : State) : State :=
  { s with host := { s.host with
    links := s.host.links.set l ⟨false, true, 0, 0⟩
    near := s.host.near.filter (fun x => x.link != some l)
    waiting := s.host.waiting.filter (fun r => r.link != l) } }

theorem hostResume_nobody {p : HostReq → Bool} {s : State} (h : ∀ r, p r = false) : hostResume p s = s := by
  have stay : s.host.waiting.filter (fun r => !p r) = s.host.waiting := by simp [h]
  have go : s.host.waiting.filter p = [] := by simp [h]
  simp only [hostResume, stay, go, List.foldl_nil]

/-- What follows the record of a link's loss: the lines asked back of its host, the directory, what waited, and the rings behind it. -/
def afterLinkLost (l : Nat) (v : State) : State :=
  let lines := (v.host.backInv.filter (fun b => b.link == l)).map (·.line)
  let s := lines.foldl (fun s k => lineReturned k none s) v
  let s := { s with host := { s.host with dir := s.host.dir.filter (fun d => d.link != l) } }
  let s := hostResume (fun r => match r.line with | some k => lines.contains k | none => false) s
  (ringsBehind (onLink l) s).foldl (fun s n => ringCut 3 true n s) s

theorem hostLinkLost_up {s : State} {l : Nat} (hu : linkUp s l = true) : hostLinkLost l s =
    afterLinkLost l (logErr { det := 0x13, sev := 2, phys := l, address := l, action := 9 } (linkGone l s)) := by
  unfold hostLinkLost
  rw [if_neg (by simp [hu])]
  rfl

theorem afterLinkLost_alone {v : State} {l : Nat} (hb : v.host.backInv = []) (hr : ringsBehind (onLink l) v = []) :
    afterLinkLost l v = { v with host := { v.host with dir := v.host.dir.filter (fun d => d.link != l) } } := by
  have nobody : ∀ r : HostReq, (match r.line with | some k => ([] : List Nat).contains k | none => false) = false := by
    intro r
    cases r.line <;> rfl
  have lines : (v.host.backInv.filter (fun b => b.link == l)).map (·.line) = [] := by rw [hb]; rfl
  have rings : ringsBehind (onLink l) { v with host := { v.host with dir := v.host.dir.filter (fun d => d.link != l) } } = [] := hr
  unfold afterLinkLost
  simp only [lines, List.foldl_nil]
  rw [hostResume_nobody nobody, rings, List.foldl_nil]

/-- A link with no ring and no back-invalidate behind it: the record, and the directory forgets its lines. -/
theorem hostLinkLost_alone {s : State} {l : Nat} (hu : linkUp s l = true) (hb : s.host.backInv = []) (hr : ringsBehind (onLink l) s = [])
    (hc : LogClear s) : ∃ e : ErrRec, e.conts = [] ∧ e.sev = 2 ∧ hostLinkLost l s =
      { logErr e (linkGone l s) with host := { (linkGone l s).host with dir := s.host.dir.filter (fun d => d.link != l) } } := by
  have clear : LogClear (linkGone l s) := hc.of_sub rfl (fun _ k => k) fun _ k => List.mem_of_mem_filter k
  refine ⟨{ det := 0x13, sev := 2, phys := l, address := l, action := 9 }, rfl, rfl, (hostLinkLost_up hu).trans ?_⟩
  generalize hv : logErr _ (linkGone l s) = v
  have logged : LogOnly (linkGone l s) v := hv ▸ logErr_logOnly _ _
  have host : v.host = (linkGone l s).host := hv ▸ logErr_host clear _
  have rings : ringsBehind (onLink l) v = [] := by
    rw [← hr]
    simp only [ringsBehind, ringXlats, logged.rings, logged.xl]
    rfl
  rw [afterLinkLost_alone (by rw [host]; exact hb) rings, host]
  rfl

/-- Settles O41. -/
theorem hostLinksComeAndGo : Obligations.HostLinksComeAndGo := by
  intro s l w r k hs hk
  refine ⟨fun hl hw hr => leaves_of_inv ((hostLinkUp_mode hk).trans (if_neg ?_)) hs, fun h => leaves_nothing hs ((hostLinkUp_mode hk).trans (if_pos h)),
    fun hu => leaves_nothing hs (if_pos (by simp [linkUp, hk, hu])), fun hu hb hr hc => ?_⟩
  · rintro (h | h | h)
    · rw [hl] at h
      cases h
    · omega
    · omega
  · obtain ⟨e, he, hsev, heq⟩ := hostLinkLost_alone (by simp [linkUp, hk, hu]) hb hr hc
    refine ⟨_, leaves_of_inv heq ?_ ?_ ?_, rfl, ?_, ?_⟩
    · exact logErr_inv e (s := linkGone l s) hs
    · exact logErr_fuses e _
    · exact logErr_pending e _
    · exact (logErr_counted (linkGone l s) he (by rw [hsev]; decide)).1
    · exact (logErr_logOnly e (linkGone l s)).onHost _ rfl

/-! ### The host window -/

/-- The access's own number is taken whatever comes of it. -/
def numbered (s : State) : State := { s with host := { s.host with nextReq := s.host.nextReq + 1 } }

theorem exec_hostWindow {s : State} {l o : Nat} (n : Nat) (d : Option Bytes) (hr : s.boot.inReset = false) (hl : linkUp s l = true)
    (ho : o < 2 ^ 31) : exec (.hostWindowAccess l o n d) s = leaves s (hostAccess s.host.nextReq l o n d (numbered s)) := by
  refine congrArg (leaves s) (if_neg ?_)
  simp only [hr, hl, Bool.not_true, Bool.or_false, Bool.false_or, decide_eq_true_eq, Nat.not_le]
  exact ho

/-- What an access that fails leaves: its count, a read's poison, and at most a record. -/
structure HwinFailed (write : Bool) (s t : State) : Prop where
  counted : write = true → t.host.droppedWr = satAdd s.host.droppedWr 1
  poisoned : write = false → t.host.poisonRd = satAdd s.host.poisonRd 1 ∧ t.host.readData = none
  logged : LogOnly s { t with host := s.host, draws := s.draws }
  inv : s.Inv → t.Inv

/-- The state in which a failed access is counted. -/
def hwinCounted (write : Bool) (s : State) : State :=
  { s with host :=
    if write then { s.host with droppedWr := satAdd s.host.droppedWr 1 }
    else { s.host with poisonRd := satAdd s.host.poisonRd 1, readData := none } }

/-- A failed access is counted, and at most a record with a free cause goes with it. -/
theorem hwinFail_eq (o : Nat) (write : Bool) (s : State) : hwinFail o write false none s = hwinCounted write s ∨
    ∃ e d g, hwinFail o write false none s =
      logErr e { hwinCounted write s with host := { (hwinCounted write s).host with hwinLog := g }, draws := d } := by
  by_cases early : (!(match (hwinCounted write s).host.hwinLog with
    | some t => decide (1000 ≤ usSince (hwinCounted write s) t)
    | none => true)) = true
  · exact .inl (if_pos early)
  · exact .inr ⟨_, _, _, if_neg early⟩

theorem hwinCounted_host (write : Bool) (s : State) :
    (write = true → (hwinCounted write s).host.droppedWr = satAdd s.host.droppedWr 1) ∧
    (write = false → (hwinCounted write s).host.poisonRd = satAdd s.host.poisonRd 1 ∧ (hwinCounted write s).host.readData = none) := by
  cases write
  · exact ⟨nofun, fun _ => ⟨rfl, rfl⟩⟩
  · exact ⟨fun _ => rfl, nofun⟩

theorem logErr_droppedWr (e : ErrRec) (s : State) : (logErr e s).host.droppedWr = s.host.droppedWr := by rw [← (logErr_logOnly e s).host]
theorem logErr_poisonRd (e : ErrRec) (s : State) : (logErr e s).host.poisonRd = s.host.poisonRd := by rw [← (logErr_logOnly e s).host]
theorem logErr_readData (e : ErrRec) (s : State) : (logErr e s).host.readData = s.host.readData := by rw [← (logErr_logOnly e s).host]

theorem hwinFail_fails (o : Nat) (write : Bool) (s : State) : HwinFailed write s (hwinFail o write false none s) := by
  obtain ⟨hw, hr⟩ := hwinCounted_host write s
  rcases hwinFail_eq o write s with h | ⟨e, d, g, h⟩ <;> rw [h]
  · exact ⟨hw, hr, .refl s, fun hs => hs⟩
  · refine ⟨fun w => (logErr_droppedWr ..).trans (hw w), fun w => ⟨(logErr_poisonRd ..).trans (hr w).1, (logErr_readData ..).trans (hr w).2⟩,
      { logErr_logOnly e _ with host := rfl, draws := rfl }, fun hs => logErr_inv e hs⟩

/-- An access while the window is closed, or a write that it does not take, fails. -/
theorem hostAccess_closed {s : State} {l o n id : Nat} {d : Option Bytes} (hi : s.rep.inj = none)
    (h : s.regs.hwinCtl.getLsbD 0 = false ∨ (d.isSome = true ∧ s.regs.hwinCtl.getLsbD 1 = false)) :
    hostAccess id l o n d s = hwinFail o d.isSome false none s := by
  have closed : (false || !s.regs.hwinCtl.getLsbD 0 || (d.isSome && !s.regs.hwinCtl.getLsbD 1)) = true := by
    rcases h with h | ⟨hd, h⟩
    · simp only [h, Bool.not_false, Bool.or_true, Bool.true_or]
    · simp only [hd, h, Bool.not_false, Bool.and_self, Bool.or_true]
  unfold hostAccess
  rw [injectAt_none _ _ hi]
  exact if_pos closed

theorem exec_hostWindow_closed {s : State} {l o n : Nat} {d : Option Bytes} (hs : s.Inv) (hr : s.boot.inReset = false) (hi : s.rep.inj = none)
    (hl : linkUp s l = true) (ho : o < 2 ^ 31)
    (h : s.regs.hwinCtl.getLsbD 0 = false ∨ (d.isSome = true ∧ s.regs.hwinCtl.getLsbD 1 = false)) :
    ∃ t, exec (.hostWindowAccess l o n d) s = .next t ∧ HwinFailed d.isSome (numbered s) t := by
  have failed := hwinFail_fails o d.isSome (numbered s)
  rw [exec_hostWindow n d hr hl ho, hostAccess_closed (s := numbered s) hi h]
  generalize hwinFail o d.isSome false none (numbered s) = t at failed
  exact ⟨t, leaves_inv (failed.inv hs) failed.logged.fuses failed.logged.pending, failed⟩

theorem needSite_passes {s : State} {a : Nat} (id : Option Nat) (hi : s.rep.inj = none) (h : ∀ k, ownUnit s a = some k → unitOnline s k = true) :
    (needSite a).go id s = (.ok (), s) := by
  have read : (MonadState.get : Act State).go id s = (.ok s, s) := rfl
  unfold needSite
  rw [go_bind_ok _ read]
  cases hu : ownUnit s a with
  | none => rfl
  | some u =>
    have fired : (injectedAct 0x0A u).go id s = (.ok false, s) := by
      change (Except.ok (injectAt 0x0A u s).1, (injectAt 0x0A u s).2) = _
      rw [injectAt_none _ _ hi]
    simp only
    rw [go_bind_ok _ fired]
    simp only [Bool.false_eq_true, if_false]
    rw [go_bind_ok _ read, if_pos (h u hu)]
    rfl

/-- An access that the window takes, at a place in this module that no back-invalidate holds, is served. -/
theorem hostAccess_served {v u : State} {l o n id : Nat} {d : Option Bytes} {x : Xlat} {a : Nat} (hi : v.rep.inj = none)
    (h1 : v.regs.hwinCtl.getLsbD 0 = true) (h2 : d.isSome = true → v.regs.hwinCtl.getLsbD 1 = true)
    (hx : (demand (hwinBase v + o) d.isSome).go none v = (.ok x, v)) (ha : x.at (hwinBase v + o) = .dev a) (hm : fpaModule a = ownModule v)
    (hb : v.host.backInv = []) (hdir : ∀ k, dirVictim k l v = none) (hu : (hwinServe l (hwinBase v + o) (.dev a) n d).go none v = (.ok (), u)) :
    hostAccess id l o n d v = u := by
  have opened : ¬ (false || !v.regs.hwinCtl.getLsbD 0 || (d.isSome && !v.regs.hwinCtl.getLsbD 1)) = true := by
    cases hd : d.isSome
    · simp only [h1, Bool.not_true, Bool.or_self, Bool.false_and, Bool.false_eq_true, not_false_iff]
    · simp only [h1, h2 hd, Bool.not_true, Bool.or_self, Bool.and_false, Bool.false_eq_true, not_false_iff]
  have free : ∀ ls : List Nat, ls.find? (fun k => v.host.backInv.any (fun b => b.line == k)) = none := by simp [hb]
  have victims : ∀ ls : List Nat, (if d.isSome = true then none else ls.findSome? (fun k => dirVictim k l v)) = none := by
    intro ls
    split
    · rfl
    · simp [List.findSome?_eq_none_iff, hdir]
  unfold hostAccess
  rw [injectAt_none _ _ hi]
  refine (if_neg opened).trans ?_
  simp only [hx, ha, hm, bne_self_eq_false, Bool.false_eq_true, if_false, free, victims, hu]

/-- Settles O42. -/
theorem hostWindowServes : Obligations.HostWindowServes := by
  intro s u v l o n d b x a hs hr hi hl
  refine ⟨fun ho => ?_, fun ho h => ?_, fun ho h => ?_, fun ho h1 h2 hv hx ha hm hb hdir hu => ?_, fun hk => ?_⟩
  · refine leaves_nothing hs (if_pos ?_)
    simp only [ho, decide_true, Bool.or_true]
  · obtain ⟨t, ht, f⟩ := exec_hostWindow_closed (n := n) (d := some b) hs hr hi hl ho (h.imp_right fun h => ⟨rfl, h⟩)
    exact ⟨t, ht, f.counted rfl, { f.logged with host := rfl }⟩
  · obtain ⟨t, ht, f⟩ := exec_hostWindow_closed (n := n) (d := none) hs hr hi hl ho (.inl h)
    exact ⟨t, ht, (f.poisoned rfl).1, (f.poisoned rfl).2, { f.logged with host := rfl }⟩
  · subst hv
    exact (exec_hostWindow n d hr hl ho).trans (congrArg (leaves s) (hostAccess_served hi h1 h2 hx ha hm hb hdir hu))
  · unfold hwinServe
    simp only
    rw [go_bind_ok _ (needSite_passes none hi hk)]
    rfl

/-! ### The aperture -/

/-- Settles O43. -/
theorem apertureServes : Obligations.ApertureServes := by
  intro s o n b r bytes hs hr
  have live : ∀ u : State, (if s.boot.inReset then s else u) = u := fun _ => if_neg (by simp [hr])
  refine ⟨fun h => leaves_of_inv ((live _).trans ?_) hs, fun h => leaves_of_inv ((live _).trans ?_) hs,
    fun h => congrArg (leaves s) ((live _).trans ?_), fun h hb => leaves_of_inv ((live _).trans ?_) hs⟩
  · rw [h]
    rfl
  · rw [h]
    rfl
  · rw [h]
  · rw [h]
    simp only [hb]

/-! ### Fences, snoops and responses -/

/-- With no line of a target dirty here, nothing is written back. -/
theorem nearBack_nothing {p : NearLine → Bool} {s : State} (h : ∀ y ∈ s.host.near, y.dirty = true → p y = false) : nearBack p s = s := by
  have none_picked : s.host.near.filter (fun l => l.dirty && l.link.isNone && p l) = [] := by
    simp only [List.filter_eq_nil_iff, Bool.and_eq_true, not_and, Bool.not_eq_true]
    exact fun y hy hd => h y hy hd.1
  simp only [nearBack, none_picked, List.foldl_nil]

/-- A fence with no line to wait for returns at once. -/
theorem placeFenceRead_clear {s : State} (hr : s.boot.inReset = false) (hf : s.host.fenceReads = [])
    (hn : ∀ y ∈ s.host.near, y.dirty = true → lineTarget s y.line = false) (hd : ∀ y ∈ s.host.dir, lineTarget s y.line = false) :
    placeFenceRead s = { s with host := { s.host with
      fence := s.host.fence + 1, readData := some (leBytes 8 (s.host.fence + 1).toNat) } } := by
  have lines : s.host.dir.filter (fun d => lineTarget s d.line) = [] := by
    simp only [List.filter_eq_nil_iff, Bool.not_eq_true]
    exact hd
  simp only [placeFenceRead, hr, Bool.false_eq_true, if_false, nearBack_nothing hn, backInvalidateWhere, lines, List.map_nil, List.foldl_nil, hf,
    List.nil_append, List.length_nil, fenceSweep']

theorem evictNear_link {s : State} {k line : Nat} {x : NearLine}
    (h : s.host.near.find? (fun y => y.line == line && y.link == some k) = some x) : evictNear line (some k) s = { s with
      host := { s.host with near := s.host.near.filter (fun y => !(y.line == line && y.link == some k)) }
      mem := if x.dirty then { s.mem with host := Memory.write s.mem.host (hostKey k (line * 64)) x.data } else s.mem } := by
  unfold evictNear
  rw [h]
  cases hd : x.dirty <;> simp only [hd] <;> rfl

/-- Settles O44. -/
theorem fencesAndSnoops : Obligations.FencesAndSnoops := by
  intro s k line d x hs
  refine ⟨fun hr hf hn hd => leaves_of_inv (placeFenceRead_clear hr hf hn hd) hs, fun h => leaves_nothing hs (evictNear_none h),
    fun h => leaves_of_inv (evictNear_link h) hs, fun h => leaves_nothing hs (if_neg (by simp [h])), fun h => congrArg (leaves s) (if_pos h)⟩

end Sys2Proof.Machine
end

section
/-! PROOFS. Discovery (R399, R400). -/

namespace Sys2Proof.Machine

/-! ### Ports -/

/-- Setting one key leaves what another finds, in a map of any shape. -/
theorem smapGet_smapSet_other {α : Type} (m : SMap α) {n k : Nat} (x : α) (h : k ≠ n) : smapGet (smapSet m n x) k = smapGet m k := by
  induction m with
  | nil => simp [smapSet, smapGet, Ne.symm h]
  | cons e m ih =>
    obtain ⟨j, y⟩ := e
    by_cases hj : j = n
    · subst hj
      simp [smapSet, smapGet, Ne.symm h]
    · by_cases hn : n < j
      · simp only [smapSet, smapGet, if_neg hj, if_pos hn, if_neg (Ne.symm h)]
        split
        · rw [if_neg (by omega), if_pos (by omega)]
        · rfl
      · simp only [smapSet, smapGet, if_neg hj, if_neg hn, ih]

/-- What a port's entry, its event and its probes leave as they are. -/
structure PortKept (s t : State) : Prop where
  tasks : t.cmd.tasks = s.cmd.tasks
  nextTask : t.cmd.nextTask = s.cmd.nextTask
  tab : t.tab = s.tab
  strm : t.strm = s.strm
  grad : t.grad = s.grad
  rep : t.rep = s.rep
  time : t.time = s.time
  fuses : t.fuses = s.fuses
  pending : t.pending = s.pending

namespace PortKept

theorem refl (s : State) : PortKept s s := ⟨rfl, rfl, rfl, rfl, rfl, rfl, rfl, rfl, rfl⟩

theorem trans {s t u : State} (h : PortKept s t) (k : PortKept t u) : PortKept s u :=
  ⟨k.1.trans h.1, k.2.trans h.2, k.3.trans h.3, k.4.trans h.4, k.5.trans h.5, k.6.trans h.6, k.7.trans h.7, k.8.trans h.8, k.9.trans h.9⟩

end PortKept

theorem DevOnly.portKept {s t : State} (h : DevOnly s t) : PortKept s t := by
  constructor <;> rw [h]

theorem raiseEvent_portKept (e : Nat) (s : State) : PortKept s (raiseEvent e s) := by
  have k := raiseEvent_logOnly e s
  exact ⟨k.tasks, k.nextTask, k.tab, k.strm, k.grad, raiseEvent_rep e s, k.time, k.fuses, k.pending⟩

/-- Setting a port with the entry it has changes the port alone. -/
theorem portSet_same {n : Nat} {p : Port} {s : State} (h : p.entry = (portGet s n).entry) :
    portSet n p s = { s with fab := { s.fab with ports := smapSet s.fab.ports n p } } := by
  unfold portSet
  exact if_pos h

/-- Setting a port with another entry writes the entry, where there is a table, and raises the fabric event. -/
theorem portSet_changed {n : Nat} {p : Port} {s : State} (h : p.entry ≠ (portGet s n).entry) :
    ∃ u, DevOnly { s with fab := { s.fab with ports := smapSet s.fab.ports n p } } u ∧ portSet n p s = raiseEvent 3 u := by
  unfold portSet
  refine ⟨_, ?_, if_neg h⟩
  split
  · exact writeDevLines_devOnly _ _ _
  · rfl

theorem portSet_frame (n : Nat) (p : Port) (s : State) :
    PortKept s (portSet n p s) ∧ (portSet n p s).fab = { s.fab with ports := smapSet s.fab.ports n p } := by
  have held : PortKept s { s with fab := { s.fab with ports := smapSet s.fab.ports n p } } := ⟨rfl, rfl, rfl, rfl, rfl, rfl, rfl, rfl, rfl⟩
  by_cases h : p.entry = (portGet s n).entry
  · rw [portSet_same h]
    exact ⟨held, rfl⟩
  · obtain ⟨u, hu, heq⟩ := portSet_changed h
    rw [heq]
    exact ⟨held.trans (hu.portKept.trans (raiseEvent_portKept 3 u)), (raiseEvent_logOnly 3 u).fab.trans (by rw [hu])⟩

theorem portSet_inv (n : Nat) (p : Port) {s : State} (hs : s.Inv) : (portSet n p s).Inv := by
  by_cases h : p.entry = (portGet s n).entry
  · rw [portSet_same h]
    exact hs
  · obtain ⟨u, hu, heq⟩ := portSet_changed h
    rw [heq]
    refine raiseEvent_inv (by decide) ?_
    rw [hu]
    exact hs

theorem portSet_event {n : Nat} {p : Port} {s : State} (h : p.entry ≠ (portGet s n).entry) :
    (portSet n p s).regs.irqPend = s.regs.irqPend ||| 8 := by
  obtain ⟨u, hu, heq⟩ := portSet_changed h
  rw [heq, raiseEvent_irqPend, hu]
  rfl

theorem portGet_of_ports {s t : State} (h : t.fab.ports = s.fab.ports) (k : Nat) : portGet t k = portGet s k := by
  simp only [portGet, h]

theorem portGet_set {s t : State} {n : Nat} {p : Port} (h : t.fab.ports = smapSet s.fab.ports n p) (k : Nat) :
    portGet t k = if k = n then p else portGet s k := by
  unfold portGet
  split
  · subst k
    rw [h, smapGet_smapSet_same]
    rfl
  · rw [h, smapGet_smapSet_other _ _ ‹_›]

theorem portGet_portSet (n : Nat) (p : Port) (s : State) (k : Nat) : portGet (portSet n p s) k = if k = n then p else portGet s k :=
  portGet_set (congrArg FabState.ports (portSet_frame n p s).2) k

/-- A command that sets one port. -/
theorem leaves_portSet (n : Nat) (p : Port) {s : State} (hs : s.Inv) : leaves s (portSet n p s) = .next (portSet n p s) :=
  leaves_inv (portSet_inv n p hs) (portSet_frame n p s).1.fuses (portSet_frame n p s).1.pending

/-! ### Probes -/

theorem sendOnPort_sends {s : State} (h : s.rep.failed = false) (port dst ty : Nat) (ext : List (Nat × Nat × Nat)) :
    sendOnPort port dst ty ext s = { s with fab := { s.fab with
      nextMsg := s.fab.nextMsg + 1, sent := s.fab.sent ++ [(port, newHeader dst ty 0 0 0 ext 0 s, [])] } } := by
  simp [sendOnPort, h]

/-- One probe: what it notes of its port, and that it is sent. -/
structure Probed (n : Nat) (s t : State) : Prop where
  kept : PortKept s t
  sent : t.fab.sent.length = s.fab.sent.length + 1
  missed : (portGet t n).missed = (portGet s n).missed + 1
  up : (portGet t n).up = ((portGet s n).up && decide ((portGet s n).missed < 3))
  others : ∀ k, k ≠ n → portGet t k = portGet s k

/-- A port whose last three probes went unanswered is down before the next. -/
theorem portDown_probe (n : Nat) (s : State) : ∃ u, u = (if (portGet s n).up && 3 ≤ (portGet s n).missed then portDown n s else s) ∧
    PortKept s u ∧ u.fab.sent = s.fab.sent ∧ (portGet u n).missed = (portGet s n).missed ∧
    (portGet u n).up = ((portGet s n).up && decide ((portGet s n).missed < 3)) ∧ ∀ k, k ≠ n → portGet u k = portGet s k := by
  refine ⟨_, rfl, ?_⟩
  split
  · rename_i h
    simp only [Bool.and_eq_true, decide_eq_true_eq] at h
    obtain ⟨kept, fab⟩ := portSet_frame n { portGet s n with up := false, known := true, entry := withState (portGet s n).entry 2 } s
    unfold portDown
    refine ⟨kept, by rw [fab], ?_, ?_, fun k hk => ?_⟩
    · rw [portGet_portSet, if_pos rfl]
    · rw [portGet_portSet, if_pos rfl]
      simp [show ¬ (portGet s n).missed < 3 by omega]
    · rw [portGet_portSet, if_neg hk]
  · rename_i h
    refine ⟨.refl s, rfl, rfl, ?_, fun _ _ => rfl⟩
    cases hu : (portGet s n).up
    · rfl
    · rw [hu] at h
      simp only [Bool.true_and, decide_eq_true_eq] at h
      simp [show (portGet s n).missed < 3 by omega]

theorem probePort_probes {s : State} (hf : s.rep.failed = false) (n : Nat) : Probed n s (probePort s n) := by
  obtain ⟨u, hu, kept, sent, missed, up, others⟩ := portDown_probe n s
  have addressed : ∃ d dst ext v, v = { u with draws := d, fab := { u.fab with
      ports := smapSet u.fab.ports n { portGet u n with missed := (portGet u n).missed + 1 } } } ∧
      probePort s n = sendOnPort n dst 0x01 ext v := by
    unfold probePort
    simp only [← hu]
    split
    · exact ⟨u.draws, _, _, _, rfl, rfl⟩
    · exact ⟨u.draws + 1, _, _, _, rfl, rfl⟩
  obtain ⟨d, dst, ext, v, hv, heq⟩ := addressed
  have keptv : PortKept u v := by constructor <;> rw [hv]
  have set := portGet_set (s := u) (t := v) (congrArg (fun s => s.fab.ports) hv)
  have alive : v.rep.failed = false := by rw [keptv.rep, kept.rep]; exact hf
  rw [heq, sendOnPort_sends alive]
  refine ⟨kept.trans (keptv.trans ⟨rfl, rfl, rfl, rfl, rfl, rfl, rfl, rfl, rfl⟩), ?_, ?_, ?_, fun k hk => ?_⟩
  · have sentv : v.fab.sent = u.fab.sent := by rw [hv]
    simp [sentv, sent]
  · exact (congrArg Port.missed ((set n).trans (if_pos rfl))).trans (by rw [missed])
  · exact (congrArg Port.up ((set n).trans (if_pos rfl))).trans up
  · exact ((set k).trans (if_neg hk)).trans (others k hk)

/-- A period probes each port once. -/
theorem probeAll_probes {s : State} (hf : s.rep.failed = false) {l : List Nat} (hl : l.Nodup) :
    PortKept s (l.foldl probePort s) ∧ (l.foldl probePort s).fab.sent.length = s.fab.sent.length + l.length ∧
    (∀ k ∈ l, (portGet (l.foldl probePort s) k).missed = (portGet s k).missed + 1 ∧
      (portGet (l.foldl probePort s) k).up = ((portGet s k).up && decide ((portGet s k).missed < 3))) ∧
    ∀ k, k ∉ l → portGet (l.foldl probePort s) k = portGet s k := by
  induction l generalizing s with
  | nil => exact ⟨.refl s, rfl, nofun, fun _ _ => rfl⟩
  | cons n l ih =>
    obtain ⟨hn, hl⟩ := List.nodup_cons.mp hl
    have one := probePort_probes hf n
    obtain ⟨kept, sent, probed, others⟩ := ih (s := probePort s n) (by rw [one.kept.rep]; exact hf) hl
    refine ⟨one.kept.trans kept, ?_, fun k hk => ?_, fun k hk => ?_⟩
    · rw [List.foldl_cons, sent, one.sent, List.length_cons]
      omega
    · rcases List.mem_cons.mp hk with rfl | hk
      · rw [List.foldl_cons, others k hn]
        exact ⟨one.missed, one.up⟩
      · have apart : k ≠ n := fun e => hn (e ▸ hk)
        rw [← one.others k apart]
        exact probed k hk
    · simp only [List.mem_cons, not_or] at hk
      rw [List.foldl_cons, others k hk.2, one.others k hk.1]

/-! ### The statement -/

theorem receiveProbe_delivers {ty n : Nat} {h : Header} {f : State → State} {s : State} (hr : s.boot.inReset = false)
    (hf : s.rep.failed = false) (hv : fastServed s = true) (ha : isAgent s = true) (hn : n < portCount s) (hi : s.rep.inj = none)
    (hc : headerCrcOk h = true) (hm : malformed h 0 = false) (hl : isLost s (hSrc h) = false) (ho : tooOld h s = false) (ht : hTyp h = ty) :
    receiveProbe ty n h f s = f s := by
  simp [receiveProbe, hr, hf, hv, ha, Nat.not_le.mpr hn, injectAt_none _ _ hi, hc, hm, hl, ho, ht]

theorem exec_portLinkDown (n : Nat) (s : State) : exec (.portLinkDown n) s = leaves s (portLinkDown n s) := rfl

theorem exec_probeReceive (n : Nat) (h : Header) (s : State) :
    exec (.probeReceive n h) s = leaves s (receiveProbe 0x01 n h (deliverProbe n h) s) := rfl

theorem exec_probeReplyReceive (n : Nat) (h : Header) (s : State) :
    exec (.probeReplyReceive n h) s = leaves s (receiveProbe 0x02 n h (deliverProbeReply n h) s) := rfl

/-- Settles O45. -/
theorem discoveryRuns : Obligations.DiscoveryRuns := by
  intro s n h hs
  refine ⟨fun ha => ⟨?_, ?_, ?_, ?_⟩, fun hr hf hv ha => ⟨?_, fun hn => ⟨?_, fun hi hc hm hl ho => ⟨fun ht => ?_, fun ht => ?_⟩⟩⟩⟩
  · exact leaves_nothing hs (if_pos (by simp [ha]))
  · exact leaves_nothing hs (if_pos (by simp [ha]))
  · exact leaves_nothing hs (if_pos (by simp [ha]))
  · exact leaves_nothing hs (if_pos (by simp [ha]))
  · obtain ⟨kept, sent, probed, -⟩ := probeAll_probes hf (List.nodup_range (n := portCount s))
    have runs : probePeriod s = (List.range (portCount s)).foldl probePort s := if_neg (by simp [hr, hf, hv, ha])
    rw [← runs] at kept sent probed
    exact ⟨_, leaves_next s _, by simpa using sent, fun k hk => probed k (List.mem_range.mpr hk), kept.tasks, kept.tab, kept.strm, kept.grad,
      kept.rep, kept.time⟩
  · have runs : portLinkDown n s = portDown n s := if_neg (by simp [hr, ha, Nat.not_le.mpr hn])
    rw [exec_portLinkDown, runs, portDown]
    refine ⟨_, leaves_portSet _ _ hs, ?_, ?_, fun k hk => ?_, ?_, fun he => portSet_event he⟩
    · rw [portGet_portSet, if_pos rfl]
    · rw [portGet_portSet, if_pos rfl]
    · rw [portGet_portSet, if_neg hk]
    · rw [(portSet_frame _ _ _).2]
  · rw [exec_probeReceive, receiveProbe_delivers hr hf hv ha hn hi hc hm hl ho ht]
    exact leaves_of_inv (sendOnPort_sends hf _ _ _ _) hs
  · rw [exec_probeReplyReceive, receiveProbe_delivers hr hf hv ha hn hi hc hm hl ho ht]
    refine ⟨_, leaves_portSet _ _ hs, ?_, ?_, ?_,
      fun k hk => ?_, ?_, fun he => portSet_event ?_, fun he => ?_⟩
    · rw [portGet_portSet, if_pos rfl]
    · rw [portGet_portSet, if_pos rfl]
    · rw [portGet_portSet, if_pos rfl]
    · rw [portGet_portSet, if_neg hk]
    · rw [(portSet_frame _ _ _).2]
    · rwa [portGet_portSet, if_pos rfl] at he
    · rw [portGet_portSet, if_pos rfl] at he
      rw [portSet_same he]

end Sys2Proof.Machine
end

section
/-! PROOFS. The endpoint's acknowledgements, grants and numbers, resends and the loss of a peer (R411 to R419). -/

namespace Sys2Proof.Machine

/-! ### What the endpoint forgets -/

theorem ackSend_one {s : State} {dst : Nat} {m : BitVec 32} (h : s.fab.acksDue = [(dst, m)]) (hf : s.rep.failed = false)
    (hw : writesHeld s = false) : ackSend dst s =
      sendLoose dst 0x03 [(32, 4, m.toNat), (56, 1, 1)] { s with fab := { s.fab with acksDue := [] } } := by
  simp [ackSend, h, hf, hw, eraseOne, List.zipIdx]

theorem ackSend_nothing {s : State} {dst : Nat} (h : (∀ a ∈ s.fab.acksDue, a.1 ≠ dst) ∨ writesHeld s = true ∨ s.rep.failed = true) :
    ackSend dst s = s := by
  refine if_pos ?_
  rcases h with h | h | h
  · have nobody : s.fab.acksDue.filter (fun a => a.1 == dst) = [] := by simpa using h
    simp only [nobody, List.map_nil, List.take_nil, List.isEmpty_nil, Bool.true_or]
  · simp only [h, Bool.or_true]
  · simp only [h, Bool.or_true, Bool.true_or]

/-- A grant that has lapsed counts as used at the end that holds it, and is asked for again where messages wait for it. -/
theorem creditLapse_holder (peer : Nat) (relay : Bool) (s : State) : creditLapse peer relay false s =
    if creditFree s peer relay = 0 || !s.fab.kept.any (fun m => m.dst == peer && m.tries == 0 && hCls m.header == 3 && relayType (hTyp m.header) == relay)
    then { s with fab := { s.fab with credits := s.fab.credits.map fun c =>
      if c.peer = peer ∧ c.relay = relay then { c with used := c.granted } else c } }
    else askCredit peer relay (creditFree s peer relay) { s with fab := { s.fab with credits := s.fab.credits.map fun c =>
      if c.peer = peer ∧ c.relay = relay then { c with used := c.granted } else c } } := rfl

/-- With nothing wanted, nothing is granted. -/
theorem grantAll_nothing {s : State} (h : ∀ c ∈ s.fab.grants, c.wanted = 0) : grantAll s = s := by
  unfold grantAll
  generalize hg : s.fab.grants = l at h
  clear hg
  induction l with
  | nil => rfl
  | cons c l ih =>
    have one : grantOne s c = s := by simp [grantOne, h c List.mem_cons_self]
    rw [List.foldl_cons, one]
    exact ih fun x hx => h x (List.mem_cons_of_mem _ hx)

/-- Settles O46. -/
theorem endpointForgets : Obligations.EndpointForgets := by
  intro s dst m tag relay v hs
  refine ⟨fun h hf hw => congrArg (leaves s) (ackSend_one h hf hw), fun h => leaves_nothing hs (ackSend_nothing h),
    fun u hu => ⟨fun h => ?_, fun h0 h => ?_⟩, fun h => ?_, leaves_inv hs rfl rfl, leaves_inv hs rfl rfl, fun hr hw => ?_, fun hr hw => ?_⟩
  · subst hu
    refine leaves_of_inv ((creditLapse_holder dst.toNat relay s).trans (if_pos ?_)) hs
    rcases h with h | h
    · have nobody : s.fab.kept.any (fun m => m.dst == dst.toNat && m.tries == 0 && hCls m.header == 3 &&
          relayType (hTyp m.header) == relay) = false := by
        simp only [List.any_eq_false, Bool.and_eq_true, beq_iff_eq]
        exact fun x hx k => h x hx k.1.1.2
      rw [nobody, Bool.not_false, Bool.or_true]
    · rw [h]
      rfl
  · subst hu
    refine congrArg (leaves s) ((creditLapse_holder dst.toNat relay s).trans (if_neg ?_))
    obtain ⟨x, hx, hd, ht, hc, hrel⟩ := h
    have waits : s.fab.kept.any (fun m => m.dst == dst.toNat && m.tries == 0 && hCls m.header == 3 &&
        relayType (hTyp m.header) == relay) = true := by
      simp only [List.any_eq_true, Bool.and_eq_true, beq_iff_eq]
      exact ⟨x, hx, ⟨⟨hd, ht⟩, hc⟩, hrel⟩
    simp [waits, h0]
  · refine leaves_of_inv (t := creditLapse dst.toNat relay true s) ?_ hs
    refine grantAll_nothing fun c hc => ?_
    obtain ⟨c', hc', rfl⟩ := List.mem_map.mp hc
    split
    · exact h c' hc'
    · exact h c' hc'
  · exact leaves_of_inv (guardWrite_live _ _ hr hw) hs
  · exact leaves_misuse hs _ (guardWrite_early _ _ hr hw)

/-! ### A header's type -/

theorem patch_head {b v : Bytes} {x : Byte} {t : Bytes} {off : Nat} (hb : b = x :: t) (h : 0 < off) : ∃ u, patch b off v = x :: u := by
  obtain ⟨k, rfl⟩ : ∃ k, off = k + 1 := ⟨off - 1, by omega⟩
  exact ⟨_, by rw [hb]; rfl⟩

theorem patches_head {l : List (Nat × Nat × Nat)} (h : ∀ f ∈ l, 0 < f.1) {b : Bytes} {x : Byte} {t : Bytes} (hb : b = x :: t) :
    ∃ u, l.foldl (fun b f => patch b f.1 (leBytes f.2.1 f.2.2)) b = x :: u := by
  induction l generalizing b t with
  | nil => exact ⟨t, hb⟩
  | cons f l ih =>
    obtain ⟨u, hu⟩ := patch_head (v := leBytes f.2.1 f.2.2) hb (h f List.mem_cons_self)
    exact ih (fun g hg => h g (List.mem_cons_of_mem _ hg)) hu

/-- The first byte of what is sealed is the header's type. -/
theorem hTyp_sealHeader (x : Byte) (t : Bytes) : hTyp (sealHeader (x :: t)) = x.toNat := by
  simp only [hTyp, hf, sealHeader, withCrc, List.cons_append, leNat, bitsNat, BitVec.toNat_ofNat]
  have := x.isLt
  omega

theorem fields_head (ty : Nat) {l : List (Nat × Nat × Nat)} (h : ∀ f ∈ l, 0 < f.1) :
    ∃ u, fields 60 ((0, 1, ty) :: l) = BitVec.ofNat 8 ty :: u :=
  patches_head (t := zeroBytes 59) h rfl

theorem hTyp_newHeader {ty : Nat} (dst task tag fseq : Nat) {ext : List (Nat × Nat × Nat)} (len : Nat) (s : State) (ht : ty < 256)
    (he : ∀ f ∈ ext, 0 < f.1) : hTyp (newHeader dst ty task tag fseq ext len s) = ty := by
  have rest : ∀ c p v d e i z n g k a, ∀ f ∈ [(1, 1, v), (2, 1, c), (4, 2, d), (6, 2, e), (8, 2, p), (10, 2, i), (12, 4, z),
      (16, 4, n), (20, 4, g), (24, 4, k), (28, 4, a)] ++ ext, 0 < f.1 := by
    intro c p v d e i z n g k a
    rw [List.forall_mem_append]
    exact ⟨by simp, he⟩
  obtain ⟨u, hu⟩ := fields_head ty (rest _ _ _ _ _ _ _ _ _ _ _)
  refine (congrArg (fun b => hTyp (sealHeader b)) hu).trans ?_
  rw [hTyp_sealHeader, BitVec.toNat_ofNat]
  omega

/-! ### Messages while the endpoint is off -/

/-- A change of the endpoint's own state alone. -/
def FabOnly (s t : State) : Prop := t = { s with fab := t.fab }

theorem FabOnly.trans {s t u : State} (h : FabOnly s t) (k : FabOnly t u) : FabOnly s u := Eq.trans k (by rw [h])

theorem FabOnly.onFab {s t : State} {f : FabState} (h : FabOnly { s with fab := f } t) : FabOnly s t := h

theorem transmit_off {h : Header} (b : Bytes) {s : State} (he : fabEnabled s = false) (h1 : hTyp h ≠ 1) (h2 : hTyp h ≠ 2) :
    transmit h b s = s := by
  refine if_neg ?_
  simp [he, h1, h2]

theorem useCredit_fabOnly (dst : Nat) (relay : Bool) (k : Nat) (s : State) : FabOnly s (useCredit dst relay k s) := rfl

theorem sendLoose_off (dst : Nat) {ty : Nat} {ext : List (Nat × Nat × Nat)} {s : State} (he : fabEnabled s = false) (ht : ty < 256)
    (h1 : ty ≠ 1) (h2 : ty ≠ 2) (hext : ∀ f ∈ ext, 0 < f.1) : FabOnly s (sendLoose dst ty ext s) := by
  have typ := hTyp_newHeader dst 0 0 0 0 s ht hext
  unfold sendLoose
  split
  · rfl
  · simp only
    split
    · rfl
    · rw [transmit_off (s := { s with fab := { s.fab with nextMsg := s.fab.nextMsg + 1 } }) [] he (by rw [typ]; exact h1) (by rw [typ]; exact h2)]
      rfl

theorem firstSend_off {m : SentMsg} {s : State} (he : fabEnabled s = false) (h1 : hTyp m.header ≠ 1) (h2 : hTyp m.header ≠ 2) :
    FabOnly s (firstSend m s) := by
  unfold firstSend
  extract_lets u v
  have hu : FabOnly s u := by
    unfold u
    split
    · exact useCredit_fabOnly _ _ _ _
    · rfl
  have hv : FabOnly s v := hu.trans rfl
  rw [transmit_off _ (by rw [hv]; exact he) h1 h2]
  exact hv

/-- While the endpoint is off, a message is kept and crosses no port. -/
theorem sendMsg_off (dst : Nat) {ty : Nat} (task tag : Nat) {ext : List (Nat × Nat × Nat)} (b : Bytes) {s : State} (he : fabEnabled s = false)
    (ht : ty < 256) (h1 : ty ≠ 1) (h2 : ty ≠ 2) (hext : ∀ f ∈ ext, 0 < f.1) : FabOnly s (sendMsg dst ty task tag ext b s) := by
  unfold sendMsg
  split
  · rfl
  · extract_lets load
    split
    · rfl
    · simp only
      have typ : ∀ q, hTyp (newHeader dst ty task tag q ext load.length s) = ty := fun q => hTyp_newHeader dst task tag q load.length s ht hext
      generalize hq : bumpSeq s.fab.txSeq (dst, task) = qtx
      obtain ⟨q, tx⟩ := qtx
      generalize hh : newHeader dst ty task tag q.toNat ext load.length s = h
      have th : hTyp h = ty := hh ▸ typ q.toNat
      split
      · exact .onFab (firstSend_off he (by rw [th]; exact h1) (by rw [th]; exact h2))
      · split
        · exact .onFab (sendLoose_off dst he (by decide) (by decide) (by decide) (by simp))
        · rfl

/-! ### Resends -/

/-- What a resend leaves as it is, once its message is noted. -/
structure ResendKept (s t : State) : Prop where
  retries : t.fab.retries = s.fab.retries
  kept : t.fab.kept = s.fab.kept
  lost : t.fab.lost = s.fab.lost
  tasks : t.cmd.tasks = s.cmd.tasks
  hold : t.hold = s.hold
  tab : t.tab = s.tab
  grad : t.grad = s.grad
  strm : t.strm = s.strm

theorem resendKept_frame : RouteFrame ResendKept where
  refl _ := ⟨rfl, rfl, rfl, rfl, rfl, rfl, rfl, rfl⟩
  trans h k := ⟨k.1.trans h.1, k.2.trans h.2, k.3.trans h.3, k.4.trans h.4, k.5.trans h.5, k.6.trans h.6, k.7.trans h.7, k.8.trans h.8⟩
  logged h := ⟨by rw [h.fab], by rw [h.fab], by rw [h.fab], h.tasks, h.hold, h.tab, h.grad, h.strm⟩
  armed _ _ := ⟨rfl, rfl, rfl, rfl, rfl, rfl, rfl, rfl⟩
  met _ _ := ⟨rfl, rfl, rfl, rfl, rfl, rfl, rfl, rfl⟩
  drawn _ _ := ⟨rfl, rfl, rfl, rfl, rfl, rfl, rfl, rfl⟩
  carried _ _ _ := ⟨rfl, rfl, rfl, rfl, rfl, rfl, rfl, rfl⟩

/-- A kept message as its resend notes it. -/
def resentNoted (k : SentMsg) (s : State) : State :=
  { setKept k.msgId (fun x => { x with header := retryHeader (hVer k.header) k.header, tries := x.tries + 1, sentAt := tick s }) s with
    fab := { (setKept k.msgId (fun x => { x with header := retryHeader (hVer k.header) k.header, tries := x.tries + 1, sentAt := tick s }) s).fab with
      retries := satAdd s.fab.retries 1 } }

theorem messageResend_again {s : State} {m : BitVec 32} {k : SentMsg} (hk : s.fab.kept.find? (fun x => x.msgId == m) = some k)
    (hf : s.rep.failed = false) (h0 : 0 < k.tries) (h8 : k.tries < 8) :
    messageResend m s = transmit (retryHeader (hVer k.header) k.header) k.payload (resentNoted k s) := by
  simp only [messageResend, hk, hf, Bool.or_false, decide_eq_true_eq, if_neg (Nat.ne_of_gt h0), if_pos h8]
  rfl

theorem messageResend_lost {s : State} {m : BitVec 32} {k : SentMsg} (hk : s.fab.kept.find? (fun x => x.msgId == m) = some k)
    (hf : s.rep.failed = false) (h8 : 8 ≤ k.tries) (ht : hTyp k.header ≠ 0x30) :
    messageResend m s = declareLost [k.dst] k.dst 0 false s := by
  simp only [messageResend, hk, hf, Bool.or_false, decide_eq_true_eq, if_neg (show ¬ k.tries = 0 by omega), if_neg (Nat.not_lt.mpr h8),
    ht, decide_false, Bool.false_and, Bool.false_eq_true, if_false]

/-! ### Loss of a peer -/

/-- What the record and the notices of a loss leave as they are. -/
structure LossKept (s t : State) : Prop where
  lost : t.fab.lost = s.fab.lost
  tasks : t.cmd.tasks = s.cmd.tasks
  lists : t.hold.lists = s.hold.lists
  tab : t.tab = s.tab
  strm : t.strm = s.strm
  xl : t.xl = s.xl
  fuses : t.fuses = s.fuses
  gauge : t.gauge = s.gauge
  clk : t.clk = s.clk
  fabCtl : t.regs.fabCtl = s.regs.fabCtl

theorem lossKept_frame : SendFrame LossKept where
  refl _ := ⟨rfl, rfl, rfl, rfl, rfl, rfl, rfl, rfl, rfl, rfl⟩
  trans h k := ⟨k.1.trans h.1, k.2.trans h.2, k.3.trans h.3, k.4.trans h.4, k.5.trans h.5, k.6.trans h.6, k.7.trans h.7, k.8.trans h.8,
    k.9.trans h.9, k.10.trans h.10⟩
  logged h := ⟨by rw [h.fab], h.tasks, by rw [h.hold], h.tab, h.strm, h.xl, h.fuses, h.gauge, h.clk, by rw [← h.regs]⟩
  armed _ _ := ⟨rfl, rfl, rfl, rfl, rfl, rfl, rfl, rfl, rfl, rfl⟩
  met _ _ := ⟨rfl, rfl, rfl, rfl, rfl, rfl, rfl, rfl, rfl, rfl⟩
  drawn _ _ := ⟨rfl, rfl, rfl, rfl, rfl, rfl, rfl, rfl, rfl, rfl⟩
  said _ _ := ⟨rfl, rfl, rfl, rfl, rfl, rfl, rfl, rfl, rfl, rfl⟩

/-- Every engine that must know is told of a loss (R418). -/
def tellLost (told : List Nat) (name scope : Nat) (s : State) : State :=
  told.foldl (fun s e => sendMsg e 0x07 0 0 [(32, 2, name), (34, 1, scope)] [] s) s

theorem tellLost_kept (told : List Nat) (name scope : Nat) (s : State) : LossKept s (tellLost told name scope s) :=
  lossKept_frame.toFrame.foldl (fun _ _ => lossKept_frame.sendMsg ..) _ _

theorem tellLost_off (told : List Nat) (name scope : Nat) {s : State} (he : fabEnabled s = false) : FabOnly s (tellLost told name scope s) := by
  unfold tellLost
  induction told generalizing s with
  | nil => rfl
  | cons e l ih =>
    have one : FabOnly s (sendMsg e 0x07 0 0 [(32, 2, name), (34, 1, scope)] [] s) :=
      sendMsg_off e 0 0 [] he (by decide) (by decide) (by decide) (by simp)
    exact one.trans (ih (by rw [one]; exact he))

theorem declareLost_known {s : State} {e : Nat} (name scope : Nat) (inj : Bool) (h : isLost s e = true ∨ e = (ownEid s).toNat) :
    declareLost [e] name scope inj s = s := by
  have nobody : [e].filter (fun e => !isLost s e && e != (ownEid s).toNat) = [] := by
    rcases h with h | h <;> simp [h]
  unfold declareLost
  rw [nobody]
  rfl

theorem declareLost_new {s : State} {e : Nat} (name scope : Nat) (inj : Bool) (hl : isLost s e = false) (ho : e ≠ (ownEid s).toNat) :
    ∃ told, declareLost [e] name scope inj s = endLost (tellLost told name scope (markLost inj s e)) e := by
  have one : [e].filter (fun e => !isLost s e && e != (ownEid s).toNat) = [e] := by simp [hl, ho]
  refine ⟨(openPeers s ++ moduleOthers s).eraseDups.filter (fun x => !isLost (markLost inj s e) x && x != (ownEid (markLost inj s e)).toNat), ?_⟩
  unfold declareLost
  simp only [one, List.isEmpty_cons, Bool.false_eq_true, if_false, List.foldl_cons, List.foldl_nil]
  rfl

/-- The holder's records for a requester, but its lists, let go (R419). -/
def requesterGone (e : Nat) (s : State) : State :=
  { s with
    hold := { s.hold with
      kept := s.hold.kept.filter (fun k => k.req != e)
      cancels := s.hold.cancels.filter (fun c => c.src != e) }
    grad := { s.grad with
      buckets := s.grad.buckets.filter (fun b => b.src != e)
      remote := s.grad.remote.filter (fun r => r.src != e) }
    host := { s.host with nearReqs := s.host.nearReqs.filter (fun q => !(q.origin.any (fun o => o.1 == e))) } }

/-- The endpoint's records for an engine let go. -/
def endpointGone (e : Nat) (s : State) : State :=
  { s with fab := { s.fab with
      kept := s.fab.kept.filter (fun m => m.dst != e)
      credits := s.fab.credits.filter (fun c => c.peer != e)
      grants := s.fab.grants.filter (fun c => c.peer != e)
      early := s.fab.early.filter (fun m => hSrc m.1 != e)
      stalled := s.fab.stalled.filter (fun m => hSrc m.2.1 != e)
      acksDue := s.fab.acksDue.filter (fun a => a.1 != e) } }

/-- An engine's tasks and lists end before its records go. -/
def taskEnds (e : Nat) (s : State) : State :=
  let s := (s.cmd.tasks.map (·.id)).foldl (taskLost e) s
  ((s.hold.lists.filter (fun l => l.src == e)).map (·.task)).foldl (fun s task => forgetTask e task s) s

theorem endLost_eq (s : State) (e : Nat) : endLost s e = endpointGone e (requesterGone e (taskEnds e s)) := rfl

/-- What was for the lost engine is gone. -/
theorem endLost_ends (s : State) (e : Nat) : (∀ x ∈ (endLost s e).hold.kept, x.req ≠ e) ∧ (∀ x ∈ (endLost s e).grad.buckets, x.src ≠ e) ∧
    (∀ x ∈ (endLost s e).fab.early, hSrc x.1 ≠ e) ∧ (∀ x ∈ (endLost s e).fab.kept, x.dst ≠ e) := by
  rw [endLost_eq]
  generalize taskEnds e s = v
  refine ⟨fun x hx => ?_, fun x hx => ?_, fun x hx => ?_, fun x hx => ?_⟩
  · simpa using (List.mem_filter.mp (show x ∈ v.hold.kept.filter (fun k => k.req != e) from hx)).2
  · simpa using (List.mem_filter.mp (show x ∈ v.grad.buckets.filter (fun b => b.src != e) from hx)).2
  · simpa using (List.mem_filter.mp (show x ∈ v.fab.early.filter (fun m => hSrc m.1 != e) from hx)).2
  · simpa using (List.mem_filter.mp (show x ∈ v.fab.kept.filter (fun m => m.dst != e) from hx)).2

theorem taskEnds_idle {s : State} (e : Nat) (ht : s.cmd.tasks = []) (hl : s.hold.lists = []) : taskEnds e s = s := by
  have no_task : (s.cmd.tasks.map (·.id)).foldl (taskLost e) s = s := by rw [ht]; rfl
  have no_list : (s.hold.lists.filter (fun l => l.src == e)).map (·.task) = [] := by rw [hl]; rfl
  simp only [taskEnds, no_task, no_list, List.foldl_nil]

theorem markLost_eq (inj : Bool) (s : State) (e : Nat) : ∃ r d, r.conts = [] ∧ r.sev = 2 ∧ markLost inj s e =
    logErr r { s with draws := d, fab := { s.fab with lost := s.fab.lost ++ [e] } } :=
  ⟨_, _, rfl, rfl, rfl⟩

/-- The module without a die's slot. -/
def dieGone (slot : Nat) (s : State) : State :=
  { s with fab := { s.fab with
    liveSlots := s.fab.liveSlots.filter (· != slot)
    otherAgent := if s.fab.otherAgent = some slot then (s.fab.liveSlots.filter (· != slot)).head? else s.fab.otherAgent
    otherCollector := if s.fab.otherCollector = some slot then none else s.fab.otherCollector } }

theorem d2dDieLost_other {s : State} {slot : Nat} (hne : slot ≠ ownSlot s) (hr : s.boot.inReset = false) :
    d2dDieLost slot s = declareLost [eidOf (ownModule s) slot] (eidOf (ownModule s) slot) 0 false (dieGone slot s) := by
  refine if_neg ?_
  simp [hne, hr]

/-- Settles O47. -/
theorem peersAreLost : Obligations.PeersAreLost := by
  intro s m k slot e hs
  refine ⟨fun h => leaves_nothing hs (by simp [messageResend, h]), fun hk hf h0 h8 => ?_,
    fun hk hf h8 ht => congrArg (leaves s) (messageResend_lost hk hf h8 ht), declareLost_known e 0 false, fun hl ho => ?_,
    fun hl ho ht hn => ?_, fun h => leaves_nothing hs (if_pos (by simpa using h)), fun hne hr hl => ?_, fun hne hr => ?_⟩
  · have sent := resendKept_frame.transmit (retryHeader (hVer k.header) k.header) k.payload (resentNoted k s)
    rw [← messageResend_again hk hf h0 h8] at sent
    have hm : k.msgId = m := by simpa using List.find?_some hk
    refine ⟨_, leaves_next s _, sent.retries, sent.kept.trans ?_, sent.lost, sent.tasks, sent.hold, sent.tab, sent.grad, sent.strm⟩
    rw [← hm]
    rfl
  · obtain ⟨told, heq⟩ := declareLost_new e 0 false hl ho
    rw [heq]
    obtain ⟨h1, h2, h3, -⟩ := endLost_ends (tellLost told e 0 (markLost false s e)) e
    exact ⟨h1, h2, h3⟩
  · obtain ⟨told, heq⟩ := declareLost_new e 0 false hl ho
    obtain ⟨r, d, hc, hsev, hmark⟩ := markLost_eq false s e
    have marked := logErr_logOnly r { s with draws := d, fab := { s.fab with lost := s.fab.lost ++ [e] } }
    have counted := (logErr_counted { s with draws := d, fab := { s.fab with lost := s.fab.lost ++ [e] } } hc (by rw [hsev]; decide)).1
    rw [← hmark] at marked counted
    have told_kept := tellLost_kept told e 0 (markLost false s e)
    have told_off := fun h => tellLost_off told e 0 (s := markLost false s e) h
    generalize tellLost told e 0 (markLost false s e) = v at told_kept told_off heq
    have ended : endLost v e = endpointGone e (requesterGone e v) := by
      rw [endLost_eq, taskEnds_idle e (told_kept.tasks.trans (marked.tasks.trans ht)) (told_kept.lists.trans (by rw [marked.hold]; exact hn))]
    have gone := (endLost_ends v e).2.2.2
    refine ⟨_, heq, ?_, gone, fun hf => ?_, ?_, ?_, ?_, ?_, ?_, ?_, ?_⟩ <;> rw [ended]
    · exact told_kept.lost.trans (by rw [marked.fab])
    · have regs : (markLost false s e).regs.fabCtl = s.regs.fabCtl := by rw [← marked.regs]
      have off : FabOnly _ v := told_off (by
        rw [fabEnabled, partitionOf, regs]
        exact hf)
      exact (show v.rep.prod = _ by rw [off]; exact counted)
    · exact told_kept.tasks.trans (marked.tasks.trans ht)
    · exact told_kept.tab.trans marked.tab
    · exact told_kept.strm.trans marked.strm
    · exact told_kept.xl.trans marked.xl
    · exact told_kept.fuses.trans marked.fuses
    · exact told_kept.gauge.trans marked.gauge
    · exact told_kept.clk.trans marked.clk
  · exact leaves_of_inv ((d2dDieLost_other hne hr).trans (declareLost_known _ _ _ (.inl hl))) hs
  · exact ⟨dieGone slot s, rfl, rfl, rfl, rfl, congrArg (leaves s) (d2dDieLost_other hne hr)⟩

end Sys2Proof.Machine
end

section
/-! PROOFS. Arriving messages: the order of the checks (R398, R403, R404) and of delivery (R396, R409, R413, R414). -/

namespace Sys2Proof.Machine

/-- The command of a message type is its arrival. -/
theorem exec_message {ty : Nat} {c : Header → Bytes → Instr} (hc : messageCommand ty = some c) (h : Header) (b : Bytes) (s : State) :
    exec (c h b) s = leaves s (receive ty h b s) := by
  unfold messageCommand at hc
  split at hc <;> cases hc <;> rfl

/-! ### The checks -/

theorem receive_closed {s : State} (ty : Nat) (h : Header) (b : Bytes)
    (hs : s.boot.inReset = true ∨ s.rep.failed = true ∨ fastServed s = false) : receive ty h b s = s := by
  refine if_pos ?_
  rcases hs with k | k | k <;> simp [k]

section
variable {s : State} {h : Header} (ty : Nat) (b : Bytes) (hl : Listens s)
include hl

theorem receive_other (ho : hSrc h ≠ (ownEid s).toNat) : receive ty h b s = receiveFrom ty h b s := by
  obtain ⟨hr, hf, hv, -⟩ := hl
  refine (if_neg ?_).trans (if_neg ho)
  simp [hr, hf, hv]

theorem receive_own (ho : hSrc h = (ownEid s).toNat) : receive ty h b s = receiveOwn ty h b s := by
  obtain ⟨hr, hf, hv, -⟩ := hl
  refine (if_neg ?_).trans (if_pos ho)
  simp [hr, hf, hv]

theorem injectMsg_none (src : Nat) : injectMsg src s = (false, s) := by
  obtain ⟨-, -, -, hi⟩ := hl
  unfold injectMsg
  split
  · exact injectAt_none _ _ hi
  · rw [hi]

/-- The checks in their order (R403, R398, R418, R416, R404, R414, R411). -/
theorem receiveFrom_judges : receiveFrom ty h b s =
    if headerCrcOk h = false then fabRecord 0 false s
    else if hPartition h ≠ partitionOf s then { s with fab := { s.fab with foreign := satAdd s.fab.foreign 1 } }
    else if fabEnabled s = false then s
    else if hDst h ≠ (ownEid s).toNat then fabRecord (hSrc h) false s
    else if isLost s (hSrc h) = true then s
    else if ¬ (hVer h = 0x10 ∨ hVer h = 0x20) then nackMsg h 3 s
    else if badMessage ty h b = true then nackMsg h 4 (fabRecord (hSrc h) false s)
    else if tooOld h s = true then s
    else if (keptType ty && alreadySeen h s) = true then seenAgain h s
    else if (hCtrl h && !crcHolds b) = true then nackMsg h 1 (fabRecord (hSrc h) false s)
    else if hCls h = 3 ∧ grantLeft s (hSrc h) (relayType ty) < creditUnits b.length then nackMsg h 2 s
    else accept h b s := by
  unfold receiveFrom
  simp only [injectMsg_none hl, Bool.or_false, Bool.not_eq_eq_eq_not, Bool.not_true, bne_iff_ne, Bool.or_eq_false_iff, beq_eq_false_iff_ne,
    not_or, ne_eq, Bool.and_eq_true, decide_eq_true_eq]

end

/-- A message that is well formed is of a version known here, of its command's type, and of its type's class. -/
theorem wellFormed {ty : Nat} {h : Header} {b : Bytes} (hb : badMessage ty h b = false) :
    (hVer h = 0x10 ∨ hVer h = 0x20) ∧ hTyp h = ty ∧ ∃ ctrl, typeClass (hTyp h) = some (hCls h, ctrl) := by
  simp only [badMessage, malformed, Bool.or_eq_false_iff, bne_eq_false_iff_eq, Bool.not_eq_eq_eq_not, Bool.not_false, Bool.or_eq_true, beq_iff_eq] at hb
  obtain ⟨⟨htyp, ⟨⟨⟨⟨⟨⟨hclass, hver⟩, -⟩, -⟩, -⟩, -⟩, -⟩, -⟩, -⟩ := hb
  refine ⟨hver, htyp, ?_⟩
  split at hclass
  · cases hclass
  · rename_i c ctrl hc
    simp only [Bool.or_eq_false_iff, bne_eq_false_iff_eq] at hclass
    exact ⟨ctrl, by rw [hc, hclass.1]⟩

theorem exec_heard {ty : Nat} {c : Header → Bytes → Instr} (hc : messageCommand ty = some c) {h : Header} (b : Bytes) {s : State}
    (hh : Heard h s) : exec (c h b) s = leaves s (
      if ¬ (hVer h = 0x10 ∨ hVer h = 0x20) then nackMsg h 3 s
      else if badMessage ty h b = true then nackMsg h 4 (fabRecord (hSrc h) false s)
      else if tooOld h s = true then s
      else if (keptType ty && alreadySeen h s) = true then seenAgain h s
      else if (hCtrl h && !crcHolds b) = true then nackMsg h 1 (fabRecord (hSrc h) false s)
      else if hCls h = 3 ∧ grantLeft s (hSrc h) (relayType ty) < creditUnits b.length then nackMsg h 2 s
      else accept h b s) := by
  obtain ⟨hl, ho, hcrc, hpart, hen, hdst, hlost⟩ := hh
  rw [exec_message hc, receive_other ty b hl ho, receiveFrom_judges ty b hl]
  simp only [hcrc, hpart, hen, hdst, hlost, ne_eq, not_true_eq_false, if_false, Bool.true_eq_false, Bool.false_eq_true]

theorem exec_wellFormed {ty : Nat} {c : Header → Bytes → Instr} (hc : messageCommand ty = some c) {h : Header} {b : Bytes} {s : State}
    (hh : Heard h s) (hb : badMessage ty h b = false) : exec (c h b) s = leaves s (
      if tooOld h s = true then s
      else if (keptType ty && alreadySeen h s) = true then seenAgain h s
      else if (hCtrl h && !crcHolds b) = true then nackMsg h 1 (fabRecord (hSrc h) false s)
      else if hCls h = 3 ∧ grantLeft s (hSrc h) (relayType ty) < creditUnits b.length then nackMsg h 2 s
      else accept h b s) := by
  rw [exec_heard hc b hh, if_neg (not_not_intro (wellFormed hb).1), if_neg (by rw [hb]; decide)]

theorem seenAgain_inv {h : Header} {s : State} (hs : s.Inv) : (seenAgain h s).Inv ∧ (seenAgain h s).fuses = s.fuses ∧
    (seenAgain h s).pending = s.pending := by
  unfold seenAgain
  split
  · exact ⟨hs, rfl, rfl⟩
  · exact ⟨hs, rfl, rfl⟩

theorem leaves_fabRecord {s : State} (hs : s.Inv) (src : Nat) (inj : Bool) : leaves s (fabRecord src inj s) = .next (fabRecord src inj s) :=
  leaves_logErr hs _

/-- Settles O58. -/
theorem messagesJudged : Obligations.MessagesJudged := by
  intro s ty c h b hs hc
  refine ⟨fun hr => ?_, fun hl ho => ?_, fun hh => ⟨fun h1 h2 => ?_, fun hv hb => ?_, fun hb ho => ?_, fun hb ho hk => ?_, fun hb ho hk ht hp => ?_,
    fun hb ho hk ht hp hg => ?_⟩⟩
  · exact (exec_message hc h b s).trans (leaves_nothing hs (receive_closed ty h b hr))
  · have judged := (exec_message hc h b s).trans (congrArg (leaves s) ((receive_other ty b hl ho).trans (receiveFrom_judges ty b hl)))
    refine ⟨fun h1 => ?_, fun h1 h2 => ?_, fun h1 h2 h3 => ?_, fun h1 h2 h3 h4 => ?_, fun h1 h2 h3 h4 h5 => ?_⟩ <;> rw [judged]
    · rw [if_pos h1]
      exact leaves_fabRecord hs 0 false
    · rw [if_neg (by rw [h1]; decide), if_pos h2]
      exact leaves_inv hs rfl rfl
    · rw [if_neg (by rw [h1]; decide), if_neg (not_not_intro h2), if_pos h3]
      exact leaves_self hs
    · rw [if_neg (by rw [h1]; decide), if_neg (not_not_intro h2), if_neg (by rw [h3]; decide), if_pos h4]
      exact leaves_fabRecord hs _ false
    · rw [if_neg (by rw [h1]; decide), if_neg (not_not_intro h2), if_neg (by rw [h3]; decide), if_neg (not_not_intro h4), if_pos h5]
      exact leaves_self hs
  · rw [exec_heard hc b hh, if_pos (by simp [h1, h2])]
  · rw [exec_heard hc b hh, if_neg (not_not_intro hv), if_pos hb]
  · rw [exec_wellFormed hc hh hb, if_pos ho]
    exact leaves_self hs
  · rw [exec_wellFormed hc hh hb, if_neg (by rw [ho]; decide), if_pos hk]
    obtain ⟨hi, hf, hp⟩ := seenAgain_inv (h := h) hs
    exact leaves_inv hi hf hp
  · rw [exec_wellFormed hc hh hb, if_neg (by rw [ho]; decide), if_neg (by rw [hk]; decide), if_pos (by rw [ht, hp]; rfl)]
  · rw [exec_wellFormed hc hh hb, if_neg (by rw [ho]; decide), if_neg (by rw [hk]; decide), if_neg (by rw [ht]; exact Bool.false_ne_true), if_pos ⟨hp, hg⟩]

/-! ### Delivery -/

/-- Messages outside fseq order are of class 0 and are not kept. -/
theorem outsideOrder_light {ty : Nat} (ho : outsideOrder ty = true) :
    (∀ c ctrl, typeClass ty = some (c, ctrl) → c = 0) ∧ keptType ty = false := by
  have table : ∀ ty < 0x44, outsideOrder ty = true → (typeClass ty).all (fun k => k.1 == 0) = true ∧ keptType ty = false := by decide
  have bound : ty < 0x44 := by
    simp only [outsideOrder, Bool.or_eq_true, Bool.and_eq_true, decide_eq_true_eq] at ho
    omega
  obtain ⟨hclass, hkept⟩ := table ty bound ho
  refine ⟨fun c ctrl h => ?_, hkept⟩
  rw [h] at hclass
  simpa using hclass

theorem useGrant_fab (h : Header) (b : Bytes) (s : State) :
    useGrant h b s = { s with fab := { s.fab with grants := (useGrant h b s).fab.grants } } := by
  unfold useGrant
  split <;> rfl

/-- A message of today's version is noted, and delivered in its turn. -/
theorem accept_notes {h : Header} (b : Bytes) (s : State) (hv : hVer h = 0x20) : accept h b s = deliverInOrder h b (noted h b s) := by
  unfold accept noted
  rw [useGrant_fab]
  simp only [hv, show ¬ (0x20 : Nat) = 0x10 by decide, decide_false, Bool.false_and, Bool.false_eq_true, if_false]
  by_cases hk : keptType (hTyp h) = true
  · by_cases ha : ackLate (hTyp h) = true
    · simp only [hk, ha, Bool.not_true, Bool.and_false, Bool.false_eq_true, if_true, if_false]
      rfl
    · simp only [hk, ha, Bool.not_false, Bool.and_self, if_true, oweAck]
      rfl
  · simp only [hk, Bool.false_and, Bool.false_eq_true, if_false]

/-- A message outside fseq order leaves nothing to note. -/
theorem noted_light {ty : Nat} {h : Header} {b : Bytes} (s : State) (hb : badMessage ty h b = false) (ho : outsideOrder ty = true) :
    noted h b s = s := by
  obtain ⟨-, rfl, ctrl, hc⟩ := wellFormed hb
  obtain ⟨hclass, hkept⟩ := outsideOrder_light ho
  have c0 : hCls h ≠ 3 := by rw [hclass _ _ hc]; decide
  unfold noted useGrant
  simp only [hkept, if_neg c0, Bool.false_and, Bool.false_eq_true, if_false]

theorem exec_delivers {ty : Nat} {c : Header → Bytes → Instr} (hc : messageCommand ty = some c) {h : Header} {b : Bytes} {s : State}
    (hd : Delivers ty h b s) (hv : hVer h = 0x20) : exec (c h b) s = leaves s (deliverInOrder h b (noted h b s)) := by
  obtain ⟨hh, hb, ho, hk, hcrc, hg⟩ := hd
  have crc : (hCtrl h && !crcHolds b) = false := by
    cases ht : hCtrl h
    · rfl
    · rw [hcrc ht]
      rfl
  have granted : ¬ (hCls h = 3 ∧ grantLeft s (hSrc h) (relayType ty) < creditUnits b.length) := fun k => absurd (hg k.1) (by omega)
  rw [exec_wellFormed hc hh hb, if_neg (by rw [ho]; decide), if_neg (by rw [hk]; decide), if_neg (by rw [crc]; decide), if_neg granted,
    accept_notes b s hv]

theorem deliverNow_ok {h : Header} {b : Bytes} {s u : State} (hu : deliverTo h (bareLoad h b) s = (.ok (), u)) :
    deliverNow h b s = (true, delivered h b u) := by
  unfold deliverTo at hu
  simp only [deliverNow, hu]

theorem deliverNow_mig {h : Header} {b : Bytes} {s u : State} {va : Nat} {w : Bool} (hu : deliverTo h (bareLoad h b) s = (.error (.mig va w), u)) :
    deliverNow h b s = (false, waitMig none va w { s with fab := { s.fab with stalled := s.fab.stalled ++ [(s.xl.nextWalk, h, b)] } }) := by
  unfold deliverTo at hu
  simp only [deliverNow, hu]

theorem waitMig_nobody (va : Nat) (w : Bool) (s : State) : waitMig none va w s = { s with xl := { s.xl with
    walks := s.xl.walks ++ [⟨s.xl.nextWalk, va, w, false, none, none, some (tick s)⟩], nextWalk := s.xl.nextWalk + 1 } } :=
  if_neg (by simp)

/-- With nothing ahead of its turn here, a delivered message brings no other with it. -/
theorem deliverEarly_nothing {s : State} (k : Nat × Nat) (n : Nat) (h : s.fab.early = []) : deliverEarly k n s = s := by
  cases n with
  | zero => rfl
  | succ n => simp [deliverEarly, h]

theorem deliverInOrder_inside {h : Header} (b : Bytes) (s : State) (ho : outsideOrder (hTyp h) = false) : deliverInOrder h b s =
    if ahead h s = 0 then if s.fab.stalled.any (fun m => flowOf m.2.1 == flowOf h) then s else deliverRun h b s
    else if ahead h s < 2 ^ 15 then { s with fab := { s.fab with early := s.fab.early ++ [(h, b)] } } else s := by
  unfold deliverInOrder
  rw [if_neg (by rw [ho]; decide)]
  rfl

/-- Settles O48. -/
theorem messagesInOrder : Obligations.MessagesInOrder := by
  refine ⟨fun s u ty c h b hs hc hd hv => ?_, fun s u ty c h b hs hc hl ho ht hst => ⟨fun hq hu howner => ?_, fun hq => ?_⟩⟩
  · have exec_eq := exec_delivers hc hd hv
    have hb := hd.2.1
    have typ : hTyp h = ty := (wellFormed hb).2.1
    have other : hSrc h ≠ (ownEid s).toNat := hd.1.2.1
    have inside : outsideOrder ty = false → deliverInOrder h b (noted h b s) =
        if ahead h s = 0 then if s.fab.stalled.any (fun m => flowOf m.2.1 == flowOf h) then noted h b s else deliverRun h b (noted h b s)
        else if ahead h s < 2 ^ 15 then { noted h b s with fab := { (noted h b s).fab with early := s.fab.early ++ [(h, b)] } }
        else noted h b s := fun ho => deliverInOrder_inside b (noted h b s) (typ ▸ ho)
    refine ⟨fun ho hu howner => ?_, fun ho ha hst hu he => ?_, fun ho ha hst => ?_, fun va w ho ha hst hu => ?_, fun ho ha hb => ?_, fun ho ha => ?_⟩
    · rw [exec_eq, noted_light s hb ho, deliverInOrder, if_pos (typ ▸ ho), deliverNow_ok hu, delivered, if_neg (by rw [howner]; exact other),
        if_pos (typ ▸ ho)]
    · rw [exec_eq, inside ho, if_pos ha, if_neg (by rw [hst]; decide), deliverRun,
        deliverNow_ok hu]
      exact congrArg (leaves s) (deliverEarly_nothing _ _ he)
    · rw [exec_eq, inside ho, if_pos ha, if_pos hst]
      exact leaves_inv hs rfl rfl
    · rw [exec_eq, inside ho, if_pos ha, if_neg (by rw [hst]; decide), deliverRun,
        deliverNow_mig hu, waitMig_nobody]
      exact leaves_inv hs rfl rfl
    · rw [exec_eq, inside ho, if_neg (Nat.ne_of_gt ha), if_pos hb]
      exact leaves_inv hs rfl rfl
    · rw [exec_eq, inside ho, if_neg (show ahead h s ≠ 0 by omega), if_neg (Nat.not_lt.mpr ha)]
      exact leaves_inv hs rfl rfl
  · have turn : (hTyp h != ty || s.fab.stalled.any (fun m => flowOf m.2.1 == flowOf h)) = false := by simp [ht, hst]
    refine ⟨?_, fun hw => ?_⟩
    · rw [exec_message hc, receive_own ty b hl ho, receiveOwn, if_neg (by rw [turn]; decide), if_pos hq, deliverNow_ok hu]
    · rw [delivered, if_pos (by rw [howner]; exact ho), if_neg (by rw [hw]; decide)]
  · rw [exec_message hc, receive_own ty b hl ho, receiveOwn, if_neg hq]
    simp only [ite_self]
    exact leaves_self hs

end Sys2Proof.Machine
end

section
/-! PROOFS. Packets: how each opcode's command accepts, checks and begins them (R36 to R46, R318, R340). -/

namespace Sys2Proof.Machine

/-! ### Each opcode's command -/

/-- How a packet of an opcode begins once it has passed step 4; a HELLO binds its ring first (R56). -/
def packetBegin (op id : Nat) (s : State) : State :=
  beginOp { (default : Task) with id := id, op := BitVec.ofNat 8 op } (if op = 0x01 then helloBind id s else s)

theorem exec_packet {op : Nat} {c : Nat → Packet → Instr} (hc : packetCommand op = some c) (n : Nat) (p : Packet) (s : State) :
    exec (c n p) s = leaves s (acceptPacket (BitVec.ofNat 8 op) (packetStep4 op) (packetBegin op) n p s) := by
  unfold packetCommand at hc
  split at hc <;> cases hc <;> rfl

/-- A packet whose checks come before its effect, but BERM_CONFIG, checks and then starts. -/
theorem packetBegin_checked {op : Nat} {a : Task → Act Unit} (ha : packetCheck op = some a) (h60 : op ≠ 0x60) :
    ∃ start, (∀ id s, packetBegin op id s = beginTask a start id (if op = 0x01 then helloBind id s else s)) ∧
      ∀ t s, t.op = BitVec.ofNat 8 op → t.early = none → startOp t s = start t s := by
  unfold packetCheck at ha
  split at ha <;> cases ha <;> (try exact absurd rfl h60) <;>
    exact ⟨_, fun _ _ => rfl, fun t s ho he => by rw [startOp, ho, he]; rfl⟩

/-- A packet whose checks and effect are one access runs it whole, four opcodes at their acceptance. -/
theorem packetBegin_whole {op : Nat} {a : Task → Act Unit} (ha : packetWhole op = some a) :
    op ≠ 0x01 ∧ ∀ id s, packetBegin op id s = if op ∈ [0x08, 0x70, 0x71, 0x7C] then beginNow a id s else beginWhole a id s := by
  unfold packetWhole at ha
  split at ha <;> cases ha <;> exact ⟨by decide, fun _ _ => rfl⟩

/-! ### A packet with a poisoned slot and a CRC that fails -/

/-- An engine in phase 0x5 whose ring 1 is enabled with one packet waiting, in a line of device memory that is poisoned. -/
def poisonedSlot : State :=
  ringSet 1 { Ring.blank with depthLog2 := 6, proto := 0x20, st := .enabled, sqTail := 1 }
    { State.reset with
      boot := { State.reset.boot with phase := 5 }
      regs := { State.reset.regs with rctBase := 0x100000 }
      mem := { State.reset.mem with hbmTrained := true, hbmOnline := 3, poison := [0x8000] }
      xl := { State.reset.xl with ringStore := [(1, [⟨0, 16, 0x10000, .dev 0x200000, true, false, 0⟩])] } }

/-- A NOP without its CRC. -/
def unsealedNop : Packet := ⟨0x20, 0, 7, 0, 0⟩

/-- How many poisoned lines the state of an outcome has met. -/
def poisonMet : Host.Outcome State Fault Refusal → BitVec 32
  | .next s => s.mem.poisonCount
  | _ => 0

theorem poisonedSlot_inv : poisonedSlot.Inv := ⟨by decide +kernel, by decide +kernel⟩

theorem poisonedSlot_ready : mayAccept poisonedSlot 0x00 1 = true ∧ poisonedSlot.rep.inj = none ∧
    rctOk 1 poisonedSlot = (true, false, poisonedSlot) ∧ packetCrcOk 0x00 unsealedNop = false := by
  refine ⟨?_, ?_, ?_, ?_⟩ <;> decide +kernel

/-- Refutes O57: reading the poisoned slot counts and logs the line before the packet's own CRC is judged (R357), so the state that the
clause of the failing CRC names is not the one that is left. -/
theorem not_packetsJudged : ¬ Obligations.PacketsJudged := by
  intro h
  obtain ⟨hm, hi, hr, hc⟩ := poisonedSlot_ready
  obtain ⟨-, -, crc, -⟩ := h poisonedSlot poisonedSlot 0x00 1 .nop unsealedNop (resultOf stOk 0) poisonedSlot_inv rfl
  exact absurd (congrArg poisonMet (crc hm hi hr hc)) (by decide +kernel)

end Sys2Proof.Machine
end

section
/-! PROOFS. How a packet starts, ends, waits, is turned away or is held once it is accepted (R45, R46, R318, R340). -/

namespace Sys2Proof.Machine

/-! ### What a check ends with -/

/-- A packet whose checks stop ends, or waits, as its stop says. -/
theorem beginTask_stops {a : Task → Act Unit} {start : Task → State → State} {id : Nat} {s u : State} {t : Task} {x : Stop}
    (ht : taskOf s id = some t) (ha : (a t).go (some id) s = (.error x, u)) : beginTask a start id s = stopFrom id x s u := by
  simp only [beginTask, ht, ha]

theorem beginNow_stops {a : Task → Act Unit} {id : Nat} {s u : State} {t : Task} {x : Stop}
    (ht : taskOf s id = some t) (ha : (a t).go (some id) s = (.error x, u)) : beginNow a id s = stopFrom id x s u := by
  simp only [beginNow, ht, ha]

theorem beginWhole_stops {a : Task → Act Unit} {id : Nat} {s u : State} {t : Task} {x : Stop}
    (ht : taskOf s id = some t) (ha : (a t).go (some id) s = (.error x, u)) : beginWhole a id s = stopFrom id x s u := by
  simp only [beginWhole, ht, ha]

theorem beginTask_passes {a : Task → Act Unit} {start : Task → State → State} {id : Nat} {s u : State} {t : Task}
    (ht : taskOf s id = some t) (ha : (a t).go (some id) s = (.ok (), u)) : beginTask a start id s = admitTask id start u := by
  simp only [beginTask, ht, ha]

/-! ### Admission -/

section
variable {id : Nat} {start : Task → State → State} {u : State} {t : Task} (ht : taskOf u id = some t)
include ht

theorem admitTask_starts (hb : mayBegin t u = true) : admitTask id start u = start t u := by
  obtain ⟨hfull, hheld⟩ : (u.xl.overflow && !overflowExempt t.op) = false ∧ (pOrdered t.pkt && earlierTask u t) = false := by
    simpa only [mayBegin, Bool.and_eq_true, Bool.not_eq_true'] using hb
  simp only [admitTask, ht, hfull, hheld, Bool.false_eq_true, if_false]

theorem admitTask_turnedAway (ho : u.xl.overflow = true) (he : overflowExempt t.op = false) : admitTask id start u = finishTask id (rBusy 9) u := by
  simp only [admitTask, ht, ho, he, Bool.not_false, Bool.and_self, if_true]

theorem admitTask_held (ho : (u.xl.overflow && !overflowExempt t.op) = false) (hp : pOrdered t.pkt = true) (he : earlierTask u t = true) :
    admitTask id start u = mapTask id (fun t => { t with phase := .held }) u := by
  simp only [admitTask, ht, ho, hp, he, Bool.false_eq_true, Bool.and_self, if_true, if_false]

end

/-! ### BERM_CONFIG -/

theorem need_reads (cs : Checks) (id : Option Nat) (s : State) :
    (need cs).go id s = (.ok (), s) ∨ ∃ r, (need cs).go id s = (.error (.fail r), s) := by
  cases hf : firstFail cs with
  | none => exact .inl (go_need_passes id s hf)
  | some r => exact .inr ⟨r, go_need_fails id s hf⟩

/-- The checks of BERM_CONFIG read alone. -/
theorem bermConfigCheck_reads (t : Task) (id : Option Nat) (s : State) :
    (bermConfigCheck t).go id s = (.ok (), s) ∨ ∃ r, (bermConfigCheck t).go id s = (.error (.fail r), s) := by
  have read : (MonadState.get : Act State).go id s = (.ok s, s) := rfl
  unfold bermConfigCheck
  rw [go_bind_ok _ read]
  exact need_reads _ id s

theorem bermConfigCheck_keeps {t : Task} {id : Option Nat} {s u : State} {x : Except Stop Unit}
    (h : (bermConfigCheck t).go id s = (x, u)) : u = s := by
  rcases bermConfigCheck_reads t id s with k | ⟨r, k⟩ <;> exact (congrArg Prod.snd (h.symm.trans k))

theorem bermConfigWhole_passes {t : Task} {id : Option Nat} {s : State} (h : (bermConfigCheck t).go id s = (.ok (), s)) :
    (bermConfigWhole t).go id s = (.ok (), startBermConfig t s) := by
  unfold bermConfigWhole
  rw [go_bind_ok _ h]
  rfl

/-- Whether a BERM_CONFIG changes neither size nor share (R254). -/
def bermSame (t : Task) (s : State) : Prop := pf t.pkt 8 1 = s.berm.size ∧ pf t.pkt 9 1 = s.berm.share

theorem packetBegin_bermSame {id : Nat} {s : State} {t : Task} (ht : taskOf s id = some t) (h : bermSame t s) :
    packetBegin 0x60 id s = beginNow bermConfigWhole id s := by
  refine (show packetBegin 0x60 id s = beginBermConfig id s from rfl).trans (if_pos ?_)
  simp [ht, h.1, h.2]

/-- Any other packet with checks of its own, and a BERM_CONFIG that resizes, checks and then starts. -/
theorem packetBegin_checks {op id : Nat} {a : Task → Act Unit} {s : State} {t : Task} (ha : packetCheck op = some a)
    (ht : taskOf s id = some t) (h : ¬ (op = 0x60 ∧ bermSame t s)) :
    ∃ start, packetBegin op id s = beginTask a start id (if op = 0x01 then helloBind id s else s) ∧
      ∀ t s, t.op = BitVec.ofNat 8 op → t.early = none → startOp t s = start t s := by
  by_cases h60 : op = 0x60
  · subst h60
    cases ha
    refine ⟨startBermConfig, ?_, fun t s ho he => by rw [startOp, ho, he]; rfl⟩
    refine (show packetBegin 0x60 id s = beginBermConfig id s from rfl).trans (if_neg ?_)
    simpa [ht, bermSame] using h
  · obtain ⟨start, hb, hs⟩ := packetBegin_checked ha h60
    exact ⟨start, hb id s, hs⟩

/-! ### The packet's own task -/

theorem helloBind_turnOnly (id : Nat) (s : State) : TurnOnly s (helloBind id s) := by
  unfold helloBind
  split
  · rfl
  · split
    · rfl
    · split
      · rfl
      · exact ringSet_turnOnly _ _ _

theorem atChecks_turnOnly (op n : Nat) (p : Packet) (s : State) : TurnOnly (tookPacket (BitVec.ofNat 8 op) n p s) (atChecks op n p s) := by
  unfold atChecks
  simp only
  split
  · exact helloBind_turnOnly _ _
  · rfl

theorem atChecks_tasks (op n : Nat) (p : Packet) (s : State) :
    (atChecks op n p s).cmd.tasks = s.cmd.tasks ++ [packetTask (BitVec.ofNat 8 op) n p s] :=
  (atChecks_turnOnly op n p s).tasks.trans (tookPacket_tasks _ n p s)

theorem taskOf_atChecks {s : State} (hs : s.Inv) (op n : Nat) (p : Packet) :
    taskOf (atChecks op n p s) s.cmd.nextTask = some (packetTask (BitVec.ofNat 8 op) n p s) := by
  rw [← taskOf_tookPacket hs, taskOf, taskOf, (atChecks_turnOnly op n p s).tasks]

theorem tookPacket_xl (op : Byte) (n : Nat) (p : Packet) (s : State) : (tookPacket op n p s).xl = s.xl := by
  unfold tookPacket
  rw [tookTask_turnOnly op n (packetTask op n p s) s]

theorem atChecks_xl (op n : Nat) (p : Packet) (s : State) : (atChecks op n p s).xl = s.xl := by
  rw [atChecks_turnOnly op n p s]
  exact tookPacket_xl _ n p s

/-- Every task with the packet's number is the packet's own. -/
theorem only_packetTask {s : State} (hs : s.Inv) {op n : Nat} {p : Packet} {x : Task} (hx : x ∈ (atChecks op n p s).cmd.tasks)
    (hid : x.id = s.cmd.nextTask) : x = packetTask (BitVec.ofNat 8 op) n p s := by
  rw [atChecks_tasks, List.mem_append, List.mem_singleton] at hx
  rcases hx with hx | hx
  · exact absurd hid (Nat.ne_of_lt (hs.2 x hx))
  · exact hx

theorem mapTask_congr {id : Nat} {f g : Task → Task} {s : State} (h : ∀ t ∈ s.cmd.tasks, t.id = id → f t = g t) :
    mapTask id f s = mapTask id g s := by
  have tasks : s.cmd.tasks.map (fun t => if t.id = id then f t else t) = s.cmd.tasks.map (fun t => if t.id = id then g t else t) := by
    refine List.map_congr_left fun t ht => ?_
    split
    · exact h t ht ‹_›
    · rfl
  unfold mapTask
  rw [tasks]

/-! ### The page being moved -/

/-- A packet that meets a page being moved keeps its binding and waits. -/
theorem stopFrom_mig {s u : State} (hs : s.Inv) (op n : Nat) (p : Packet) (va : Nat) (w : Bool)
    (hw : ∀ x ∈ s.xl.walks, x.task ≠ some s.cmd.nextTask) :
    stopFrom s.cmd.nextTask (.mig va w) (atChecks op n p s) u = mapTask s.cmd.nextTask
      (fun t => { t with phase := .migWait va w (tick (atChecks op n p s)), bind := t.bind.orElse fun _ => (taskOf u s.cmd.nextTask).bind (·.bind) })
      { atChecks op n p s with xl := { (atChecks op n p s).xl with
        walks := (atChecks op n p s).xl.walks ++ [⟨(atChecks op n p s).xl.nextWalk, va, w, false, some s.cmd.nextTask, none, some (tick (atChecks op n p s))⟩]
        nextWalk := (atChecks op n p s).xl.nextWalk + 1 } } := by
  have fresh : ((atChecks op n p s).xl.walks.any (fun x => x.task == some s.cmd.nextTask && x.va == va && x.mig.isSome) &&
      (some s.cmd.nextTask).isSome) = false := by
    rw [atChecks_xl]
    simp only [Option.isSome_some, Bool.and_true, List.any_eq_false, Bool.and_eq_true, beq_iff_eq, not_and]
    exact fun x hx hid => absurd hid.1 (hw x hx)
  have waits : waitMig (some s.cmd.nextTask) va w (atChecks op n p s) = _ := if_neg (by rw [fresh]; decide)
  refine (congrArg (mapTask _ _) waits).trans (mapTask_congr fun x hx hid => ?_)
  rw [only_packetTask hs hx hid]
  rfl

/-! ### One access -/

/-- A task changed under its own number is found under it. -/
theorem taskOf_mapTask {f : Task → Task} (id : Nat) (s : State) (hf : ∀ t, (f t).id = t.id) :
    taskOf (mapTask id f s) id = (taskOf s id).map f := by
  have keeps : ((fun t : Task => t.id == id) ∘ fun t => if t.id = id then f t else t) = fun t => t.id == id := by
    funext t
    simp only [Function.comp_apply]
    split
    · rw [hf]
    · rfl
  rw [taskOf, taskOf, mapTask_cmd]
  simp only [List.find?_map, keeps]
  cases ht : s.cmd.tasks.find? (fun t => t.id == id) with
  | none => rfl
  | some t =>
    have hid : t.id = id := by simpa using List.find?_some ht
    simp only [Option.map_some, if_pos hid]

/-- Binding a task changes nothing of what holds it back. -/
theorem mayBegin_mapTask_bind (id : Nat) (b : Option (Nat × BitVec 16)) (t : Task) (s : State) :
    mayBegin { t with bind := b } (mapTask id (fun t => { t with bind := b }) s) = mayBegin t s := by
  have earlier : earlierTask (mapTask id (fun t => { t with bind := b }) s) { t with bind := b } = earlierTask s t := by
    unfold earlierTask
    rw [mapTask_cmd]
    simp only [List.any_map]
    congr 1
    funext x
    simp only [Function.comp_apply]
    split <;> rfl
  simp only [mayBegin, earlier, mapTask_xl]

theorem beginWhole_starts {a : Task → Act Unit} {id : Nat} {s u : State} {t : Task} (ht : taskOf s id = some t)
    (ha : (a t).go (some id) s = (.ok (), u)) (hb : mayBegin t s = true) : beginWhole a id s = u := by
  simp only [beginWhole, ht, ha]
  exact admitTask_starts (start := fun _ _ => u) ((taskOf_mapTask (f := fun t => { t with bind := (taskOf u id).bind (·.bind) }) id s fun _ => rfl).trans (by rw [ht]; rfl)) ((mayBegin_mapTask_bind ..).trans hb)

/-- Reading a packet keeps its ORDERED flag. -/
theorem pOrdered_keptPacket (s : State) (n : Nat) (p : Packet) : pOrdered (keptPacket s n p) = pOrdered p := by
  unfold keptPacket taskPacket
  rw [if_neg (by decide)]
  split
  · simp [pOrdered, pflag]
  · rfl

/-! ### The statement -/

theorem exec_accepts {op : Nat} {c : Nat → Packet → Instr} (hc : packetCommand op = some c) {n : Nat} {p : Packet} {s : State}
    (ha : Accepts (BitVec.ofNat 8 op) (packetStep4 op) n p s) :
    exec (c n p) s = leaves s (packetBegin op s.cmd.nextTask (tookPacket (BitVec.ofNat 8 op) n p s)) := by
  rw [exec_packet hc, acceptPacket_accepts _ ha]

/-- A packet whose checks stop: whichever way it begins, it stops from the state that its checks started from. -/
theorem exec_stops {op : Nat} {c : Nat → Packet → Instr} (hc : packetCommand op = some c) {n : Nat} {p : Packet} {s u : State} (hs : s.Inv)
    (ha : Accepts (BitVec.ofNat 8 op) (packetStep4 op) n p s) {a : Task → Act Unit} (hk : packetCheck op = some a ∨ packetWhole op = some a)
    {x : Stop} (hx : (a (packetTask (BitVec.ofNat 8 op) n p s)).go (some s.cmd.nextTask) (atChecks op n p s) = (.error x, u)) :
    exec (c n p) s = leaves s (stopFrom s.cmd.nextTask x (atChecks op n p s) u) := by
  have own := taskOf_atChecks hs op n p
  have took := taskOf_tookPacket hs (BitVec.ofNat 8 op) n p
  rw [exec_accepts hc ha]
  refine congrArg (leaves s) ?_
  rcases hk with hk | hk
  · by_cases hsame : op = 0x60 ∧ bermSame (packetTask (BitVec.ofNat 8 op) n p s) (tookPacket (BitVec.ofNat 8 op) n p s)
    · obtain ⟨rfl, hsame⟩ := hsame
      cases hk
      rw [packetBegin_bermSame took hsame]
      refine beginNow_stops took ?_
      unfold bermConfigWhole
      exact go_bind_error _ hx
    · obtain ⟨start, hb, -⟩ := packetBegin_checks hk took hsame
      rw [hb]
      exact beginTask_stops own hx
  · obtain ⟨h1, hb⟩ := packetBegin_whole hk
    have at_took : atChecks op n p s = tookPacket (BitVec.ofNat 8 op) n p s := if_neg h1
    rw [at_took] at hx ⊢
    rw [hb]
    split
    · exact beginNow_stops took hx
    · exact beginWhole_stops took hx

/-- A packet whose checks pass starts, is turned away or is held, as its admission says; a BERM_CONFIG that does not resize takes
effect at once or is turned away. -/
theorem exec_passes {op : Nat} {c : Nat → Packet → Instr} (hc : packetCommand op = some c) {n : Nat} {p : Packet} {s u : State} (hs : s.Inv)
    (ha : Accepts (BitVec.ofNat 8 op) (packetStep4 op) n p s) {a : Task → Act Unit} (hk : packetCheck op = some a)
    (hx : (a (packetTask (BitVec.ofNat 8 op) n p s)).go (some s.cmd.nextTask) (atChecks op n p s) = (.ok (), u))
    (hsame : ¬ (op = 0x60 ∧ bermSame (packetTask (BitVec.ofNat 8 op) n p s) (tookPacket (BitVec.ofNat 8 op) n p s))) :
    ∃ start, exec (c n p) s = leaves s (admitTask s.cmd.nextTask start u) ∧
      ∀ t s, t.op = BitVec.ofNat 8 op → t.early = none → startOp t s = start t s := by
  obtain ⟨start, hb, hstart⟩ := packetBegin_checks hk (taskOf_tookPacket hs (BitVec.ofNat 8 op) n p) hsame
  refine ⟨start, ?_, hstart⟩
  rw [exec_accepts hc ha, hb]
  exact congrArg (leaves s) (beginTask_passes (taskOf_atChecks hs op n p) hx)

theorem beginNow_turnedAway {a : Task → Act Unit} {id : Nat} {s u : State} {t : Task} (ht : taskOf s id = some t)
    (ha : (a t).go (some id) s = (.ok (), u)) (ho : s.xl.overflow = true) (he : overflowExempt t.op = false) :
    beginNow a id s = finishTask id (rBusy 9) s := by
  simp only [beginNow, ht, ha, ho, he, Bool.not_false, Bool.and_self, if_true]

/-- A task that took effect at its acceptance and whose completion ORDERED holds (log entry 34). -/
def heldEarly (t : Task) : Task :=
  match t.phase with
  | .done r => { t with phase := .held, early := some r }
  | _ => t

theorem beginNow_held {a : Task → Act Unit} {id : Nat} {s u : State} {t : Task} (ht : taskOf s id = some t)
    (ha : (a t).go (some id) s = (.ok (), u)) (ho : s.xl.overflow = false) (hp : pOrdered t.pkt = true) (he : earlierTask s t = true) :
    beginNow a id s = mapTask id heldEarly u := by
  simp only [beginNow, ht, ha, ho, hp, he, Bool.false_and, Bool.false_eq_true, Bool.and_self, if_true, if_false]
  rfl

/-- A BERM_CONFIG that does not resize, whose checks pass: they leave what they found, with the packet's own task. -/
theorem exec_bermSame {c : Nat → Packet → Instr} (hc : packetCommand 0x60 = some c) {n : Nat} {p : Packet} {s u : State} (hs : s.Inv)
    (ha : Accepts 0x60 bermConfigStep4 n p s)
    (hx : (bermConfigCheck (packetTask 0x60 n p s)).go (some s.cmd.nextTask) (atChecks 0x60 n p s) = (.ok (), u))
    (hsame : bermSame (packetTask 0x60 n p s) (tookPacket 0x60 n p s)) :
    u = tookPacket 0x60 n p s ∧ taskOf u s.cmd.nextTask = some (packetTask 0x60 n p s) ∧
      (bermConfigWhole (packetTask 0x60 n p s)).go (some s.cmd.nextTask) u = (.ok (), startBermConfig (packetTask 0x60 n p s) u) ∧
      exec (c n p) s = leaves s (beginNow bermConfigWhole s.cmd.nextTask u) := by
  have at_took : atChecks 0x60 n p s = tookPacket 0x60 n p s := rfl
  have hu : u = tookPacket 0x60 n p s := (bermConfigCheck_keeps hx).trans at_took
  rw [at_took] at hx
  have took := taskOf_tookPacket hs 0x60 n p
  rw [hu] at hx ⊢
  refine ⟨rfl, took, bermConfigWhole_passes hx, ?_⟩
  rw [exec_accepts hc ha]
  exact congrArg (leaves s) (packetBegin_bermSame took hsame)

/-- Settles O4. -/
theorem packetsStart : Obligations.PacketsStart := by
  intro s u v op n id c p t r a hs hc hid
  subst hid
  refine ⟨fun ⟨hacc, ⟨k, hk, hx⟩, ht, hop, hearly, hmay⟩ => ?_, fun ⟨hacc, ⟨w, hk, hx⟩, hmay⟩ => ?_, fun hacc hk hx => exec_stops hc hs hacc hk hx,
    fun va w hacc hk hv hx hw => ?_, fun hacc hk hx ht hop => ⟨fun ho he => ?_, fun ho hp he h60 => ?_⟩, fun hmem hacc hk hv hx ho hp he => ?_⟩
  · by_cases hsame : op = 0x60 ∧ bermSame (packetTask (BitVec.ofNat 8 op) n p s) (tookPacket (BitVec.ofNat 8 op) n p s)
    · obtain ⟨rfl, hsame⟩ := hsame
      cases hk
      obtain ⟨-, hu, whole, runs⟩ := exec_bermSame hc hs hacc hx hsame
      cases hu.symm.trans ht
      rw [runs, beginNow_starts ht whole hmay, startOp, hop, hearly]
      rfl
    · obtain ⟨start, runs, hstart⟩ := exec_passes hc hs hacc hk hx hsame
      rw [runs, admitTask_starts ht hmay, hstart t u hop hearly]
  · obtain ⟨h1, hb⟩ := packetBegin_whole hk
    have took := taskOf_tookPacket hs (BitVec.ofNat 8 op) n p
    rw [exec_accepts hc hacc, hb]
    split
    · rw [beginNow_starts took hx hmay]
    · rw [beginWhole_starts took hx hmay]
  · subst hv
    exact (exec_stops hc hs hacc hk hx).trans (congrArg (leaves s) (stopFrom_mig hs op n p va w hw))
  · by_cases hsame : op = 0x60 ∧ bermSame (packetTask (BitVec.ofNat 8 op) n p s) (tookPacket (BitVec.ofNat 8 op) n p s)
    · obtain ⟨rfl, hsame⟩ := hsame
      cases hk
      obtain ⟨-, hu, whole, runs⟩ := exec_bermSame hc hs hacc hx hsame
      cases hu.symm.trans ht
      rw [runs, beginNow_turnedAway ht whole ho he]
    · obtain ⟨start, runs, -⟩ := exec_passes hc hs hacc hk hx hsame
      rw [runs, admitTask_turnedAway ht ho he]
  · have hsame : ¬ (op = 0x60 ∧ bermSame (packetTask (BitVec.ofNat 8 op) n p s) (tookPacket (BitVec.ofNat 8 op) n p s)) := by
      rintro ⟨rfl, hsame⟩
      cases hk
      obtain ⟨hu, -⟩ := exec_bermSame hc hs hacc hx hsame
      subst hu
      simp only [bermSame, pf_packetTask] at hsame
      rcases h60 rfl with h | h
      · exact h hsame.1
      · exact h hsame.2
    obtain ⟨start, runs, -⟩ := exec_passes hc hs hacc hk hx hsame
    rw [runs, admitTask_held ht ho hp he]
  · subst hv
    obtain ⟨h1, hb⟩ := packetBegin_whole hk
    have took := taskOf_tookPacket hs (BitVec.ofNat 8 op) n p
    rw [exec_accepts hc hacc, hb, if_pos hmem, beginNow_held took hx ho ((pOrdered_keptPacket s n p).trans hp) he]
    rfl

end Sys2Proof.Machine
end

section
/-! PROOFS. What the packets that control the engine do where they start (R34 to R66, R253, R292 to R294, R364, R478 to R516). -/

namespace Sys2Proof.Machine

/-! ### Running a packet -/

/-- What a packet's start is, by its opcode. -/
theorem exec_starts {op : Nat} {c : Nat → Packet → Instr} (hc : packetCommand op = some c) {start : Task → State → State}
    (hst : ∀ t s, t.op = BitVec.ofNat 8 op → t.early = none → startOp t s = start t s) {s u : State} (hs : s.Inv) {n : Nat} {p : Packet} {t : Task}
    (h : Starts op n p s u t) : exec (c n p) s = leaves s (start t u) ∧ t.id = s.cmd.nextTask := by
  have ht := h.2.2.1
  refine ⟨?_, by simpa using List.find?_some ht⟩
  rw [(packetsStart s u u op n _ c p t (resultOf stOk 0) (fun _ => pure ()) hs hc rfl).1 h]
  exact congrArg (leaves s) (hst t u h.2.2.2.1 h.2.2.2.2.1)

/-- A packet whose one access runs. -/
theorem exec_runs {op : Nat} {c : Nat → Packet → Instr} (hc : packetCommand op = some c) {w : Task → Act Unit} (hw : packetWhole op = some w)
    {s u : State} (hs : s.Inv) {n : Nat} {p : Packet} (ha : Accepts (BitVec.ofNat 8 op) (packetStep4 op) n p s)
    (hm : mayBegin (packetTask (BitVec.ofNat 8 op) n p s) (tookPacket (BitVec.ofNat 8 op) n p s) = true)
    (hx : (w (packetTask (BitVec.ofNat 8 op) n p s)).go (some s.cmd.nextTask) (tookPacket (BitVec.ofNat 8 op) n p s) = (.ok (), u)) :
    exec (c n p) s = leaves s u :=
  (packetsStart s u u op n _ c p (packetTask (BitVec.ofNat 8 op) n p s) (resultOf stOk 0) w hs hc rfl).2.1 ⟨ha, ⟨w, hw, hx⟩, hm⟩

/-- A packet whose checks fail. -/
theorem exec_fails {op : Nat} {c : Nat → Packet → Instr} (hc : packetCommand op = some c) {a : Task → Act Unit}
    (hk : packetCheck op = some a ∨ packetWhole op = some a) {s u : State} (hs : s.Inv) {n : Nat} {p : Packet} {r : Result}
    (ha : Accepts (BitVec.ofNat 8 op) (packetStep4 op) n p s)
    (hx : (a (packetTask (BitVec.ofNat 8 op) n p s)).go (some s.cmd.nextTask) (atChecks op n p s) = (.error (.fail r), u)) :
    exec (c n p) s = leaves s (finishTask s.cmd.nextTask r u) :=
  exec_stops hc hs ha hk hx

theorem go_get_bind {β : Type} (f : State → Act β) (id : Option Nat) (s : State) : (MonadState.get >>= f).go id s = (f s).go id s :=
  go_bind_ok f rfl

theorem go_modify (f : State → State) (id : Option Nat) (s : State) : (modify f : Act Unit).go id s = (.ok (), f s) := rfl

/-- Checks that pass, before what follows them. -/
theorem go_need_bind {β : Type} {cs : Checks} (f : Unit → Act β) (id : Option Nat) (s : State) (h : firstFail cs = none) :
    (need cs >>= f).go id s = (f ()).go id s := go_bind_ok f (go_need_passes id s h)

/-- What holds a task back lies in the tasks and the fault collector alone. -/
theorem mayBegin_of {t : Task} {s u : State} (ht : u.cmd.tasks = s.cmd.tasks) (hx : u.xl = s.xl) : mayBegin t u = mayBegin t s := by
  simp only [mayBegin, earlierTask, ht, hx]

theorem tookPacket_fuses (op : Byte) (n : Nat) (p : Packet) (s : State) : (tookPacket op n p s).fuses = s.fuses := by
  unfold tookPacket
  rw [tookTask_turnOnly op n (packetTask op n p s) s]

theorem stageEntries_packetTask (op : Byte) (n : Nat) (p : Packet) (s : State) : stageEntries (packetTask op n p s).pkt = stageEntries p := by
  simp only [stageEntries, stageOffset, pf_packetTask]

theorem createdRing_packetTask (op : Byte) (n : Nat) (p : Packet) (s : State) : createdRing (packetTask op n p s).pkt = createdRing p := by
  simp only [createdRing, pf_packetTask]

/-! ### Semaphores -/

theorem semExamine_nobody {n : Nat} {s : State} (h : ∀ x ∈ s.cmd.tasks, isSemWait n x = false) : semExamine n s = s := by
  have nobody : s.cmd.tasks.find? (fun t => isSemWait n t && semHolds t.pkt (semGet s n)) = none := by
    rw [List.find?_eq_none]
    exact fun x hx => by simp [h x hx]
  unfold semExamine
  cases hf : s.cmd.tasks.length with
  | zero => rfl
  | succ k => rw [semWaiters, nobody]

theorem startSemSet_alone {t : Task} {s : State} (h : ∀ x ∈ s.cmd.tasks, isSemWait (pf t.pkt 8 2) x = false) :
    startSemSet t s = finishOk t.id 0 (semPut (pf t.pkt 8 2) (BitVec.ofNat 32 (pf t.pkt 12 4)) s) :=
  congrArg (finishOk t.id 0) (semExamine_nobody h)

theorem startSemSignal_lost {t : Task} {s : State} (h : isLost s (semOwner s t.pkt) = true) :
    startSemSignal t s = finishTask t.id (rPeerLost (semOwner s t.pkt)) s := if_pos h

theorem startSemSignal_own {t : Task} {s : State} (ho : semOwner s t.pkt = (ownEid s).toNat) (h : isLost s (semOwner s t.pkt) = false) :
    startSemSignal t s = finishOk t.id 0 (semAdd (pf t.pkt 8 2) (pf t.pkt 12 4) (.task t.id) s) := by
  rw [startSemSignal, if_neg (by simp [h]), signalSem, if_pos ho]

theorem startSemSignal_far {t : Task} {s : State} (ht : taskOf s t.id = some t) (ho : semOwner s t.pkt ≠ (ownEid s).toNat)
    (h : isLost s (semOwner s t.pkt) = false) : startSemSignal t s = setWork t.id (.semSignal s.fab.nextMsg)
      (sendMsg (semOwner s t.pkt) 0x32 t.id t.pkt.tag.toNat [(32, 2, pf t.pkt 8 2), (36, 4, pf t.pkt 12 4)] [] s) := by
  rw [startSemSignal, if_neg (by simp [h]), signalSem, if_neg ho, ht]

theorem startSemWait_holds {t : Task} {s : State} (h : semHolds t.pkt (semGet s (pf t.pkt 8 2)) = true) :
    startSemWait t s = semExamine (pf t.pkt 8 2) (semTake t s) := if_pos h

theorem startSemWait_waits {t : Task} {s : State} (h : semHolds t.pkt (semGet s (pf t.pkt 8 2)) = false) :
    startSemWait t s = setWork t.id .semWait (waitStarts s) := if_neg (by simp [h])

/-! ### FENCE -/

theorem startFence_alone {t : Task} {s : State} (h : fenceScope t s = []) : startFence t s = finishOk t.id 0 s := by
  simp only [startFence, h, List.isEmpty_nil, if_true]

theorem startFence_waits {t : Task} {s : State} (h : fenceScope t s ≠ []) :
    startFence t s = setWork t.id (.fence (fenceScope t s) (fenceScope t s).length) s :=
  if_neg (by simpa using h)

/-! ### HELLO -/

theorem helloBind_chosen {id : Nat} {s : State} {t : Task} {v : Byte} (ht : taskOf s id = some t) (hc : chosen t.pkt = some v)
    (hcap : pf t.pkt 24 8 = 0) (ho : s.xl.overflow = false) :
    helloBind id s = ringSet t.ring { ringGet s t.ring with proto := v, driver := BitVec.ofNat 64 (pf t.pkt 32 8) } s := by
  simp only [helloBind, ht, hc, ho, hcap, bne_self_eq_false, Bool.false_and, Bool.or_self, Bool.false_eq_true, if_false]

theorem helloBind_none {id : Nat} {s : State} {t : Task} (ht : taskOf s id = some t) (hc : chosen t.pkt = none) : helloBind id s = s := by
  simp only [helloBind, ht, hc]

theorem helloCheck_none {t : Task} (hc : chosen t.pkt = none) (id : Option Nat) (s : State) : (helloCheck t).go id s =
    (.error (.fail (resultOf stBadVersion (t.pkt.version.toNat * 65536 + t.proto.toNat * 256 + 0x20))), s) := by
  simp only [helloCheck, hc]
  rfl

theorem helloCheck_passes {t : Task} {v : Byte} (hc : chosen t.pkt = some v) (hcap : pf t.pkt 24 8 = 0) (id : Option Nat) (s : State) :
    (helloCheck t).go id s = (.ok (), s) := by
  simp only [helloCheck, hc, hcap]
  rfl

/-- A HELLO with no capability address names the version it has chosen. -/
theorem startHello_names {t : Task} {v : Byte} {s : State} (hc : chosen t.pkt = some v) (hcap : pf t.pkt 24 8 = 0)
    (hold : ∀ x ∈ s.cmd.tasks, x.id = t.id → x.degraded = none ∧ x.dropped = 0) :
    startHello t s = finishTask t.id (resultOf stOk (v.toNat * 65536)) s := by
  have body : startHello t s = mapTask t.id (fun x =>
      let r := okResult x 0 false false
      setResult (if r.status = stOk then { r with detail := BitVec.ofNat 24 (v.toNat * 65536) } else r) x) s := by
    simp only [startHello, hcap, hc]
    rfl
  rw [body]
  refine mapTask_congr fun x hx hid => ?_
  obtain ⟨hd, hz⟩ := hold x hx hid
  simp only [okResult, hd, hz, if_true]
  rfl

theorem chosen_packetTask (op : Byte) (n : Nat) (p : Packet) (s : State) : chosen (packetTask op n p s).pkt = chosen p := by
  simp only [chosen, offers, pf_packetTask]

theorem keptPacket_version (s : State) (n : Nat) (p : Packet) : (keptPacket s n p).version = p.version := by
  simp only [keptPacket, taskPacket, Bool.not_true, Bool.false_eq_true, if_false]
  split <;> rfl

theorem atHello (n : Nat) (p : Packet) (s : State) : atChecks 0x01 n p s = helloBind s.cmd.nextTask (tookPacket 0x01 n p s) := rfl

theorem atHello_chosen {s : State} (hs : s.Inv) {n : Nat} {p : Packet} {v : Byte} (hc : chosen p = some v) (hcap : pf p 24 8 = 0)
    (ho : s.xl.overflow = false) : atChecks 0x01 n p s = ringSet n
      { ringGet (tookPacket 0x01 n p s) n with proto := v, driver := BitVec.ofNat 64 (pf p 32 8) } (tookPacket 0x01 n p s) := by
  have room : (tookPacket 0x01 n p s).xl.overflow = false := by rw [tookPacket_xl, ho]
  have driver := pf_packetTask 0x01 n p s 32 8
  rw [atHello, helloBind_chosen (taskOf_tookPacket hs 0x01 n p) ((chosen_packetTask ..).trans hc) ((pf_packetTask ..).trans hcap) room, driver]
  rfl

theorem exec_hello {s : State} (hs : s.Inv) {n : Nat} {p : Packet} {v : Byte} (ha : Accepts 0x01 helloStep4 n p s) (hc : chosen p = some v)
    (hcap : pf p 24 8 = 0) (ho : s.xl.overflow = false)
    (hm : mayBegin (packetTask 0x01 n p s) (tookPacket 0x01 n p s) = true) :
    exec (.hello n p) s = leaves s (finishTask s.cmd.nextTask (resultOf stOk (v.toNat * 65536)) (ringSet n
      { ringGet (tookPacket 0x01 n p s) n with proto := v, driver := BitVec.ofNat 64 (pf p 32 8) } (tookPacket 0x01 n p s))) := by
  have own := taskOf_atChecks hs 0x01 n p
  have chose : chosen (packetTask 0x01 n p s).pkt = some v := (chosen_packetTask ..).trans hc
  have nocap : pf (packetTask 0x01 n p s).pkt 24 8 = 0 := (pf_packetTask ..).trans hcap
  have starts : Starts 0x01 n p s (atChecks 0x01 n p s) (packetTask 0x01 n p s) :=
    ⟨ha, ⟨_, rfl, helloCheck_passes chose nocap _ _⟩, own, rfl, rfl,
      (mayBegin_of (atChecks_turnOnly 0x01 n p s).tasks ((atChecks_xl 0x01 n p s).trans (tookPacket_xl _ n p s).symm)).trans hm⟩
  have runs := (exec_starts (c := .hello) (start := startHello) rfl (fun t s ho he => by rw [startOp, ho, he]; rfl) hs starts).1
  rw [startHello_names chose nocap fun x hx hid => by rw [only_packetTask hs hx hid]; exact ⟨rfl, rfl⟩, atHello_chosen hs hc hcap ho] at runs
  exact runs

theorem exec_hello_badVersion {s : State} (hs : s.Inv) {n : Nat} {p : Packet} (ha : Accepts 0x01 helloStep4 n p s) (hc : chosen p = none) :
    exec (.hello n p) s = leaves s (finishTask s.cmd.nextTask
      (resultOf stBadVersion (p.version.toNat * 65536 + (ringGet s n).proto.toNat * 256 + 0x20)) (tookPacket 0x01 n p s)) := by
  have chose : chosen (packetTask 0x01 n p s).pkt = none := (chosen_packetTask ..).trans hc
  have unbound : atChecks 0x01 n p s = tookPacket 0x01 n p s := helloBind_none (taskOf_tookPacket hs 0x01 n p) chose
  have fails := helloCheck_none chose (some s.cmd.nextTask) (atChecks 0x01 n p s)
  rw [show (packetTask 0x01 n p s).pkt.version = p.version from keptPacket_version s n p] at fails
  rw [exec_fails (op := 0x01) (c := .hello) rfl (.inl rfl) hs ha fails, unbound]
  rfl

/-! ### Configuration -/

theorem configStageWhole_stages {t : Task} {s : State} (h : stageFits s.cmd.staged (stageEntries t.pkt) = true) (id : Option Nat) :
    (configStageWhole t).go id s = (.ok (), finishOk t.id (stageEntries t.pkt).length
      { s with cmd := { s.cmd with staged := (stageEntries t.pkt).foldl stageOne s.cmd.staged } }) := by
  unfold configStageWhole
  simp only
  rw [go_get_bind]
  simp only [h]
  rfl

theorem configStageWhole_refuses {t : Task} {s : State} (h : stageFits s.cmd.staged (stageEntries t.pkt) = false) (id : Option Nat) :
    (configStageWhole t).go id s = (.error (.fail (rBusy 2)), s) := by
  unfold configStageWhole
  simp only
  rw [go_get_bind]
  simp only [h]
  rfl

theorem configCommitCheck_discards {t : Task} (h : pf t.pkt 10 1 = 1) (id : Option Nat) (s : State) : (configCommitCheck t).go id s =
    (.ok (), stageDiscard (mapTask t.id (fun t => { t with captured := s.cmd.staged }) s)) := by
  unfold configCommitCheck
  rw [if_pos h]
  rfl

/-- A staged set captured with nothing wrong changes no task. -/
theorem capture_tasks {task : Option Nat} {count : Nat} {s : State} (h : (capture task count s).1 = none) :
    (capture task count s).2.cmd.tasks = s.cmd.tasks := by
  unfold capture at h ⊢
  simp only at h ⊢
  split at h
  · cases h
  · rw [if_neg ‹_›]
    split at h
    · cases h
    · rfl

theorem configCommitCheck_tasks {t : Task} {s u : State} (hp : pf t.pkt 10 1 ≠ 1) {id : Option Nat}
    (hx : (configCommitCheck t).go id s = (.ok (), u)) : u.cmd.tasks = s.cmd.tasks := by
  have body : (configCommitCheck t).go id s = match capture (some t.id) (pf t.pkt 8 2) s with
      | (some r, v) => (.error (.fail r), v)
      | (none, v) => (.ok (), v) := by
    unfold configCommitCheck
    rw [if_neg hp, go_get_bind]
    rcases capture (some t.id) (pf t.pkt 8 2) s with ⟨_ | r, v⟩ <;> rfl
  rw [body] at hx
  have kept := capture_tasks (task := some t.id) (count := pf t.pkt 8 2) (s := s)
  rcases hc : capture (some t.id) (pf t.pkt 8 2) s with ⟨_ | r, v⟩
  · rw [hc] at hx kept
    cases hx
    exact kept rfl
  · rw [hc] at hx
    cases hx

/-- A CONFIG_COMMIT that discards has kept the set it discards, whose length its completion reports. -/
theorem commit_discards {s u : State} {n : Nat} {p : Packet} {t : Task} (hs : s.Inv) (h : Starts 0x79 n p s u t) (hp : pf t.pkt 10 1 = 1) :
    u = stageDiscard (mapTask s.cmd.nextTask (fun t => { t with captured := s.cmd.staged }) (tookPacket 0x79 n p s)) ∧
    t.captured.length = s.cmd.staged.length := by
  obtain ⟨-, ⟨c, hc, hx⟩, ht, -⟩ := h
  cases hc
  have own : taskOf (tookPacket 0x79 n p s) s.cmd.nextTask = some (packetTask 0x79 n p s) := taskOf_tookPacket hs 0x79 n p
  have discards : pf (packetTask 0x79 n p s).pkt 10 1 = 1 := by
    by_contra hne
    have kept : u.cmd.tasks = (tookPacket 0x79 n p s).cmd.tasks := configCommitCheck_tasks hne hx
    rw [taskOf, kept] at ht
    cases ht.symm.trans own
    exact hne hp
  have run := configCommitCheck_discards discards (some s.cmd.nextTask) (tookPacket 0x79 n p s)
  have hu : u = stageDiscard (mapTask s.cmd.nextTask (fun t => { t with captured := (tookPacket 0x79 n p s).cmd.staged }) (tookPacket 0x79 n p s)) :=
    (Prod.mk.inj (hx.symm.trans run)).2
  rw [tookPacket_staged] at hu
  refine ⟨hu, ?_⟩
  have found := taskOf_mapTask (f := fun t : Task => { t with captured := s.cmd.staged }) s.cmd.nextTask (tookPacket 0x79 n p s) fun _ => rfl
  rw [own] at found
  rw [hu] at ht
  cases ht.symm.trans found
  rfl

/-! ### Injection and repair -/

theorem diagInjectWhole_arms {t : Task} {s : State} (h : (gaugeDetector (pf t.pkt 8 1) && s.fuses.sealed) = false) (id : Option Nat) :
    (diagInjectWhole t).go id s = (.ok (), startDiagInject t s) := by
  unfold diagInjectWhole diagInjectCheck
  refine go_bind_ok _ ((go_get_bind ..).trans (go_need_passes _ _ ?_))
  rw [h]
  rfl

theorem diagInjectWhole_sealed {t : Task} {s : State} (h : (gaugeDetector (pf t.pkt 8 1) && s.fuses.sealed) = true) (id : Option Nat) :
    (diagInjectWhole t).go id s = (.error (.fail (rBadParam 6 8)), s) := by
  unfold diagInjectWhole diagInjectCheck
  refine go_bind_error _ ((go_get_bind ..).trans (go_need_fails _ _ ?_))
  rw [h]
  rfl

theorem startRepair_blows {t : Task} {s : State} {r : SoftRepair} (hb : pf t.pkt 9 1 = 2) (hr : s.rep.soft = [r]) (hn : namesRepair t.pkt r = true) :
    startRepair t s = finishOk t.id 0 { s with fuses := { s.fuses with field := s.fuses.field ++ [r] }, rep := { s.rep with soft := [] } } := by
  unfold startRepair
  simp only [if_pos hb, hr, List.filter_cons, List.filter_nil, hn, if_true]
  rfl

theorem startRepair_now {t : Task} {s : State} (hb : pf t.pkt 9 1 < 2) (hl : pf t.pkt 8 1 ≤ 2) :
    startRepair t s = repairNow t.pkt (finishTask t.id (resultOf stOk 0) s) := by
  rw [startRepair, if_neg (by omega), if_pos hl]

theorem startRepair_later {t : Task} {s : State} (hb : pf t.pkt 9 1 < 2) (hl : 2 < pf t.pkt 8 1) :
    startRepair t s = setWork t.id .repair { s with rep := { s.rep with busy := some t.id } } := by
  rw [startRepair, if_neg (by omega), if_neg (by omega)]

/-! ### Rings -/

theorem ringConfigWhole_creates {t : Task} {s : State} (hk : pf t.pkt 10 1 = 0) (hd : (ringGet s (rcRing t.pkt)).st = .disabled)
    (hsq : (createdRing t.pkt).sqBase.toNat + 64 * ringDepth (createdRing t.pkt) ≤ 2 ^ 52)
    (hcq : (createdRing t.pkt).cqBase.toNat + 32 * ringDepth (createdRing t.pkt) ≤ 2 ^ 52) (id : Option Nat) :
    (ringConfigWhole t).go id s = (.ok (), finishOk t.id 0 (ringSet (rcRing t.pkt) (createdRing t.pkt) s)) := by
  unfold ringConfigWhole
  simp only [hk]
  rw [go_get_bind, go_need_bind]
  · rfl
  · simp only [hd, firstFail, bad, bne_self_eq_false, decide_eq_false (Nat.not_lt.mpr hsq), decide_eq_false (Nat.not_lt.mpr hcq)]
    rfl

theorem ringConfigWhole_resets {t : Task} {s : State} (hk : pf t.pkt 10 1 = 3) (hd : (ringGet s (rcRing t.pkt)).st = .disabled) (id : Option Nat) :
    (ringConfigWhole t).go id s = (.ok (), finishOk t.id 0 (setRingStore (rcRing t.pkt) []
      (ringSet (rcRing t.pkt) { ringGet s (rcRing t.pkt) with sqHead := (ringGet s (rcRing t.pkt)).sqTail } s))) := by
  unfold ringConfigWhole
  simp only [hk]
  rw [go_get_bind, go_need_bind]
  · simp only [hd]
    rfl
  · simp only [hd]
    rfl

/-! ### The statement -/

/-- Settles O5. -/
theorem controlPacketsAct : Obligations.ControlPacketsAct := by
  intro s u n id p t hs hid
  subst hid
  refine ⟨fun h => ?_, fun v ha hc hcap ho hm hu => ?_, exec_hello_badVersion hs, fun h he => ?_, fun h he => ?_, fun h hw => ?_, fun h ho hl => ?_,
    fun h ho hl => ?_, fun h hl => ?_, fun h hw => ?_, fun h hw => ?_, fun ha hf hu hm => ?_, fun ha hf => ?_, fun h hp => ⟨?_, ?_⟩, fun h hp => ?_,
    fun ha hu hm => ⟨fun hg => ?_, fun hg => ?_⟩, fun r h hp hr hn => ?_, fun h hp hl => ?_, fun h hp hl => ?_, fun h => ?_,
    fun ha hu hm hk hd hsq hcq => ?_, fun ha hu hm hk hd => ?_, fun h h1 h2 => ?_, fun h hne => ?_⟩
  · obtain ⟨runs, hid⟩ := exec_starts (c := .nop) (start := startNop) rfl (fun t s ho he => by rw [startOp, ho, he]; rfl) hs h
    rw [runs, startNop, hid]
  · rw [hu, exec_hello hs ha hc hcap ho hm]
  · obtain ⟨runs, hid⟩ := exec_starts (c := .fence) (start := startFence) rfl (fun t s ho he => by rw [startOp, ho, he]; rfl) hs h
    rw [runs, startFence_alone he, hid]
  · obtain ⟨runs, hid⟩ := exec_starts (c := .fence) (start := startFence) rfl (fun t s ho he => by rw [startOp, ho, he]; rfl) hs h
    rw [runs, startFence_waits he, hid]
  · obtain ⟨runs, hid⟩ := exec_starts (c := .semSet) (start := startSemSet) rfl (fun t s ho he => by rw [startOp, ho, he]; rfl) hs h
    rw [runs, startSemSet_alone hw, hid]
  · obtain ⟨runs, hid⟩ := exec_starts (c := .semSignal) (start := startSemSignal) rfl (fun t s ho he => by rw [startOp, ho, he]; rfl) hs h
    rw [runs, startSemSignal_own ho hl, hid]
  · obtain ⟨runs, hid⟩ := exec_starts (c := .semSignal) (start := startSemSignal) rfl (fun t s ho he => by rw [startOp, ho, he]; rfl) hs h
    rw [runs, startSemSignal_far (by rw [hid]; exact h.2.2.1) ho hl, hid]
  · obtain ⟨runs, hid⟩ := exec_starts (c := .semSignal) (start := startSemSignal) rfl (fun t s ho he => by rw [startOp, ho, he]; rfl) hs h
    rw [runs, startSemSignal_lost hl, hid]
  · obtain ⟨runs, hid⟩ := exec_starts (c := .semWait) (start := startSemWait) rfl (fun t s ho he => by rw [startOp, ho, he]; rfl) hs h
    rw [runs, startSemWait_holds hw, semTake, hid]
  · obtain ⟨runs, hid⟩ := exec_starts (c := .semWait) (start := startSemWait) rfl (fun t s ho he => by rw [startOp, ho, he]; rfl) hs h
    rw [runs, startSemWait_waits hw, hid]
  · have runs := configStageWhole_stages (t := packetTask 0x78 n p s) (s := u) (by rw [stageEntries_packetTask, hu, tookPacket_staged]; exact hf) (some s.cmd.nextTask)
    rw [stageEntries_packetTask] at runs
    subst hu
    rw [exec_runs (op := 0x78) (c := .configStage) rfl rfl hs ha hm runs, tookPacket_staged]
    rfl
  · have stops := configStageWhole_refuses (t := packetTask 0x78 n p s) (s := tookPacket 0x78 n p s)
      (by rw [stageEntries_packetTask, tookPacket_staged]; exact hf) (some s.cmd.nextTask)
    exact exec_fails (op := 0x78) (c := .configStage) rfl (.inr rfl) hs ha stops
  · exact (commit_discards hs h hp).1
  · obtain ⟨runs, hid⟩ := exec_starts (c := .configCommit) (start := startConfigCommit) rfl (fun t s ho he => by rw [startOp, ho, he]; rfl) hs h
    rw [runs, startConfigCommit, if_pos hp, hid, (commit_discards hs h hp).2]
  · obtain ⟨runs, hid⟩ := exec_starts (c := .configCommit) (start := startConfigCommit) rfl (fun t s ho he => by rw [startOp, ho, he]; rfl) hs h
    rw [runs, startConfigCommit, if_neg (by omega), hid]
  · subst hu
    exact exec_fails (op := 0x7C) (c := .diagInject) rfl (.inr rfl) hs ha
      (diagInjectWhole_sealed (t := packetTask 0x7C n p s) (s := tookPacket 0x7C n p s) (by rw [pf_packetTask, tookPacket_fuses]; exact hg) _)
  · subst hu
    rw [exec_runs (op := 0x7C) (c := .diagInject) rfl rfl hs ha hm
      (diagInjectWhole_arms (t := packetTask 0x7C n p s) (by rw [pf_packetTask, tookPacket_fuses]; exact hg) _)]
    simp only [startDiagInject, pf_packetTask, packetTask_id]
    rfl
  · obtain ⟨runs, hid⟩ := exec_starts (c := .repairCtl) (start := startRepair) rfl (fun t s ho he => by rw [startOp, ho, he]; rfl) hs h
    rw [runs, startRepair_blows hp hr hn, hid]
  · obtain ⟨runs, hid⟩ := exec_starts (c := .repairCtl) (start := startRepair) rfl (fun t s ho he => by rw [startOp, ho, he]; rfl) hs h
    rw [runs, startRepair_now hp hl, hid]
  · obtain ⟨runs, hid⟩ := exec_starts (c := .repairCtl) (start := startRepair) rfl (fun t s ho he => by rw [startOp, ho, he]; rfl) hs h
    rw [runs, startRepair_later hp hl, hid]
  · obtain ⟨runs, hid⟩ := exec_starts (c := .selftest) (start := startSelftest) rfl (fun t s ho he => by rw [startOp, ho, he]; rfl) hs h
    rw [runs, startSelftest, hid]
  · subst hu
    have ring : rcRing (packetTask 0x08 n p s).pkt = rcRing p := pf_packetTask ..
    have runs := ringConfigWhole_creates (t := packetTask 0x08 n p s) (s := tookPacket 0x08 n p s) ((pf_packetTask ..).trans hk) (by rw [ring]; exact hd)
      (by rw [createdRing_packetTask]; exact (Nat.add_le_add_right ((BitVec.toNat_ofNat ..).trans_le (Nat.mod_le ..)) _).trans hsq)
      (by rw [createdRing_packetTask]; exact (Nat.add_le_add_right ((BitVec.toNat_ofNat ..).trans_le (Nat.mod_le ..)) _).trans hcq) (some s.cmd.nextTask)
    rw [createdRing_packetTask, ring] at runs
    exact exec_runs (op := 0x08) (c := .ringConfig) rfl rfl hs ha hm runs
  · subst hu
    have ring : rcRing (packetTask 0x08 n p s).pkt = rcRing p := pf_packetTask ..
    have runs := ringConfigWhole_resets (t := packetTask 0x08 n p s) (s := tookPacket 0x08 n p s) ((pf_packetTask ..).trans hk) (by rw [ring]; exact hd)
      (some s.cmd.nextTask)
    rw [ring] at runs
    exact exec_runs (op := 0x08) (c := .ringConfig) rfl rfl hs ha hm runs
  · obtain ⟨runs, hid⟩ := exec_starts (c := .bermConfig) (start := startBermConfig) rfl (fun t s ho he => by rw [startOp, ho, he]; rfl) hs h
    rw [runs, startBermConfig, if_pos ⟨h1, h2⟩, hid]
  · obtain ⟨runs, hid⟩ := exec_starts (c := .bermConfig) (start := startBermConfig) rfl (fun t s ho he => by rw [startOp, ho, he]; rfl) hs h
    rw [runs, startBermConfig, if_neg (by omega), hid]

end Sys2Proof.Machine
end

section
/-! PROOFS. What the packets of policy, time, memory and the fault collector do where they start (R65, R66, R274, R321, R329, R330,
R342, R345, R348, R364, R382, R419, R442, R452). -/

namespace Sys2Proof.Machine

theorem TurnOnly.time {s t : State} (h : TurnOnly s t) : t.time = s.time := by rw [h]

theorem tookPacket_time (op : Byte) (n : Nat) (p : Packet) (s : State) : (tookPacket op n p s).time = s.time :=
  (tookTask_turnOnly op n _ s).time

theorem DevOnly.regions {s t : State} (h : DevOnly s t) : t.host.regions = s.host.regions := by rw [h]

theorem ringSet_regions (n : Nat) (r : Ring) (s : State) : (ringSet n r s).host.regions = s.host.regions :=
  (ringSet_devOnly n r s).regions

theorem countAccept_host (op : Byte) (s : State) : (countAccept op s).host = s.host := by
  unfold countAccept
  split <;> rfl

theorem noteTurn_host (n : Nat) (s : State) : (noteTurn n s).host = s.host := by
  unfold noteTurn
  split <;> rfl

theorem tookPacket_regions (op : Byte) (n : Nat) (p : Packet) (s : State) : (tookPacket op n p s).host.regions = s.host.regions := by
  have took : (tookPacket op n p s).host = (noteTurn n (countAccept op (ringSet n
    { ringGet s n with sqHead := (ringGet s n).sqHead + 1 } s))).host := rfl
  rw [took, noteTurn_host, countAccept_host, ringSet_regions]

/-- A packet whose checks change nothing starts with the task it was accepted with. -/
theorem starts_packetTask {op n : Nat} {p : Packet} {s u : State} {t : Task} (hs : s.Inv) (h : Starts op n p s u t) (h1 : op ≠ 0x01)
    {c : Task → Act Unit} (hc : packetCheck op = some c) (hk : ∀ {t : Task} {id : Option Nat} {s u : State}, (c t).go id s = (.ok (), u) → u = s) :
    u = tookPacket (BitVec.ofNat 8 op) n p s ∧ t = packetTask (BitVec.ofNat 8 op) n p s := by
  obtain ⟨-, ⟨k, hck, hx⟩, ht, -⟩ := h
  cases hc.symm.trans hck
  have hu : u = atChecks op n p s := hk hx
  have took : atChecks op n p s = tookPacket (BitVec.ofNat 8 op) n p s := if_neg h1
  have own := taskOf_atChecks hs op n p
  rw [← hu, ht] at own
  exact ⟨hu.trans took, Option.some.inj own⟩

theorem noCheck_keeps {t : Task} {id : Option Nat} {s u : State} (h : (noCheck t).go id s = (.ok (), u)) : u = s :=
  (Prod.mk.inj h).2.symm

theorem prefetchCheck_keeps {t : Task} {id : Option Nat} {s u : State} (h : (prefetchCheck t).go id s = (.ok (), u)) : u = s := by
  unfold prefetchCheck at h
  simp only at h
  rw [go_get_bind] at h
  rcases need_reads _ id s with k | ⟨r, k⟩ <;> exact congrArg Prod.snd (h.symm.trans k)

/-! ### Policy and time -/

theorem govPolicyWhole_sets {t : Task} {s : State} (h : bitsNat s.regs.govGain 32 16 < ceilOf (pf t.pkt 12 2)) (id : Option Nat) :
    (govPolicyWhole t).go id s = (.ok (), startGovPolicy t s) := by
  unfold govPolicyWhole govPolicyCheck
  refine go_bind_ok _ ((go_get_bind ..).trans (go_need_passes _ _ ?_))
  rw [bad, decide_eq_false (Nat.not_le.mpr h)]
  rfl

theorem timeCtl_steps {t : Task} {s : State} (hk : pf t.pkt 8 1 = 1) (hp : s.time.parent = none) (id : Option Nat) :
    (timeCtl t).go id s = (.ok (), finishOk t.id 0 (stepTime (BitVec.ofNat 96 (pf t.pkt 16 8 * 2 ^ 32)) s)) := by
  unfold timeCtl
  simp only [hk]
  rw [go_get_bind]
  exact go_need_bind _ _ _ (by rw [hp]; rfl)

theorem timeCtl_trims {t : Task} {s : State} (hk : pf t.pkt 8 1 = 2) (hp : s.time.parent = none) (id : Option Nat) :
    (timeCtl t).go id s = (.ok (), finishOk t.id 0 { s with time := { s.time with trim := BitVec.ofNat 24 (pf t.pkt 16 8) } }) := by
  unfold timeCtl
  simp only [hk]
  rw [go_get_bind]
  exact go_need_bind _ _ _ (by rw [hp]; rfl)

theorem timeCtl_follower {t : Task} {s : State} (hk : pf t.pkt 8 1 = 1 ∨ pf t.pkt 8 1 = 2) (hp : s.time.parent ≠ none) (id : Option Nat) :
    (timeCtl t).go id s = (.error (.fail (rBadParam 6 8)), s) := by
  have follows : s.time.parent.isSome = true := Option.isSome_iff_ne_none.mpr hp
  have fails : firstFail [bad s.time.parent.isSome 6 8] = some (rBadParam 6 8) := by rw [follows]; rfl
  unfold timeCtl
  rcases hk with hk | hk
  · simp only [hk]
    rw [go_get_bind]
    exact go_bind_error _ (go_need_fails _ _ fails)
  · simp only [hk]
    rw [go_get_bind]
    exact go_bind_error _ (go_need_fails _ _ fails)

theorem timeCtl_priority {t : Task} {s : State} (hk : pf t.pkt 8 1 = 3) (id : Option Nat) :
    (timeCtl t).go id s = (.ok (), finishOk t.id 0 (setFtimeCtl (setBits s.regs.ftimeCtl 0 8 (pf t.pkt 16 8)) s)) := by
  unfold timeCtl
  simp only [hk]
  rw [go_get_bind]
  rfl

theorem timeCtl_pulse {t : Task} {s : State} (hk : pf t.pkt 8 1 = 4) (id : Option Nat) :
    (timeCtl t).go id s = (.ok (), finishOk t.id 0 (setFtimeCtl (setBits s.regs.ftimeCtl 16 1 (pf t.pkt 16 8)) s)) := by
  unfold timeCtl
  simp only [hk]
  rw [go_get_bind]
  rfl

/-! ### The berm -/

theorem flushHits_all {p : Packet} {x : Sector} (hs : pf p 12 1 = 0) (ht : pTid p = 0xFFFFFF) : flushHits p x = true := by
  simp only [flushHits, hs, ht, beq_self_eq_true, Bool.true_or, Bool.and_self]

theorem bermFlush_all {t : Task} {s : State} (hf : s.hold.fetches = []) (ht : s.berm.test = none)
    (hx : ∀ e ∈ s.berm.sets, ∀ x ∈ e.2, x.spec = false) (hk : pf t.pkt 12 1 = 0) (hid : pTid t.pkt = 0xFFFFFF) :
    startBermFlush t s = finishOk t.id ((s.berm.sets.map (fun e => e.2.length)).sum) { s with berm := { s.berm with sets := [] } } := by
  have hits : ∀ x, flushHits t.pkt x = true := fun x => flushHits_all hk hid
  have counted : s.berm.sets.map (fun e => (e.2.filter (flushHits t.pkt)).length) = s.berm.sets.map (fun e => e.2.length) := by
    simp [hits]
  have unused : (s.berm.sets.map (fun e => (e.2.filter (fun x => flushHits t.pkt x && x.spec)).length)).sum = 0 := by
    refine List.sum_eq_zero fun k hmem => ?_
    obtain ⟨e, he, rfl⟩ := List.mem_map.mp hmem
    rw [List.length_eq_zero_iff, List.filter_eq_nil_iff]
    exact fun x hmem => by simp [hx e he x hmem]
  have gone : (s.berm.sets.map (fun e => (e.1, e.2.filter (fun x => !flushHits t.pkt x)))).filter (fun e => !e.2.isEmpty) = [] := by
    simp [hits, List.filter_eq_nil_iff]
  have fetched : fetchDrop (fun f g => (findSector s f.tid (f.ver.toNat % 4) g).any (flushHits t.pkt)) s = s := by
    rw [fetchDrop, hf, List.map_nil]
    exact congrArg (fun x => { s with hold := { s.hold with fetches := x } }) hf.symm
  have drops : ∀ w, bermForget w (flushHits t.pkt) s = { s with berm := { s.berm with sets := [] } } := by
    intro w
    simp only [bermForget, bermDrop, unused, gone, if_true]
    exact congrArg (fun x => { s with berm := { s.berm with sets := [], test := x } }) ((congrArg (Option.map _) ht).trans ht.symm)
  unfold startBermFlush
  simp only [counted]
  rw [fetched, drops]

/-! ### Translations -/

theorem prefetchIssue_translated {id fuel : Nat} {r : PrefetchRun} {s : State} (hf : r.stop - r.next ≤ 65536 * fuel) (hr : r.stop ≤ r.next + 65536)
    (ht : (tlbFind s r.next).isSome = true) : ∃ next, prefetchIssue id fuel r s = ({ r with next := next }, s) ∧ r.stop ≤ next := by
  by_cases done : r.stop ≤ r.next
  · refine ⟨r.next, ?_, done⟩
    cases fuel with
    | zero => rfl
    | succ k => rw [prefetchIssue, if_pos done]
  · cases fuel with
    | zero => omega
    | succ k =>
      refine ⟨r.next + 65536, ?_, hr⟩
      rw [prefetchIssue, if_neg done, if_pos ht]
      cases k with
      | zero => rfl
      | succ j => rw [prefetchIssue, if_pos hr]

theorem prefetchGo_translated {id : Nat} {s : State} {t : Task} {r : PrefetchRun} (ht : taskOf s id = some t) (hr : prefetchRunOf t = some r)
    (hlen : r.stop ≤ r.next + 65536) (hx : (tlbFind s r.next).isSome = true) (hw : ∀ x ∈ s.xl.walks, x.task ≠ some id) :
    prefetchGo id s = finishOk id r.count s := by
  obtain ⟨next, issued, done⟩ := prefetchIssue_translated (id := id) (fuel := (r.stop - r.next) / 65536 + 1) (by omega) hlen hx
  have none_walks : s.xl.walks.any (fun w => w.task == some id) = false := by
    simp only [List.any_eq_false, beq_iff_eq]
    exact hw
  unfold prefetchGo
  simp only [ht, Option.bind_some, hr, issued, none_walks, decide_eq_true done, Bool.not_false, Bool.and_self, if_true]

/-- A task not done that takes up a work item is found at it. -/
theorem taskOf_setWork {id : Nat} {s : State} {t : Task} (w : Work) (ht : taskOf s id = some t) (hd : t.isDone = false) :
    taskOf (setWork id w s) id = some { t with phase := .running w } := by
  refine (taskOf_mapTask id s fun x => ?_).trans ?_
  · split <;> rfl
  · rw [ht, Option.map_some, if_neg (by simp [hd])]

theorem startPrefetch_translated {s : State} {t : Task} (ht : taskOf s t.id = some t) (hd : t.isDone = false) (hl : pf t.pkt 16 8 ≤ 65536)
    (hx : (tlbFind s (pf t.pkt 8 8)).isSome = true) (hw : ∀ x ∈ s.xl.walks, x.task ≠ some t.id) :
    startPrefetch t s = finishOk t.id 0 (setWork t.id (.prefetch ⟨pf t.pkt 8 8, pf t.pkt 8 8 + pf t.pkt 16 8,
      if pf t.pkt 24 2 = 0xFFFF then none else some (pf t.pkt 24 2), 0⟩) s) :=
  prefetchGo_translated (s := setWork t.id _ s) (r := ⟨pf t.pkt 8 8, _, _, 0⟩) (taskOf_setWork _ ht hd) rfl (Nat.add_le_add_left hl _) hx hw

theorem takeBack_nothing {start len : Nat} {s : State} (h : s.host.dir = []) : takeBack start len s = ([], s) := by
  simp only [takeBack, backInvalidateWhere, h]
  rfl

/-- A PT_INVALIDATE of this engine alone that waits for no line. -/
theorem invalidateGo_alone {id : Nat} {s : State} {t : Task} {start len : Nat} (ht : taskOf s id = some t)
    (hr : dropRunOf t = some ⟨start, len, false, [], false, [], 0, none⟩) :
    invalidateGo id s = finishOk id (tlbDrop start len (bumpGen s)).1 (tlbDrop start len (bumpGen s)).2 := by
  simp only [invalidateGo, ht, hr]
  rfl

theorem startInvalidate_alone {s : State} {t : Task} (ht : taskOf s t.id = some t) (hd : t.isDone = false) (hh : s.host.dir = [])
    (hw : pf t.pkt 24 1 = 0) : startInvalidate t s =
      let v := tlbDrop (pf t.pkt 8 8) (pf t.pkt 16 8)
        (bumpGen (setWork t.id (.invalidate ⟨pf t.pkt 8 8, pf t.pkt 16 8, false, [], false, [], 0, none⟩) s))
      finishOk t.id v.1 v.2 := by
  simp only [startInvalidate, takeBack_nothing hh, hw]
  exact invalidateGo_alone (start := pf t.pkt 8 8) (len := pf t.pkt 16 8) (taskOf_setWork _ ht hd) rfl

/-! ### Fault batches -/

theorem resolveCheck_noCollector {t : Task} {s : State} (h : collectorSlot s = none) (id : Option Nat) :
    (resolveCheck t).go id s = (.error (.fail (rBadParam 5 8)), s) := by
  unfold resolveCheck
  rw [go_get_bind]
  simp only [h]
  rfl

theorem resolveCheck_unknown {t : Task} {s : State} (h : collectorSlot s = some (ownSlot s)) (hb : ∀ x ∈ s.xl.written, x.1 ≠ pf t.pkt 8 3) (id : Option Nat) :
    (resolveCheck t).go id s = (.error (.fail (rBadParam 5 8)), s) := by
  have unknown : s.xl.written.find? (fun w => w.1 == pf t.pkt 8 3) = none := by
    simp only [List.find?_eq_none, beq_iff_eq]
    exact hb
  unfold resolveCheck
  rw [go_get_bind]
  simp only [h, if_true]
  refine go_bind_error _ ?_
  unfold resolveTake
  simp only
  rw [go_get_bind]
  simp only [unknown]
  rfl

/-! ### Regions and the module's pages -/

theorem regionWhole_clears {t : Task} {s : State} (hk : pf t.pkt 10 1 = 1) (h : (smapGet s.host.regions (pf t.pkt 8 2)).isSome = true) (id : Option Nat) :
    (regionWhole t).go id s = (.ok (), finishOk t.id 0 { s with host := { s.host with regions := smapDel s.host.regions (pf t.pkt 8 2) } }) := by
  unfold regionWhole
  simp only [hk, if_true]
  rw [go_get_bind]
  refine go_need_bind _ _ _ ?_
  rw [Option.isNone_eq_false_iff.mpr h]
  rfl

theorem regionWhole_unset {t : Task} {s : State} (hk : pf t.pkt 10 1 = 1) (h : smapGet s.host.regions (pf t.pkt 8 2) = none) (id : Option Nat) :
    (regionWhole t).go id s = (.error (.fail (rBadParam 6 8)), s) := by
  unfold regionWhole
  simp only [hk, if_true]
  rw [go_get_bind]
  refine go_bind_error _ (go_need_fails _ _ ?_)
  rw [h]
  rfl

theorem startMemMigrate_lost {t : Task} {s v : State} {a : List Nat} {e : Nat}
    (h : sendDrops t.id t.pkt.tag.toNat (pf t.pkt 8 8) 65536 1 (moduleRest s) (bumpGen s) = (a, some e, v)) :
    startMemMigrate t s = finishTask t.id (rPeerLost e) v := by
  simp only [startMemMigrate, h]

theorem startMemMigrate_moves {t : Task} {s v : State} {a : List Nat}
    (h : sendDrops t.id t.pkt.tag.toNat (pf t.pkt 8 8) 65536 1 (moduleRest s) (bumpGen s) = (a, none, v)) :
    startMemMigrate t s = moveStep t.id (setWork t.id (.memMigrate ⟨pf t.pkt 8 8, pf t.pkt 8 8 + pf t.pkt 16 8, none, [], [], 0⟩) v) := by
  simp only [startMemMigrate, h]

theorem startQuery_writes {t : Task} {s v : State} (hb : queryBlock t.ring t.pkt s ≠ [])
    (h : (writeVa (pf t.pkt 16 8) (queryBlock t.ring t.pkt s)).go (some t.id) s = (.ok (), v)) :
    startQuery t s = finishOk t.id (queryBlock t.ring t.pkt s).length v := by
  have full : (queryBlock t.ring t.pkt s).isEmpty = false := by simpa using hb
  unfold startQuery runTask
  rw [go_get_bind]
  simp only [full, Bool.false_eq_true, if_false]
  rw [go_bind_ok _ h]
  rfl

/-! ### The statement -/

/-- Settles O6. -/
theorem policyPacketsAct : Obligations.PolicyPacketsAct := by
  intro s u v n id k p t hs hid
  subst hid
  refine ⟨fun ha hu hm hg => ?_, fun ha hu hm => ⟨fun hk hp => ?_, fun hk hp => ?_, fun hk hp => ?_, fun hk => ?_, fun hk => ?_⟩, fun h => ?_,
    fun h hf ht hx hk htid => ?_, fun h => ?_, fun ha hu hm hk => ⟨fun hl => ?_, fun hl => ?_⟩, fun h hd hw hv => ?_, fun ha hc => ?_,
    fun ha hu hc hb => ?_, fun h hl hx hw => ?_, fun a e h hd => ?_, fun a h hd => ?_, fun b h hb hne hx => ?_⟩
  · subst hu
    rw [exec_runs (op := 0x70) (c := .govPolicy) rfl rfl hs ha hm
      (govPolicyWhole_sets (t := packetTask 0x70 n p s) (s := tookPacket 0x70 n p s) (by rw [pf_packetTask]; exact hg) _)]
    simp only [startGovPolicy, pf_packetTask, packetTask_id]
  · subst hu
    have run := timeCtl_steps (t := packetTask 0x71 n p s) (s := tookPacket 0x71 n p s) ((pf_packetTask ..).trans hk) (by rw [tookPacket_time]; exact hp) (some s.cmd.nextTask)
    rw [pf_packetTask] at run
    exact exec_runs (op := 0x71) (c := .timeCtl) rfl rfl hs ha hm run
  · subst hu
    have run := timeCtl_trims (t := packetTask 0x71 n p s) (s := tookPacket 0x71 n p s) ((pf_packetTask ..).trans hk) (by rw [tookPacket_time]; exact hp) (some s.cmd.nextTask)
    rw [pf_packetTask] at run
    exact exec_runs (op := 0x71) (c := .timeCtl) rfl rfl hs ha hm run
  · subst hu
    exact exec_fails (op := 0x71) (c := .timeCtl) rfl (.inr rfl) hs ha
      (timeCtl_follower (t := packetTask 0x71 n p s) (s := tookPacket 0x71 n p s) (by rw [pf_packetTask]; exact hk) (by rw [tookPacket_time]; exact hp) _)
  · subst hu
    have run := timeCtl_priority (t := packetTask 0x71 n p s) (s := tookPacket 0x71 n p s) ((pf_packetTask ..).trans hk) (some s.cmd.nextTask)
    rw [pf_packetTask] at run
    exact exec_runs (op := 0x71) (c := .timeCtl) rfl rfl hs ha hm run
  · subst hu
    have run := timeCtl_pulse (t := packetTask 0x71 n p s) (s := tookPacket 0x71 n p s) ((pf_packetTask ..).trans hk) (some s.cmd.nextTask)
    rw [pf_packetTask] at run
    exact exec_runs (op := 0x71) (c := .timeCtl) rfl rfl hs ha hm run
  · obtain ⟨runs, hid⟩ := exec_starts (c := .gaugeRead) (start := startGaugeRead) rfl (fun t s ho he => by rw [startOp, ho, he]; rfl) hs h
    rw [runs, startGaugeRead, hid]
    rfl
  · obtain ⟨runs, hid⟩ := exec_starts (c := .bermFlush) (start := startBermFlush) rfl (fun t s ho he => by rw [startOp, ho, he]; rfl) hs h
    rw [runs, bermFlush_all hf ht hx hk htid, hid]
  · obtain ⟨runs, hid⟩ := exec_starts (c := .memAdvise) (start := startAdvise) rfl (fun t s ho he => by rw [startOp, ho, he]; rfl) hs h
    rw [runs, startAdvise, hid]
  · subst hu
    have run := regionWhole_clears (t := packetTask 0x55 n p s) (s := tookPacket 0x55 n p s) ((pf_packetTask ..).trans hk)
      (by rw [pf_packetTask, tookPacket_regions]; exact hl) (some s.cmd.nextTask)
    rw [pf_packetTask] at run
    exact exec_runs (op := 0x55) (c := .placementRegionSet) rfl rfl hs ha hm run
  · subst hu
    exact exec_fails (op := 0x55) (c := .placementRegionSet) rfl (.inr rfl) hs ha
      (regionWhole_unset (t := packetTask 0x55 n p s) (s := tookPacket 0x55 n p s) ((pf_packetTask ..).trans hk) (by rw [pf_packetTask, tookPacket_regions]; exact hl) _)
  · obtain ⟨runs, hid⟩ := exec_starts (c := .ptInvalidate) (start := startInvalidate) rfl (fun t s ho he => by rw [startOp, ho, he]; rfl) hs h
    obtain ⟨-, ht⟩ := starts_packetTask hs h (by decide) (c := noCheck) rfl noCheck_keeps
    rw [runs, startInvalidate_alone (by rw [hid]; exact h.2.2.1) (by rw [ht]; rfl) hd hw, hid]
    simp only [hv]
  · exact exec_fails (op := 0x53) (c := .faultResolve) rfl (.inl rfl) hs ha (resolveCheck_noCollector (s := tookPacket 0x53 n p s) hc _)
  · subst hu
    exact exec_fails (op := 0x53) (c := .faultResolve) rfl (.inl rfl) hs ha
      (resolveCheck_unknown (t := packetTask 0x53 n p s) (s := tookPacket 0x53 n p s) hc (by rw [pf_packetTask, tookPacket_xl]; exact hb) _)
  · obtain ⟨runs, hid⟩ := exec_starts (c := .xlatePrefetch) (start := startPrefetch) rfl (fun t s ho he => by rw [startOp, ho, he]; rfl) hs h
    obtain ⟨-, ht⟩ := starts_packetTask hs h (by decide) (c := prefetchCheck) rfl prefetchCheck_keeps
    rw [runs, startPrefetch_translated (by rw [hid]; exact h.2.2.1) (by rw [ht]; rfl) hl hx (by rw [hid]; exact hw), hid]
  · obtain ⟨runs, hid⟩ := exec_starts (c := .memMigrate) (start := startMemMigrate) rfl (fun t s ho he => by rw [startOp, ho, he]; rfl) hs h
    rw [runs, startMemMigrate_lost (by rw [hid]; exact hd), hid]
  · obtain ⟨runs, hid⟩ := exec_starts (c := .memMigrate) (start := startMemMigrate) rfl (fun t s ho he => by rw [startOp, ho, he]; rfl) hs h
    rw [runs, startMemMigrate_moves (by rw [hid]; exact hd), hid]
  · obtain ⟨runs, hid⟩ := exec_starts (c := .query) (start := startQuery) rfl (fun t s ho he => by rw [startOp, ho, he]; rfl) hs h
    subst hb
    rw [runs, startQuery_writes hne (by rw [hid]; exact hx), hid]

end Sys2Proof.Machine
end

section
/-! PROOFS. Rows of a table lie apart (R75, R78, R97). -/

namespace Sys2Proof.Machine

theorem le_roundUp {a b : Nat} (hb : 0 < b) : a ≤ roundUp a b := by
  have h := Nat.div_add_mod (a + b - 1) b
  have m := Nat.mod_lt (a + b - 1) hb
  simp only [roundUp, ceilDiv, Nat.mul_comm _ b]
  omega

theorem roundUp_lt {a b : Nat} (hb : 0 < b) : roundUp a b < a + b := by
  have h := Nat.div_add_mod (a + b - 1) b
  simp only [roundUp, ceilDiv, Nat.mul_comm _ b]
  omega

/-- The strides of a working copy, by its size. -/
theorem wcStride_cases (f w : Nat) :
    (wcSize f w ≤ 16 ∧ wcStride f w = 16) ∨ (16 < wcSize f w ∧ wcSize f w ≤ 32 ∧ wcStride f w = 32) ∨
    (32 < wcSize f w ∧ wcSize f w ≤ 64 ∧ wcStride f w = 64) ∨ (64 < wcSize f w ∧ wcSize f w ≤ 128 ∧ wcStride f w = 128) ∨
    (128 < wcSize f w ∧ wcSize f w ≤ 256 ∧ wcStride f w = 256) ∨ (256 < wcSize f w ∧ wcStride f w = roundUp (wcSize f w) 256) := by
  unfold wcStride
  simp only
  split
  · exact .inl ⟨‹_›, rfl⟩
  split
  · exact .inr (.inl ⟨by omega, ‹_›, rfl⟩)
  split
  · exact .inr (.inr (.inl ⟨by omega, ‹_›, rfl⟩))
  split
  · exact .inr (.inr (.inr (.inl ⟨by omega, ‹_›, rfl⟩)))
  · rcases Nat.lt_or_ge 256 (wcSize f w) with h | h
    · exact .inr (.inr (.inr (.inr (.inr ⟨h, rfl⟩))))
    · refine .inr (.inr (.inr (.inr (.inl ⟨by omega, h, ?_⟩))))
      simp only [roundUp, ceilDiv]
      omega

theorem wcSizeB_le (t : Table) : t.wcSizeB ≤ t.wcStrideB := by
  unfold Table.wcSizeB Table.wcStrideB
  rcases wcStride_cases t.wcFmt t.width with h | h | h | h | h | ⟨-, h⟩
  · omega
  · omega
  · omega
  · omega
  · omega
  · rw [h]
    exact le_roundUp (by decide)

/-- A row's place in its slot's regions tells slot, local block and offset apart. -/
theorem rowIndex_inj {t : Table} {v v' lb lb' off off' : Nat} (hl : lb < t.localBlocks) (hl' : lb' < t.localBlocks) (ho : off < 2 ^ t.sb)
    (ho' : off' < 2 ^ t.sb) (h : t.rowIndex v lb off = t.rowIndex v' lb' off') : (v % 4, lb, off) = (v' % 4, lb', off') := by
  have split : ∀ a b c, t.rowIndex a b c = (a % 4 * t.localBlocks + b) * 2 ^ t.sb + c := fun a b c => by
    simp only [Table.rowIndex, Nat.add_mul]
  have pos : 0 < 2 ^ t.sb := Nat.two_pow_pos _
  have unique : ∀ {a b x y N : Nat}, x < N → y < N → a * N + x = b * N + y → a = b ∧ x = y := fun {a b x y N} hx hy e => by
    have hN : 0 < N := by omega
    have hd := congrArg (· / N) e
    have hm := congrArg (· % N) e
    simp only [Nat.mul_comm _ N, Nat.mul_add_div hN, Nat.mul_add_mod, Nat.div_eq_of_lt hx, Nat.div_eq_of_lt hy, Nat.mod_eq_of_lt hx,
      Nat.mod_eq_of_lt hy, Nat.add_zero] at hd hm
    exact ⟨hd, hm⟩
  rw [split, split] at h
  obtain ⟨blocks, hoff⟩ := unique ho ho' h
  obtain ⟨hslot, hblock⟩ := unique hl hl' blocks
  rw [hslot, hblock, hoff]

/-- Two places of one stride share no byte of what fits it. -/
theorem strided_apart {base size stride i j : Nat} (hs : size ≤ stride) (h : i ≠ j) :
    base + i * stride + size ≤ base + j * stride ∨ base + j * stride + size ≤ base + i * stride := by
  rcases Nat.lt_or_gt_of_ne h with h | h
  · have far := Nat.mul_le_mul_right stride (Nat.succ_le_of_lt h)
    rw [Nat.succ_mul] at far
    omega
  · have far := Nat.mul_le_mul_right stride (Nat.succ_le_of_lt h)
    rw [Nat.succ_mul] at far
    omega

theorem recSize_le {t : Table} (h : t.wcOnly = false) : recSize t.stateA t.stateB t.width ≤ t.recStrideB := by
  rw [Table.recStrideB, if_neg (by simp [h])]
  exact le_roundUp (by decide)

/-- A working copy whose stride divides 256 crosses no 256 B boundary. -/
theorem wcAddr_inside {t : Table} (v lb off : Nat) (hb : t.wcBase % 65536 = 0) (hz : 0 < t.wcSizeB) (hs : t.wcSizeB ≤ 256) :
    (t.wcAddr v lb off + t.wcSizeB - 1) / 256 = t.wcAddr v lb off / 256 := by
  unfold Table.wcAddr
  generalize t.rowIndex v lb off = i
  unfold Table.wcSizeB at *
  unfold Table.wcStrideB
  rcases wcStride_cases t.wcFmt t.width with ⟨h, e⟩ | ⟨-, h, e⟩ | ⟨-, h, e⟩ | ⟨-, h, e⟩ | ⟨-, h, e⟩ | ⟨h, -⟩
  · rw [e]; omega
  · rw [e]; omega
  · rw [e]; omega
  · rw [e]; omega
  · rw [e]; omega
  · omega

/-- Settles O60. -/
theorem rowsLieApart : Obligations.RowsLieApart := by
  intro t v v' lb lb' off off' hl hl' ho ho'
  refine ⟨wcSizeB_le t, fun hs => ?_, fun hs => ?_, wcAddr_inside v lb off, fun hne => ?_⟩
  · unfold Table.wcSizeB at hs ⊢
    unfold Table.wcStrideB
    rcases wcStride_cases t.wcFmt t.width with ⟨h, e⟩ | ⟨g, h, e⟩ | ⟨g, h, e⟩ | ⟨g, h, e⟩ | ⟨g, h, e⟩ | ⟨h, -⟩
    · rw [e]; simp
    · rw [e]; simp; omega
    · rw [e]; simp; omega
    · rw [e]; simp; omega
    · rw [e]; simp; omega
    · omega
  · have far : t.wcStrideB = roundUp t.wcSizeB 256 := by
      unfold Table.wcSizeB at *
      unfold Table.wcStrideB
      rcases wcStride_cases t.wcFmt t.width with h | h | h | h | h | ⟨-, h⟩
      · omega
      · omega
      · omega
      · omega
      · omega
      · exact h
    rw [far]
    exact ⟨Nat.mul_mod_left _ _, roundUp_lt (by decide)⟩
  · have apart : t.rowIndex v lb off ≠ t.rowIndex v' lb' off' := fun h => hne (rowIndex_inj hl hl' ho ho' h)
    exact ⟨strided_apart (wcSizeB_le t) apart, fun hw => strided_apart (recSize_le hw) apart⟩

end Sys2Proof.Machine
end

section
/-! PROOFS. Number formats hold what they decode to (R81 to R83). -/

namespace Sys2Proof.Machine

/-! ### Exact rounding -/

theorem divRne_exact (q : Nat) {b : Nat} (hb : 0 < b) : divRne (q * b) b = q := by
  simp only [divRne, Nat.mul_mod_left, Nat.mul_div_cancel _ hb]
  rw [if_pos (by omega)]

theorem log2_mul_two_pow {a : Nat} (ha : a ≠ 0) (p : Nat) : (a * 2 ^ p).log2 = a.log2 + p := by
  rw [Nat.log2_eq_iff (Nat.mul_ne_zero ha (Nat.two_pow_pos p).ne')]
  have low := Nat.mul_le_mul_right (2 ^ p) (Nat.log2_self_le ha)
  have high := Nat.mul_lt_mul_of_pos_right (Nat.lt_log2_self (n := a)) (Nat.two_pow_pos p)
  rw [← pow_add] at low high
  exact ⟨low, by rw [Nat.add_right_comm]; exact high⟩

theorem log2Floor_two_pow {a : Nat} (ha : a ≠ 0) (j : Nat) : log2Floor a (2 ^ j) = (a.log2 : Int) - j := by
  have self : (2 ^ j).log2 = j := Nat.log2_two_pow
  have low := Nat.log2_self_le ha
  unfold log2Floor
  simp only [self]
  split
  · rw [if_pos]
    rw [← pow_add, show j + ((a.log2 : Int) - j).toNat = a.log2 by omega]
    exact low
  · rw [if_pos]
    calc 2 ^ j = 2 ^ a.log2 * 2 ^ (-((a.log2 : Int) - j)).toNat := by rw [← pow_add]; congr 1; omega
      _ ≤ _ := Nat.mul_le_mul_right _ low

/-- The significand of a code: with its leading one, but for exponent code 0. -/
def significand (mb e m : Nat) : Nat := if e = 0 then m else 2 ^ mb + m

/-- A value that a code holds has that code. -/
theorem roundCode_exact {mb bias e m a j p q : Nat} (hm : m < 2 ^ mb) (h : a * 2 ^ p = significand mb e m * 2 ^ q)
    (hq : (q : Int) - p = j + max e 1 - bias - mb) : roundCode divRne mb bias a (2 ^ j) = e * 2 ^ mb + m := by
  have pos : ∀ n, 0 < 2 ^ n := Nat.two_pow_pos
  by_cases ha : a = 0
  · have none_left : significand mb e m = 0 := by
      have := pos q
      subst ha
      rw [Nat.zero_mul] at h
      exact (Nat.mul_eq_zero.mp h.symm).resolve_right (by omega)
    have he : e = 0 ∧ m = 0 := by
      unfold significand at none_left
      have := pos mb
      split at none_left <;> omega
    rw [roundCode, if_pos ha, he.1, he.2, Nat.zero_mul]
  have hsig : significand mb e m ≠ 0 := by
    intro h0
    rw [h0, Nat.zero_mul] at h
    exact ha ((Nat.mul_eq_zero.mp h).resolve_right (pos p).ne')
  have logs : (a.log2 : Int) + p = (significand mb e m).log2 + q := by
    have := congrArg Nat.log2 h
    rw [log2_mul_two_pow ha, log2_mul_two_pow hsig] at this
    omega
  have exponent : max (log2Floor a (2 ^ j)) (1 - bias) = (max e 1 : Nat) - (bias : Int) := by
    rw [log2Floor_two_pow ha]
    by_cases he : e = 0
    · have small : (significand mb e m).log2 < mb := by
        rw [Nat.log2_lt hsig, significand, if_pos he]
        exact hm
      omega
    · have full : (significand mb e m).log2 = mb := by
        rw [Nat.log2_eq_iff hsig, significand, if_neg he, pow_succ]
        omega
      omega
  have quotient : (if (0 : Int) ≤ mb - ((max e 1 : Nat) - (bias : Int)) then divRne (a * 2 ^ ((mb : Int) - ((max e 1 : Nat) - (bias : Int))).toNat) (2 ^ j)
      else divRne a (2 ^ j * 2 ^ (-((mb : Int) - ((max e 1 : Nat) - (bias : Int)))).toNat)) = significand mb e m := by
    split
    · have scaled : a * 2 ^ ((mb : Int) - ((max e 1 : Nat) - (bias : Int))).toNat = significand mb e m * 2 ^ j := by
        refine Nat.eq_of_mul_eq_mul_right (pos q) ?_
        calc _ = a * 2 ^ p * 2 ^ j := by rw [Nat.mul_assoc, ← pow_add, Nat.mul_assoc, ← pow_add]; congr 2; omega
          _ = _ := by rw [h, Nat.mul_right_comm]
      rw [scaled, divRne_exact _ (pos j)]
    · have scaled : a = significand mb e m * (2 ^ j * 2 ^ (-((mb : Int) - ((max e 1 : Nat) - (bias : Int)))).toNat) := by
        refine Nat.eq_of_mul_eq_mul_right (pos p) ?_
        rw [h, Nat.mul_assoc, ← pow_add, ← pow_add]
        congr 2
        omega
      conv_lhs => rw [scaled]
      exact divRne_exact _ (Nat.mul_pos (pos _) (pos _))
  unfold roundCode
  simp only [if_neg ha, exponent]
  rw [quotient, show ((max e 1 : Nat) - (bias : Int) - (1 - bias)).toNat = max e 1 - 1 by omega, significand]
  split
  · rename_i he
    simp [he]
  · rename_i he
    obtain ⟨k, rfl⟩ := Nat.exists_eq_succ_of_ne_zero he
    rw [show max k.succ 1 - 1 = k by omega, Nat.succ_mul, Nat.add_assoc]

/-! ### FP32 values -/

/-- The FP32 value of a sign, an exponent code and a mantissa. -/
def f32Of (neg : Bool) (e m : Nat) : F32 := BitVec.ofNat 32 (if neg then e * 2 ^ 23 + m + 2 ^ 31 else e * 2 ^ 23 + m)

section
variable {neg : Bool} {e m : Nat} (he : e < 256) (hm : m < 2 ^ 23)
include hm

theorem f32Man_f32Of : f32Man (f32Of neg e m) = m := by
  rw [f32Man, bitsNat, f32Of, BitVec.toNat_ofNat]
  cases neg
  · rw [if_neg (by decide)]
    omega
  · rw [if_pos rfl]
    omega

include he

theorem f32Sign_f32Of : f32Sign (f32Of neg e m) = neg := by
  rw [f32Sign, BitVec.getLsbD, f32Of, BitVec.toNat_ofNat, Nat.testBit_eq_decide_div_mod_eq]
  cases neg
  · rw [if_neg (by decide)]
    exact decide_eq_false (by omega)
  · rw [if_pos rfl]
    exact decide_eq_true (by omega)

theorem f32Exp_f32Of : f32Exp (f32Of neg e m) = e := by
  rw [f32Exp, bitsNat, f32Of, BitVec.toNat_ofNat]
  cases neg
  · rw [if_neg (by decide)]
    omega
  · rw [if_pos rfl]
    omega

theorem f32Mag_f32Of : f32Mag (f32Of neg e m) = significand 23 e m * 2 ^ (max e 1 - 1) := by
  rw [f32Mag, f32Exp_f32Of he hm, f32Man_f32Of hm, significand]
  split
  · rename_i h0
    simp [h0]
  · rw [Nat.max_eq_left (by omega)]

end

/-- An exponent code and mantissa of FP32 for a multiple of 2^−149 of few enough digits. -/
theorem f32_code {n t : Nat} (hn : n < 2 ^ 24) (ht : n ≠ 0 → n.log2 + t ≤ 276) :
    ∃ e m, e < 255 ∧ m < 2 ^ 23 ∧ significand 23 e m * 2 ^ (max e 1 - 1) = n * 2 ^ t := by
  by_cases small : n * 2 ^ t < 2 ^ 23
  · exact ⟨0, n * 2 ^ t, by decide, small, by simp [significand]⟩
  · have h0 : n ≠ 0 := by
      rintro rfl
      simp at small
    have hl := log2_mul_two_pow h0 t
    have low : 2 ^ 23 ≤ n * 2 ^ t := Nat.le_of_not_lt small
    have digits : n.log2 < 24 := (Nat.log2_lt h0).mpr hn
    have hN : n * 2 ^ t ≠ 0 := Nat.mul_ne_zero h0 (Nat.two_pow_pos t).ne'
    have large : 23 ≤ (n * 2 ^ t).log2 := (Nat.le_log2 hN).mpr low
    generalize hL : (n * 2 ^ t).log2 = l at hl large
    have whole : n * 2 ^ t / 2 ^ (l - 23) * 2 ^ (l - 23) = n * 2 ^ t :=
      Nat.div_mul_cancel (Dvd.dvd.mul_left (pow_dvd_pow 2 (by omega)) n)
    have pos := Nat.two_pow_pos (l - 23)
    have above : 2 ^ 23 ≤ n * 2 ^ t / 2 ^ (l - 23) := by
      rw [Nat.le_div_iff_mul_le pos, ← pow_add, show 23 + (l - 23) = l by omega, ← hL]
      exact Nat.log2_self_le hN
    have below : n * 2 ^ t / 2 ^ (l - 23) < 2 ^ 24 := by
      rw [Nat.div_lt_iff_lt_mul pos, ← pow_add, show 24 + (l - 23) = l + 1 by omega, ← hL]
      exact Nat.lt_log2_self
    have bound := ht h0
    refine ⟨l - 22, n * 2 ^ t / 2 ^ (l - 23) - 2 ^ 23, by omega, by omega, ?_⟩
    rw [significand, if_neg (by omega), show max (l - 22) 1 - 1 = l - 23 by omega, Nat.add_sub_cancel' above, whole]

/-- A value of FP32's range and digits is held exactly. -/
theorem f32Scaled_exact (neg : Bool) {n : Nat} {k : Int} (hn : n < 2 ^ 24) (hk : -149 ≤ k) (ht : n ≠ 0 → n.log2 + k ≤ 127) :
    ∃ e m, e < 255 ∧ m < 2 ^ 23 ∧ f32Scaled neg n k = f32Of neg e m ∧ f32Mag (f32Of neg e m) = n * 2 ^ (k + 149).toNat := by
  obtain ⟨e, m, he, hm, hv⟩ := f32_code (t := (k + 149).toNat) hn (fun h0 => by have := ht h0; omega)
  refine ⟨e, m, he, hm, ?_, by rw [f32Mag_f32Of (by omega) hm, hv]⟩
  have code : ∀ {a j p : Nat}, a * 2 ^ p = n * 2 ^ (k + 149).toNat → (j : Int) = 149 - p → f32Round neg a (2 ^ j) = f32Of neg e m := by
    intro a j p ha hj
    unfold f32Round f32Of
    rw [roundCode_exact (q := max e 1 - 1) hm (ha.trans hv.symm) (by omega)]
    simp only
    rw [if_neg (show ¬ 0x7F800000 ≤ e * 2 ^ 23 + m by omega)]
  unfold f32Scaled
  split
  · rw [← pow_zero 2]
    exact code (p := 149) (by rw [Nat.mul_assoc, ← pow_add]; congr 2; omega) (by omega)
  · exact code (p := (k + 149).toNat) rfl (by omega)

/-! ### Elements -/

theorem significand_lt {mb e m : Nat} (hm : m < 2 ^ mb) : significand mb e m < 2 ^ (mb + 1) := by
  rw [significand, pow_succ]
  split <;> omega

section
variable {f : ElemFmt} {c : Nat} (hc : c < 2 ^ f.width)
include hc

/-- A code by its sign, exponent and mantissa. -/
theorem code_split : (if c / 2 ^ (f.eb + f.mb) % 2 == 1 then 2 ^ (f.eb + f.mb) else 0) + (c / 2 ^ f.mb % 2 ^ f.eb * 2 ^ f.mb + c % 2 ^ f.mb) = c ∧
    c % 2 ^ (f.eb + f.mb) = c / 2 ^ f.mb % 2 ^ f.eb * 2 ^ f.mb + c % 2 ^ f.mb := by
  have low : c % 2 ^ (f.eb + f.mb) = c / 2 ^ f.mb % 2 ^ f.eb * 2 ^ f.mb + c % 2 ^ f.mb := by
    rw [Nat.add_comm f.eb, pow_add, Nat.mod_mul, Nat.add_comm, Nat.mul_comm]
  refine ⟨?_, low⟩
  have sign : c / 2 ^ (f.eb + f.mb) < 2 := by
    rw [Nat.div_lt_iff_lt_mul (Nat.two_pow_pos _), ← pow_succ']
    exact lt_of_lt_of_eq hc (by rw [ElemFmt.width]; congr 1; omega)
  have parts := Nat.div_add_mod c (2 ^ (f.eb + f.mb))
  rw [← low]
  generalize c / 2 ^ (f.eb + f.mb) = g at *
  have cases : g = 0 ∨ g = 1 := by omega
  rcases cases with rfl | rfl
  · simpa using parts
  · simpa using parts

/-- A code up to the largest finite one decodes to its significand at its scale. -/
theorem decodeElem_finite {s : Int} (heb : 0 < f.eb) (hmax : c % 2 ^ (f.eb + f.mb) ≤ f.maxCode) :
    decodeElem f s c = f32Scaled (c / 2 ^ (f.eb + f.mb) % 2 == 1) (significand f.mb (c / 2 ^ f.mb % 2 ^ f.eb) (c % 2 ^ f.mb))
      (s + max (c / 2 ^ f.mb % 2 ^ f.eb : Nat) 1 - f.bias - f.mb) := by
  obtain ⟨-, low⟩ := code_split hc
  have pos := Nat.two_pow_pos (f.eb + f.mb)
  have not_inf : (f.inf && c / 2 ^ f.mb % 2 ^ f.eb + 1 == 2 ^ f.eb) = false := by
    cases hi : f.inf with
    | false => rfl
    | true =>
      rw [Bool.true_and, beq_eq_false_iff_ne]
      intro top
      rw [low, ElemFmt.maxCode, if_pos hi, show 2 ^ f.eb - 1 = c / 2 ^ f.mb % 2 ^ f.eb by omega] at hmax
      have pos := Nat.two_pow_pos f.mb
      have some_inf : 0 < c / 2 ^ f.mb % 2 ^ f.eb := by
        have := Nat.one_lt_two_pow (n := f.eb) (by omega)
        omega
      have := Nat.mul_pos some_inf pos
      omega
  have not_nan : (f.nan && !f.inf && c % 2 ^ (f.eb + f.mb) == 2 ^ (f.eb + f.mb) - 1) = false := by
    cases hn : f.nan with
    | false => rfl
    | true =>
      cases hi : f.inf with
      | true => rfl
      | false =>
        rw [ElemFmt.maxCode, if_neg (by simp [hi]), if_pos hn] at hmax
        rw [Bool.true_and, Bool.not_false, Bool.true_and, beq_eq_false_iff_ne]
        have := Nat.one_lt_two_pow (n := f.eb + f.mb) (by omega)
        omega
  unfold decodeElem
  simp only [not_inf, not_nan, Bool.false_eq_true, if_false]
  split
  · rename_i h0
    simp only [h0, significand, if_true]
    rfl
  · rename_i h0
    rw [significand, if_neg h0, Nat.max_eq_left (by omega)]

/-- A finite code of a format within FP32's range comes back from what it decodes to. -/
theorem convert_decode_finite {s : Int} (heb : 0 < f.eb) (hmb : f.mb ≤ 23) (hs : -149 ≤ s) (hlow : -149 ≤ s + 1 - f.bias - f.mb)
    (hhigh : ∀ e : Nat, e * 2 ^ f.mb ≤ f.maxCode → s + max e 1 - f.bias ≤ 127) (hmax : c % 2 ^ (f.eb + f.mb) ≤ f.maxCode) :
    convertElem f divRne s (decodeElem f s c) = (c, false) := by
  obtain ⟨whole, low⟩ := code_split hc
  have hm : c % 2 ^ f.mb < 2 ^ f.mb := Nat.mod_lt _ (Nat.two_pow_pos _)
  have decoded : decodeElem f s c = f32Scaled (c / 2 ^ (f.eb + f.mb) % 2 == 1) (significand f.mb (c / 2 ^ f.mb % 2 ^ f.eb) (c % 2 ^ f.mb))
      (s + max (c / 2 ^ f.mb % 2 ^ f.eb : Nat) 1 - f.bias - f.mb) := decodeElem_finite hc heb hmax
  rw [low] at hmax
  generalize c / 2 ^ f.mb % 2 ^ f.eb = e at *
  generalize c % 2 ^ f.mb = m at *
  generalize (c / 2 ^ (f.eb + f.mb) % 2 == 1) = neg at *
  have range := hhigh e (by omega)
  have digits : significand f.mb e m < 2 ^ 24 :=
    lt_of_lt_of_le (significand_lt hm) (Nat.pow_le_pow_right (by decide) (by omega))
  obtain ⟨e', m', he', hm', hx, hmag⟩ := f32Scaled_exact neg (k := s + max e 1 - f.bias - f.mb) digits (by omega) (fun h0 => by
    have := (Nat.log2_lt h0).mpr (significand_lt hm)
    omega)
  have back : roundCode divRne f.mb f.bias (f32Mag (f32Of neg e' m')) (2 ^ (149 + s).toNat) = e * 2 ^ f.mb + m :=
    roundCode_exact (p := 0) (q := (s + max e 1 - f.bias - f.mb + 149).toNat) hm (by rw [hmag, pow_zero, Nat.mul_one]) (by omega)
  have nan : f32IsNan (f32Of neg e' m') = false := by
    rw [f32IsNan, f32Exp_f32Of (by omega) hm', beq_false_of_ne (by omega), Bool.false_and]
  have inf : f32IsInf (f32Of neg e' m') = false := by
    rw [f32IsInf, f32Exp_f32Of (by omega) hm', beq_false_of_ne (by omega), Bool.false_and]
  rw [decoded, hx]
  unfold convertElem
  simp only [nan, inf, f32Sign_f32Of (show e' < 256 by omega) hm', Bool.false_eq_true, if_false, back]
  rw [if_pos (show (0 : Int) ≤ 149 + s by omega), if_neg (by omega), whole]

/-- An infinity comes back. -/
theorem convert_decode_inf {s : Int} (hinf : f.inf = true) (hcode : c % 2 ^ (f.eb + f.mb) = (2 ^ f.eb - 1) * 2 ^ f.mb) :
    convertElem f divRne s (decodeElem f s c) = (c, false) := by
  obtain ⟨whole, low⟩ := code_split hc
  have hm : c % 2 ^ f.mb < 2 ^ f.mb := Nat.mod_lt _ (Nat.two_pow_pos _)
  have pos := Nat.two_pow_pos f.eb
  have top : c / 2 ^ f.mb % 2 ^ f.eb = 2 ^ f.eb - 1 ∧ c % 2 ^ f.mb = 0 := by
    rw [low] at hcode
    have he := congrArg (· / 2 ^ f.mb) hcode
    have hz := congrArg (· % 2 ^ f.mb) hcode
    simp only [Nat.mul_comm _ (2 ^ f.mb), Nat.mul_add_div (Nat.two_pow_pos _), Nat.mul_add_mod, Nat.div_eq_of_lt hm, Nat.mod_mod,
      Nat.mul_mod_right, Nat.mul_div_cancel_left _ (Nat.two_pow_pos _), Nat.add_zero] at he hz
    exact ⟨he, hz⟩
  have decoded : decodeElem f s c = f32Inf (c / 2 ^ (f.eb + f.mb) % 2 == 1) := by
    unfold decodeElem
    simp only
    rw [if_pos (by rw [hinf, Bool.true_and, beq_iff_eq]; omega), if_pos top.2]
  rw [top.1, top.2, Nat.add_zero] at whole
  rw [decoded]
  generalize (c / 2 ^ (f.eb + f.mb) % 2 == 1) = neg at *
  have inf : f32IsNan (f32Inf neg) = false ∧ f32IsInf (f32Inf neg) = true ∧ f32Sign (f32Inf neg) = neg := by
    cases neg <;> decide
  obtain ⟨nan, inf, sign⟩ := inf
  unfold convertElem
  simp only [nan, inf, sign, hinf, Bool.false_eq_true, if_false, if_true]
  rw [whole]

end

/-! ### FP32 rows -/

/-- The codes of `b` bits as one number, code 0 lowest. -/
def packed (b : Nat) (cs : List Nat) : Nat := cs.foldr (fun c acc => c % 2 ^ b + acc * 2 ^ b) 0

theorem packed_lt (b : Nat) (cs : List Nat) : packed b cs < 2 ^ (b * cs.length) := by
  induction cs with
  | nil => simp [packed]
  | cons c cs ih =>
    have hc := Nat.mod_lt c (Nat.two_pow_pos b)
    have step := Nat.mul_le_mul_right (2 ^ b) (Nat.succ_le_of_lt ih)
    rw [List.length_cons, Nat.mul_succ, pow_add]
    change c % 2 ^ b + packed b cs * 2 ^ b < _
    rw [Nat.succ_mul] at step
    omega

theorem packed_codes (b : Nat) (cs : List Nat) :
    (List.range cs.length).map (fun j => packed b cs / 2 ^ (b * j) % 2 ^ b) = cs.map (· % 2 ^ b) := by
  induction cs with
  | nil => rfl
  | cons c cs ih =>
    have pos := Nat.two_pow_pos b
    have hc := Nat.mod_lt c pos
    have parts : packed b (c :: cs) = c % 2 ^ b + 2 ^ b * packed b cs := by
      rw [Nat.mul_comm]
      rfl
    rw [List.length_cons, List.range_succ_eq_map, List.map_cons, List.map_map, List.map_cons, ← ih, parts]
    congr 1
    · simp [Nat.add_mul_mod_self_left]
    · refine List.map_congr_left fun j _ => ?_
      simp only [Function.comp_apply]
      rw [Nat.mul_succ, Nat.add_comm (b * j), pow_add, ← Nat.div_div_eq_div_mul, Nat.add_mul_div_left _ _ pos, Nat.div_eq_of_lt hc, Nat.zero_add]

theorem leNat_leBytes (n x : Nat) : leNat (leBytes n x) = x % 256 ^ n := by
  induction n generalizing x with
  | zero => simp [leBytes, leNat, Nat.mod_one]
  | succ n ih =>
    rw [leBytes, leNat, ih, BitVec.toNat_ofNat]
    exact (congrArg (x % ·) (pow_succ' 256 n)).trans Nat.mod_mul |>.symm

/-- The codes of an FP32 row are its elements' bits. -/
theorem unpack_f32Bytes (xs : List F32) : unpackCodes 32 xs.length (f32Bytes xs) = xs.map BitVec.toNat := by
  have fits : packed 32 (xs.map BitVec.toNat) < 256 ^ ceilDiv (32 * (xs.map BitVec.toNat).length) 8 := by
    have bytes : ceilDiv (32 * (xs.map BitVec.toNat).length) 8 = 4 * (xs.map BitVec.toNat).length := by
      simp only [ceilDiv]
      omega
    rw [bytes, show (256 : Nat) = 2 ^ 8 by decide, ← pow_mul, ← Nat.mul_assoc]
    exact packed_lt _ _
  have number : leNat (f32Bytes xs) = packed 32 (xs.map BitVec.toNat) := by
    rw [f32Bytes, packCodes, leNat_leBytes]
    exact Nat.mod_eq_of_lt fits
  have codes := packed_codes 32 (xs.map BitVec.toNat)
  unfold unpackCodes
  simp only [number]
  rw [List.length_map] at codes
  rw [codes, List.map_map]
  exact List.map_congr_left fun x _ => Nat.mod_eq_of_lt x.isLt

theorem f32Row_keeps (xs : List F32) : decodeRow 0 xs.length (encodeRow 0 xs.length rneAll xs).bytes = xs := by
  have bytes : (encodeRow 0 xs.length rneAll xs).bytes = f32Bytes xs := rfl
  have decoded : ∀ bs, decodeRow 0 xs.length bs = (unpackCodes 32 xs.length bs).map (BitVec.ofNat 32) := fun _ => rfl
  rw [bytes, decoded, unpack_f32Bytes, List.map_map]
  exact (List.map_congr_left fun x _ => BitVec.eq_of_toNat_eq (Nat.mod_eq_of_lt x.isLt)).trans (List.map_id' xs)

/-! ### The statement -/

/-- Settles O59. -/
theorem formatsHoldWhatTheyDecode : Obligations.FormatsHoldWhatTheyDecode := by
  intro fmt c k xs h1 h9 hc hk
  refine ⟨fun hmax => ?_, fun hinf hcode => convert_decode_inf hc hinf hcode, f32Row_keeps xs⟩
  have range : 0 < (elemFmt fmt).eb ∧ (elemFmt fmt).mb ≤ 23 ∧ -149 ≤ k ∧ -149 ≤ k + 1 - (elemFmt fmt).bias - (elemFmt fmt).mb ∧
      ∀ e : Nat, e * 2 ^ (elemFmt fmt).mb ≤ (elemFmt fmt).maxCode → k + max e 1 - (elemFmt fmt).bias ≤ 127 := by
    interval_cases fmt <;> simp [elemFmt, fmtBf16, fmtFp16, fmtE4m3, fmtE5m2, fmtE3m2, fmtE2m3, fmtE2m1, ElemFmt.maxCode] at hk ⊢ <;>
      (refine ⟨by omega, by omega, fun e he => ?_⟩; omega)
  obtain ⟨heb, hmb, hs, hlow, hhigh⟩ := range
  exact convert_decode_finite hc heb hmb hs hlow hhigh hmax

end Sys2Proof.Machine
end

section
/-! PROOFS. Walks, fault batches, conversions and near requests (R318, R321, R339 to R343, R389). -/

namespace Sys2Proof.Machine

/-! ### Walks -/

theorem walkComplete_unknown {id : Nat} {s : State} (h : s.xl.walks.find? (fun w => w.id == id) = none) : walkComplete id s = s := by
  simp only [walkComplete, h]

theorem walkComplete_found {id : Nat} {s : State} {w : Walk} (h : s.xl.walks.find? (fun w => w.id == id) = some w) :
    walkComplete id s = if w.spec && w.mig.isNone then prefetchSweep (specWalked w s) else s := by
  simp only [walkComplete, h]

theorem walkMigRetry_unknown {id : Nat} {s : State} (h : s.xl.walks.find? (fun w => w.id == id) = none) : walkMigRetry id s = s := by
  simp only [walkMigRetry, h]

theorem walkMigRetry_unmoved {id : Nat} {s : State} {w : Walk} (h : s.xl.walks.find? (fun w => w.id == id) = some w) (hm : w.mig = none) :
    walkMigRetry id s = s := by
  simp only [walkMigRetry, h, hm]

theorem walkMigRetry_waits {id : Nat} {s : State} {w : Walk} {t0 : Word} (h : s.xl.walks.find? (fun w => w.id == id) = some w)
    (hm : w.mig = some t0) (hv : stillMoving w.va s = true) (ht : usSince s t0 < 1000) : walkMigRetry id s = s := by
  have early : decide (1000 ≤ usSince s t0) = false := decide_eq_false (Nat.not_le.mpr ht)
  simp only [walkMigRetry, h, hm, hv, early, Bool.not_false, Bool.and_self, if_true]

theorem walkMigRetry_resumes {id k : Nat} {s : State} {w : Walk} {t0 : Word} (h : s.xl.walks.find? (fun w => w.id == id) = some w)
    (hm : w.mig = some t0) (hs : w.spec = false) (hk : w.task = some k) (hv : stillMoving w.va s = false ∨ 1000 ≤ usSince s t0) :
    walkMigRetry id s = dropWalk id (resumeTask k s) := by
  have late_or_still : (stillMoving w.va s && !decide (1000 ≤ usSince s t0)) = false := by
    rcases hv with hv | hv
    · rw [hv, Bool.false_and]
    · rw [decide_eq_true hv, Bool.not_true, Bool.and_false]
  simp only [walkMigRetry, h, hm, late_or_still, hs, hk, Bool.false_eq_true, if_false]

/-! ### Fault batches -/

theorem faultBatchWrite_waits {s : State} (h : s.xl.waiting = [] ∨ fcQlog2 s = 0 ∨ fcFree s = false) : faultBatchWrite s = s := by
  unfold faultBatchWrite
  split
  · rfl
  · rename_i hw
    rcases h with h | h | h
    · rw [h] at hw
      cases hw
    · simp only [h, decide_true, Bool.true_or, if_true]
    · simp only [h, Bool.not_false, Bool.or_true, if_true]

theorem faultBatchWrite_writes {s u : State} {b : Batch} {rest : List Batch} (hw : s.xl.waiting = b :: rest) (hq : fcQlog2 s ≠ 0)
    (hf : fcFree s = true) (hp : placeBatch (fcBase s + fcSlot s * 2 ^ 17) (batchParts b s) s = some u) :
    faultBatchWrite s = raiseEvent 0 { u with xl := { u.xl with
      waiting := rest, written := u.xl.written ++ [(b.seq, some (fcSlot s), b)], prod := u.xl.prod + 1, lastSeq := b.seq
      overflow := u.xl.overflow && decide (4 < rest.length), slotFail := false } } := by
  have go : (decide (fcQlog2 s = 0) || !fcFree s) = false := by rw [decide_eq_false hq, hf]; rfl
  simp only [faultBatchWrite, hw, go, hp, Bool.false_eq_true, if_false]

/-! ### Conversions -/

/-- A page already cached answers at once, or with cause 2 for a write that it forbids. -/
theorem convert_cached {v : Word} {s : State} {x : Xlat} {a : Nat} (hx : tlbFind s (bitsNat v 0 52) = some x) (ha : x.at (bitsNat v 0 52) = .dev a)
    (hw : v.getLsbD 63 = false ∨ x.w = true) :
    convert v s = { s with xl := { s.xl with xlateResult := BitVec.ofNat 64 (pageCode x.lg * 2 ^ 60 + a), convert := none } } := by
  have allowed : (v.getLsbD 63 && !x.w) = false := by
    rcases hw with hw | hw
    · rw [hw, Bool.false_and]
    · rw [hw, Bool.not_true, Bool.and_false]
  simp only [convert, hx, allowed, ha, Bool.false_eq_true, if_false]

theorem convert_forbidden {v : Word} {s : State} {x : Xlat} (hx : tlbFind s (bitsNat v 0 52) = some x) (hv : v.getLsbD 63 = true) (hw : x.w = false) :
    convert v s = { s with xl := { s.xl with xlateResult := 0x0200000000000000, convert := none } } := by
  simp only [convert, hx, hv, hw, Bool.not_false, Bool.and_self, if_true]
  rfl

theorem xlateReq_idle {v : Word} {s : State} (hr : s.boot.inReset = false) (hl : writesLive s = true) (hc : s.xl.convert = none) :
    exec (.xlateReq v) s = leaves s (convert v s) := by
  have run : exec (.xlateReq v) s = leaves s (guardWrite 0x1538 (fun s => if s.xl.convert.isSome then s else convert v s) s) := rfl
  rw [run, guardWrite_live _ _ hr hl, hc]
  rfl

theorem noConvert {s : State} (hc : s.xl.convert = none) (w : Word) :
    { s with xl := { s.xl with xlateResult := w, convert := none } } = { s with xl := { s.xl with xlateResult := w } } :=
  congrArg (fun c => { s with xl := { s.xl with xlateResult := w, convert := c } }) hc.symm

/-! ### Near requests -/

theorem nearRetry_unknown {id : Nat} {s : State} (h : s.host.nearReqs.find? (fun r => r.id == id) = none) (nk : Bool) : nearRetry id nk s = s := by
  simp only [nearRetry, h]

section
variable {id : Nat} {s u : State} {q : NearReq} (h : s.host.nearReqs.find? (fun r => r.id == id) = some q)
include h

theorem nearRetry_over (hn : 16 ≤ q.nacks) (nk : Bool) : nearRetry id nk s = s := by
  simp only [nearRetry, h, if_pos hn]

theorem nearRetry_nacked (hn : q.nacks < 15) : nearRetry id true s = { s with host := { s.host with
    nearReqs := s.host.nearReqs.map (fun y => if y.id = id then { y with nacks := y.nacks + 1 } else y) } } := by
  have again : (true && decide (q.nacks + 1 < 16)) = true := by rw [decide_eq_true (by omega)]; rfl
  simp only [nearRetry, h, if_neg (show ¬ 16 ≤ q.nacks by omega), again, if_true]

theorem nearRetry_wins (hn : q.nacks < 16) (hh : hostHolds s q.line = none) (hw : (winNear q).go (some q.task) (dropReq id s) = (.ok (), u)) :
    nearRetry id false s = atomicSettle q.task u := by
  simp only [nearRetry, h, if_neg (show ¬ 16 ≤ q.nacks by omega), Bool.false_and, Bool.false_eq_true, if_false, hh, hw]

theorem nearRetry_turnsFar (hn : q.nacks = 15) (hw : (turnFar q).go (some q.task) (dropReq id s) = (.ok (), u)) :
    nearRetry id true s = atomicSettle q.task u := by
  have last : (true && decide (q.nacks + 1 < 16)) = false := by rw [decide_eq_false (by omega)]; rfl
  simp only [nearRetry, h, if_neg (show ¬ 16 ≤ q.nacks by omega), last, Bool.false_eq_true, if_false, if_true, hw]
  cases hostHolds s q.line <;> rfl

end

/-! ### The statement -/

/-- Settles O16. -/
theorem walksAndFaults : Obligations.WalksAndFaults := by
  intro s id w b rest v x q t0 hs
  refine ⟨fun h => ⟨leaves_nothing hs (walkComplete_unknown h), leaves_nothing hs (walkMigRetry_unknown h)⟩, fun h hw => leaves_nothing hs ?_,
    fun h hsp hm => congrArg (leaves s) ?_, fun h hm => leaves_nothing hs (walkMigRetry_unmoved h hm),
    fun h hm hv ht => leaves_nothing hs (walkMigRetry_waits h hm hv ht), fun k h hm hsp hk hv => congrArg (leaves s) (walkMigRetry_resumes h hm hsp hk hv),
    fun h => leaves_nothing hs ?_, fun h => leaves_of_eq hs ?_, fun h => leaves_nothing hs (faultBatchWrite_waits h),
    fun u hw hq hf hp => congrArg (leaves s) (faultBatchWrite_writes hw hq hf hp), fun hr hl => leaves_misuse hs _ (guardWrite_early _ _ hr hl),
    fun hr hl hc => leaves_nothing hs ?_, fun a hr hl hc hx ha hw => ?_, fun hr hl hc hx hv hw => ?_,
    fun nk h => leaves_nothing hs (nearRetry_unknown h nk), fun h => ⟨fun nk hn => leaves_nothing hs (nearRetry_over h hn nk),
      fun hn => leaves_of_eq hs (nearRetry_nacked h hn), fun u hn hh hw => congrArg (leaves s) (nearRetry_wins h hn hh hw),
      fun u hn hw => congrArg (leaves s) (nearRetry_turnsFar h hn hw)⟩⟩
  · rw [walkComplete_found h]
    rcases hw with hw | hw
    · rw [hw]
      rfl
    · rw [Option.isNone_eq_false_iff.mpr hw, Bool.and_false]
      rfl
  · rw [walkComplete_found h, hsp, hm]
    rfl
  · simp only [closeBatch, h]
  · simp only [closeBatch, h]
  · rw [guardWrite_live _ _ hr hl, hc]
    rfl
  · rw [xlateReq_idle hr hl hc, convert_cached hx ha hw, noConvert hc]
    exact leaves_of_eq hs rfl
  · rw [xlateReq_idle hr hl hc, convert_forbidden hx hv hw, noConvert hc]
    exact leaves_of_eq hs rfl

end Sys2Proof.Machine
end

section
/-! PROOFS. Commits and retirements of versions (R238 to R240). -/

namespace Sys2Proof.Machine

theorem tabMap_some {tid : Nat} {s : State} {tab : Table} (f : Table → Table) (h : tabGet s tid = some tab) :
    tabMap tid f s = tabSet tid (f tab) s := by
  simp only [tabMap, h]

theorem tabGet_tabSet (tid : Nat) (tab : Table) (s : State) : tabGet (tabSet tid tab s) tid = some tab := smapGet_smapSet_same _ _ _

theorem tabSet_grad (tid : Nat) (tab : Table) (s : State) : (tabSet tid tab s).grad = s.grad := rfl

/-! ### Commit points -/

theorem commitPoint_unknown {tid : Nat} {s : State} (h : tabGet s tid = none) : commitPoint tid s = s := by
  simp only [commitPoint, h]

theorem commitPoint_none {tid : Nat} {s : State} {tab : Table} (h : tabGet s tid = some tab) (hc : tab.commit = none) : commitPoint tid s = s := by
  simp only [commitPoint, h, hc]

theorem commitPoint_some {tid : Nat} {s : State} {tab : Table} {c : Commit} (h : tabGet s tid = some tab) (hc : tab.commit = some c) :
    commitPoint tid s = if commitDue c s then refreshStart tid c.ver c.task (tabMap tid (makeCurrent c.ver) s) else s := by
  simp only [commitPoint, h, hc]

theorem commitDue_early {c : Commit} {s : State} (h0 : c.ftime ≠ 0) (h : timeLocked s = false ∨ reached s c.ftime = false) : commitDue c s = false := by
  have early : (c.ftime == 0 || (timeLocked s && reached s c.ftime)) = false := by
    rw [beq_false_of_ne h0, Bool.false_or]
    rcases h with h | h
    · rw [h, Bool.false_and]
    · rw [h, Bool.and_false]
  rw [commitDue, early, Bool.and_false]

theorem commitDue_idle {c : Commit} {s : State} (h : ∀ t w, taskOf s c.task = some t → t.phase ≠ .running w) : commitDue c s = false := by
  unfold commitDue
  cases ht : taskOf s c.task with
  | none => rfl
  | some t =>
    cases hp : t.phase with
    | running w => exact absurd hp (h t w ht)
    | _ => simp only [Option.any_some, hp, Bool.false_and]

theorem commitDue_now {c : Commit} {s : State} {t : Task} {w : Work} (ht : taskOf s c.task = some t) (hp : t.phase = .running w)
    (h : c.ftime = 0 ∨ (timeLocked s = true ∧ reached s c.ftime = true)) : commitDue c s = true := by
  have due : (c.ftime == 0 || (timeLocked s && reached s c.ftime)) = true := by
    rcases h with h | ⟨hl, hr⟩
    · rw [h]
      rfl
    · rw [hl, hr, Bool.and_self, Bool.or_true]
  simp only [commitDue, ht, Option.any_some, hp, due, Bool.and_self]

/-! ### The versions of a table -/

/-- What `makeCurrent` makes of a version. -/
def becomesCurrent (v : BitVec 16) (x : Version) : Version :=
  if x.ver = v then { x with st := .current, everCurrent := true }
  else if x.st = .current then { x with st := .previous } else x

theorem makeCurrent_versions (v : BitVec 16) (t : Table) : (makeCurrent v t).versions = t.versions.map (becomesCurrent v) := rfl

theorem becomesCurrent_ver (v : BitVec 16) (x : Version) : (becomesCurrent v x).ver = x.ver := by
  unfold becomesCurrent
  split
  · rfl
  · split <;> rfl

theorem becomesCurrent_st (v : BitVec 16) (x : Version) : (becomesCurrent v x).st = .current ↔ (becomesCurrent v x).ver = v := by
  rw [becomesCurrent_ver]
  unfold becomesCurrent
  split
  · exact iff_of_true rfl ‹_›
  · split
    · exact iff_of_false (by simp) ‹_›
    · exact iff_of_false ‹_› ‹_›

/-! ### Freeing a version -/

theorem versionFree_held {tid : Nat} {v : BitVec 16} {s : State} (h : freeable tid v s = none) : versionFree tid v s = s := by
  simp only [versionFree, h]

theorem versionFree_frees {tid : Nat} {v : BitVec 16} {s : State} {r : Retire} (h : freeable tid v s = some r) :
    versionFree tid v s = retireRecord r tid v s := by
  simp only [versionFree, h]

theorem freeable_unknown {tid : Nat} {s : State} (v : BitVec 16) (h : tabGet s tid = none) : freeable tid v s = none := by
  simp only [freeable, h, Option.bind_none]

theorem freeable_free {tid : Nat} {v : BitVec 16} {s : State} {r : Retire} (h : freeable tid v s = some r) :
    referred s tid v = false ∧ (r.grace = 0 ∨ reached s r.grace = true) := by
  unfold freeable at h
  split at h
  · split at h
    · rename_i hfree
      cases h
      simpa using hfree
    · cases h
  · cases h

/-- Without an injection armed no tag fails at the sweep. -/
theorem tagSweep_clean {tid : Nat} {v : BitVec 16} {s : State} (h : s.rep.inj = none) : tagSweep tid v s = (none, s) := by
  unfold tagSweep
  split
  · rfl
  · generalize s.rep.polderMap.zipIdx = l
    induction l with
    | nil => rfl
    | cons x l ih =>
      simp only [List.foldl_cons, injectAt_none 0x05 x.1 h, Bool.false_eq_true, if_false]
      exact ih

theorem freeRetired_clean {id tid : Nat} {v : BitVec 16} {s : State} (h : s.rep.inj = none) :
    freeRetired id tid v s = finishOk id 0 (freeVersion (.task id) tid v s) := by
  simp only [freeRetired, tagSweep_clean h]

theorem freeRetired_failed {id tid : Nat} {v : BitVec 16} {s u : State} {idx : BitVec 16} (h : tagSweep tid v s = (some idx, u)) :
    freeRetired id tid v s = finishTask id (rHw 0x05 idx) (freeVersion (.task id) tid v u) := by
  simp only [freeRetired, h]

theorem satTask_tab (w : Who) (s : State) : (satTask w s).tab = s.tab := by
  cases w <;> rfl

theorem bermCount_tab (k n : Nat) (w : Who) (s : State) : (bermCount k n w s).tab = s.tab := by
  unfold bermCount
  simp only
  split
  · exact satTask_tab _ _
  · rfl

theorem bermForget_tab (w : Who) (hit : Sector → Bool) (s : State) : (bermForget w hit s).tab = s.tab := by
  unfold bermForget bermDrop
  simp only
  split
  · rfl
  · exact bermCount_tab _ _ _ _

theorem unlessDropped_tab (p : Prop) [Decidable p] (a n : Nat) (s : State) : (if p then s else (tlbDrop a n s).2).tab = s.tab := by
  split <;> rfl

/-- What a freed version's table and gradients come to. -/
theorem freeVersion_of {tid : Nat} {v : BitVec 16} {s : State} {tab : Table} (w : Who) (h : tabGet s tid = some tab) :
    ∃ u : State, tabGet u tid = some tab ∧ freeVersion w tid v s = tabMap tid (fun t => { t with
      versions := t.versions.filter (fun x => x.ver != v), slotMarks := t.slotMarks &&& ~~~(1#4 <<< (v.toNat % 4)) }) u ∧
      ∃ gs : List Grad, u.grad.grads = gs.filter (fun g => !(g.tid == tid && g.ver == v)) := by
  unfold freeVersion
  simp only [h]
  refine ⟨_, ?_, rfl, _, rfl⟩
  have fetched : ∀ hit x, (fetchDrop hit x).tab = x.tab := fun _ _ => rfl
  rw [tabGet] at h ⊢
  simp only
  rw [unlessDropped_tab, unlessDropped_tab, fetched, bermForget_tab]
  exact h

/-! ### The statement -/

/-- Settles O14. -/
theorem versionsMove : Obligations.VersionsMove := by
  intro s tid v tab c r hs
  refine ⟨fun h => ⟨leaves_nothing hs (commitPoint_unknown h), leaves_nothing hs (versionFree_held (freeable_unknown v h))⟩,
    fun h hc => leaves_nothing hs (commitPoint_none h hc), fun h hc h0 he => leaves_nothing hs ?_, fun h hc hi => leaves_nothing hs ?_,
    fun t w h hc ht hp hd => congrArg (leaves s) ?_, ?_, rfl, ?_, fun h => leaves_nothing hs (versionFree_held h),
    fun id w h hid hw => ⟨congrArg (leaves s) ?_, fun hi => freeRetired_clean (by rw [hw]; exact hi), fun idx u hu => freeRetired_failed hu⟩,
    freeable_free, fun k h => ?_, fun k g hg h => ?_⟩
  · rw [commitPoint_some h hc, commitDue_early h0 he]
    rfl
  · rw [commitPoint_some h hc, commitDue_idle hi]
    rfl
  · rw [commitPoint_some h hc, commitDue_now ht hp hd]
    rfl
  · rw [makeCurrent_versions]
    intro x hx
    obtain ⟨y, -, rfl⟩ := List.mem_map.mp hx
    exact becomesCurrent_st v y
  · rw [makeCurrent_versions, List.map_map]
    exact List.map_congr_left fun x _ => becomesCurrent_ver v x
  · rw [versionFree_frees h, hw, hid]
    rfl
  · obtain ⟨u, hu, hf, -⟩ := freeVersion_of (v := v) k h
    rw [hf, tabMap_some _ hu, tabGet_tabSet]
    rfl
  · obtain ⟨u, hu, hf, gs, hgs⟩ := freeVersion_of (v := v) k h
    rw [hf, tabMap_some _ hu, tabSet_grad, hgs] at hg
    rintro ⟨ht, hv⟩
    have kept := (List.mem_filter.mp hg).2
    rw [ht, hv, beq_self_eq_true, beq_self_eq_true] at kept
    exact Bool.false_ne_true kept

end Sys2Proof.Machine
end

section
/-! PROOFS. Injections (R480, R481, R483). -/

namespace Sys2Proof.Machine

/-! ### SOL_INJ_CTL's value -/

theorem and_two (k : Nat) : k &&& 2 = 2 * (k / 2 % 2) := by
  have bit : k &&& 2 = k / 2 % 2 * 2 := (Nat.and_two_pow k 1).trans (by rw [Nat.toNat_testBit]; rfl)
  omega

/-- The fields of SOL_INJ_CTL, put together again, are its bits but for bit 0 and the reserved ones. -/
theorem injCtl_fields (v : Word) :
    BitVec.ofNat 64 (bitsNat v 32 32 * 2 ^ 32 + bitsNat v 16 16 * 2 ^ 16 + bitsNat v 8 8 * 2 ^ 8 + bitsNat v 1 1 * 2) = v &&& 0xFFFFFFFFFFFFFF02 := by
  refine BitVec.eq_of_toNat_eq ?_
  have hv := v.isLt
  rw [BitVec.toNat_and, BitVec.toNat_ofNat]
  simp only [bitsNat]
  generalize v.toNat = n at *
  have high : (n &&& 0xFFFFFFFFFFFFFF02) / 2 ^ 8 = n / 2 ^ 8 := by
    rw [Nat.and_div_two_pow, show 0xFFFFFFFFFFFFFF02 / 2 ^ 8 = 2 ^ 56 - 1 by decide, Nat.and_two_pow_sub_one_eq_mod]
    omega
  have low : (n &&& 0xFFFFFFFFFFFFFF02) % 2 ^ 8 = 2 * (n / 2 % 2) := by
    rw [Nat.and_mod_two_pow, show 0xFFFFFFFFFFFFFF02 % 2 ^ 8 = 2 by decide, and_two]
    omega
  have mask : (0xFFFFFFFFFFFFFF02 : Word).toNat = 0xFFFFFFFFFFFFFF02 := rfl
  have bytes := Nat.div_div_eq_div_mul n (2 ^ 8) (2 ^ 8)
  have halves := Nat.div_div_eq_div_mul n (2 ^ 16) (2 ^ 16)
  rw [mask]
  omega

theorem injCtl_inv {s : State} (h : s.Inv) (v : Word) : State.Inv { s with regs := { s.regs with injCtl := v &&& 0xFFFFFFFFFFFFFF02 } } :=
  ⟨(show _ = { s.regs.tidy with injCtl := v &&& 0xFFFFFFFFFFFFFF02 &&& 0xFFFFFFFFFFFFFF02 } from rfl).trans
    (by rw [h.tidy, BitVec.and_assoc, BitVec.and_self]), h.2⟩

/-! ### A write -/

theorem firstFail_isSome (cs : Checks) : (firstFail cs).isSome = cs.any (·.1) := by
  rw [firstFail, Option.isSome_map, List.isSome_find?]

/-- The checks of R480 on a write of SOL_INJ_CTL. -/
def injWriteChecks (v : Word) (s : State) : Checks :=
  injChecks (bitsNat v 8 8) (bitsNat v 1 1) (bitsNat v 16 16) (bitsNat v 32 32) s.fuses.sealed
    (bitsNat v 8 8 == 0 && bitsNat v 1 1 == 0 && bitsNat v 16 16 == 0 && bitsNat v 32 32 == 0)

theorem injCtlWrite_idle {v : Word} {s : State} (h : v.getLsbD 0 = false) :
    injCtlWrite v s = { s with regs := { s.regs with injCtl := v &&& 0xFFFFFFFFFFFFFF02 } } := by
  simp only [injCtlWrite, h, Bool.not_false, if_true]

theorem injCtlWrite_arms {v : Word} {s : State} (h : v.getLsbD 0 = true) : injCtlWrite v s =
    if (firstFail (injWriteChecks v s)).isSome then misuse 0x1718 s
    else armInjection (bitsNat v 8 8) (bitsNat v 1 1) (bitsNat v 16 16) (bitsNat v 32 32) 0 s := by
  simp only [injCtlWrite, h, Bool.not_true, Bool.false_eq_true, if_false]
  rfl

theorem injWriteChecks_detector {v : Word} {s : State} (hd : bitsNat v 8 8 ≠ 0) :
    (firstFail (injWriteChecks v s)).isSome = (!isDetector (bitsNat v 8 8) || (gaugeDetector (bitsNat v 8 8) && s.fuses.sealed) ||
      decide (2 ≤ bitsNat v 1 1) || !injUnitOk (bitsNat v 8 8) (bitsNat v 16 16) || (bitsNat v 1 1 == 0 && bitsNat v 32 32 != 0) ||
      (bitsNat v 1 1 == 1 && bitsNat v 32 32 == 0)) := by
  have armed : (bitsNat v 8 8 == 0 && bitsNat v 1 1 == 0 && bitsNat v 16 16 == 0 && bitsNat v 32 32 == 0) = false := by
    rw [beq_false_of_ne hd]
    rfl
  rw [injWriteChecks, armed, firstFail_isSome]
  simp only [injChecks, bad, Bool.false_eq_true, if_false, List.any_cons, List.any_nil, Bool.or_false, Bool.or_assoc]

theorem isDetector_ne_zero {d : Nat} (h : isDetector d = true) : d ≠ 0 := by
  rintro rfl
  cases h

theorem isDetector_lt {d : Nat} (h : isDetector d = true) : d < 31 := by
  simp only [isDetector, Bool.and_eq_true, decide_eq_true_eq] at h
  omega

theorem armNow_holds {s : State} {i : Injection} (h : s.rep.inj = some i) (h12 : i.detector ≠ 0x12) :
    armNow s = { s with rep := { s.rep with inj := some { i with armed := true } } } := by
  simp only [armNow, h, if_neg h12]

/-- The state with SOL_INJ_CTL written and an injection held that is not armed yet. -/
def injHeld (v : Word) (i : Injection) (s : State) : State :=
  { s with regs := { s.regs with injCtl := v }, rep := { s.rep with inj := some i } }

/-- The Gauge's log of an injection of its own. -/
def injLogged (d : Nat) (s : State) : State := if gaugeDetector d then gaugeLog 0x0C d s else s

theorem injLogged_rep (d : Nat) (s : State) : (injLogged d s).rep = s.rep := by
  unfold injLogged
  split <;> rfl

theorem injLogged_of (d : Nat) (s : State) : injLogged d s = { s with gauge := (injLogged d s).gauge } := by
  unfold injLogged
  split <;> rfl

theorem injLogged_gauge (d : Nat) {s t : State} (h : s.gauge = t.gauge) : (injLogged d s).gauge = if gaugeDetector d then (gaugeLog 0x0C d t).gauge else t.gauge := by
  unfold injLogged
  split
  · rw [gaugeLog_eq, gaugeLog_eq, h]
  · exact h

theorem armInjection_of {d mode u count : Nat} {s : State} (hd : d ≠ 0) : armInjection d mode u count 0 s =
    armNow (injLogged d (injHeld (BitVec.ofNat 64 (count * 2 ^ 32 + u * 2 ^ 16 + d * 2 ^ 8 + mode * 2))
      ⟨BitVec.ofNat 8 d, mode == 1, BitVec.ofNat 16 u, BitVec.ofNat 32 count, 0, false, 0⟩ s)) := by
  unfold armInjection
  rw [if_neg hd]
  rfl

/-- An injection held that is armed at once changes nothing more but the Gauge's log. -/
theorem armNow_held {d : Nat} {i : Injection} (s : State) (v : Word) (h12 : i.detector ≠ 0x12) :
    ∃ g, armNow (injLogged d (injHeld v i s)) = { injHeld v { i with armed := true } s with gauge := g } ∧
      g = if gaugeDetector d then (gaugeLog 0x0C d s).gauge else s.gauge := by
  have hg : (injLogged d (injHeld v i s)).gauge = _ := injLogged_gauge d (s := injHeld v i s) (t := s) rfl
  have ho := injLogged_of d (injHeld v i s)
  generalize injLogged d (injHeld v i s) = u at *
  refine ⟨u.gauge, ?_, hg⟩
  generalize u.gauge = g at *
  subst ho
  exact armNow_holds rfl h12

/-- A detector other than 0x12, armed at once, changes nothing but the injection held, its register and the Gauge's log. -/
theorem armInjection_now {d mode u count : Nat} {s : State} (hd : d ≠ 0) (hl : d < 256) (h12 : d ≠ 0x12) :
    ∃ g, armInjection d mode u count 0 s = { injHeld (BitVec.ofNat 64 (count * 2 ^ 32 + u * 2 ^ 16 + d * 2 ^ 8 + mode * 2))
        ⟨BitVec.ofNat 8 d, mode == 1, BitVec.ofNat 16 u, BitVec.ofNat 32 count, 0, true, 0⟩ s with gauge := g } ∧
      g = if gaugeDetector d then (gaugeLog 0x0C d s).gauge else s.gauge := by
  have other : BitVec.ofNat 8 d ≠ 0x12 := fun h => h12 (by
    have := congrArg BitVec.toNat h
    rw [BitVec.toNat_ofNat, Nat.mod_eq_of_lt (by omega)] at this
    exact this)
  rw [armInjection_of hd]
  exact armNow_held (i := ⟨BitVec.ofNat 8 d, mode == 1, BitVec.ofNat 16 u, BitVec.ofNat 32 count, 0, false, 0⟩) s _ other

/-! ### Arming in time -/

theorem injectionArmTime_none {s : State} (h : s.rep.inj = none) : injectionArmTime s = s := by
  simp only [injectionArmTime, h]

theorem injectionArmTime_waits {s : State} {i : Injection} (h : s.rep.inj = some i) (hw : i.armed = true ∨ reached s i.armAt = false) :
    injectionArmTime s = s := by
  have waits : (!i.armed && reached s i.armAt) = false := by
    rcases hw with hw | hw
    · rw [hw]
      rfl
    · rw [hw, Bool.and_false]
  simp only [injectionArmTime, h, waits, Bool.false_eq_true, if_false]

theorem injectionArmTime_arms {s : State} {i : Injection} (h : s.rep.inj = some i) (h12 : i.detector ≠ 0x12) (ha : i.armed = false)
    (hr : reached s i.armAt = true) : injectionArmTime s = { s with rep := { s.rep with inj := some { i with armed := true } } } := by
  simp only [injectionArmTime, h, ha, hr, Bool.not_false, Bool.and_self, if_true, armNow, if_neg h12]

/-! ### The statement -/

/-- Settles O11. -/
theorem injectionsArm : Obligations.InjectionsArm := by
  intro s v i hs hr
  have live : writesLive s = true → exec (.injCtlWrite v) s = leaves s (injCtlWrite v s) := fun hl =>
    congrArg (leaves s) (guardWrite_live 0x1718 (injCtlWrite v) hr hl)
  refine ⟨fun hl => leaves_misuse hs _ (guardWrite_early _ _ hr hl), fun hl h0 => ?_, fun hl hv => ?_, fun hl h0 hd hbad => ?_,
    fun hl h0 hd hg hu h12 hm => ?_, fun h h12 ha ht => leaves_of_eq hs (injectionArmTime_arms h h12 ha ht),
    fun h hw => leaves_nothing hs (injectionArmTime_waits h hw), fun h => leaves_nothing hs (injectionArmTime_none h)⟩
  · rw [live hl, injCtlWrite_idle h0]
    exact leaves_inv (injCtl_inv hs v) rfl rfl
  · subst hv
    rw [live hl, injCtlWrite_arms rfl]
    exact leaves_of_inv (u := { s with regs := { s.regs with injCtl := 0 }, rep := { s.rep with inj := none } }) rfl (injCtl_inv hs 1)
  · rw [live hl, injCtlWrite_arms h0, injWriteChecks_detector hd, if_pos]
    · exact leaves_misuse hs _ rfl
    · rcases hbad with h | ⟨h, k⟩ | h | ⟨h, k⟩ | ⟨h, k⟩
      · simp [h]
      · simp [h, k]
      · simp [h]
      · simp [h, k]
      · simp [h, k]
  · have h0' := isDetector_ne_zero hd
    have small := isDetector_lt hd
    rw [live hl, injCtlWrite_arms h0, injWriteChecks_detector h0', if_neg]
    · obtain ⟨g, hx, hg⟩ := armInjection_now (mode := bitsNat v 1 1) (u := bitsNat v 16 16) (count := bitsNat v 32 32) (s := s) h0' (by omega) h12
      rw [hx, injCtl_fields]
      exact ⟨_, leaves_inv (injCtl_inv hs v) rfl rfl, rfl, rfl, hg, rfl⟩
    · have mode := Nat.mod_lt (v.toNat / 2 ^ 1) (show 0 < 2 ^ 1 by decide)
      rcases hg with hg | hg <;> rcases hm with ⟨hm, hc⟩ | ⟨hm, hc⟩ <;> simp [hd, hg, hu, hm, hc]

end Sys2Proof.Machine
end

section
/-! PROOFS. Work that waits for the tasks before it: resizes, repairs, self-tests; ageing (R254, R263, R478, R495). -/

namespace Sys2Proof.Machine

/-! ### What the berm forgets for a task -/

/-- The berm and the tasks alone have changed. -/
def ForgetOnly (s t : State) : Prop := t = { s with berm := t.berm, cmd := { s.cmd with tasks := t.cmd.tasks } }

theorem setBermCtr_sets (b : BermState) (v : BitVec 32) (k : Nat) : (setBermCtr b v k).sets = b.sets := by
  unfold setBermCtr
  split <;> rfl

theorem bermCount_task (k n id : Nat) (s : State) :
    ForgetOnly s (bermCount k n (.task id) s) ∧ (bermCount k n (.task id) s).berm.sets = s.berm.sets := by
  unfold bermCount
  simp only
  split
  · exact ⟨rfl, setBermCtr_sets _ _ _⟩
  · exact ⟨rfl, setBermCtr_sets _ _ _⟩

/-- How many of the sectors given up were filled ahead and not used. -/
def unusedOf (hit : Sector → Bool) (s : State) : Nat := (s.berm.sets.map (fun e => (e.2.filter (fun x => hit x && x.spec)).length)).sum

theorem unusedOf_none {hit : Sector → Bool} {s : State} (h : ∀ e ∈ s.berm.sets, ∀ x ∈ e.2, x.spec = false) : unusedOf hit s = 0 := by
  refine List.sum_eq_zero fun k hmem => ?_
  obtain ⟨e, he, rfl⟩ := List.mem_map.mp hmem
  rw [List.length_eq_zero_iff, List.filter_eq_nil_iff]
  exact fun x hx => by rw [h e he x hx, Bool.and_false]; exact Bool.false_ne_true

theorem bermForget_task (id : Nat) (hit : Sector → Bool) (s : State) :
    ForgetOnly s (bermForget (.task id) hit s) ∧
    (bermForget (.task id) hit s).berm.sets = (s.berm.sets.map (fun e => (e.1, e.2.filter (fun x => !hit x)))).filter (fun e => !e.2.isEmpty) ∧
    (unusedOf hit s = 0 → (bermForget (.task id) hit s).cmd.tasks = s.cmd.tasks) := by
  unfold bermForget bermDrop
  simp only
  split
  · exact ⟨rfl, rfl, fun _ => rfl⟩
  · rename_i h
    obtain ⟨hk, hsets⟩ := bermCount_task 3 (unusedOf hit s) id { s with
      berm := { s.berm with sets := (s.berm.sets.map (fun e => (e.1, e.2.filter (fun x => !hit x)))).filter (fun e => !e.2.isEmpty) } }
    refine ⟨?_, hsets, fun h0 => absurd h0 h⟩
    unfold unusedOf at hk
    generalize bermCount 3 _ (.task id) _ = u at *
    rw [ForgetOnly] at hk ⊢
    rw [hk]

theorem bermForget_all (id : Nat) (s : State) : (bermForget (.task id) (fun _ => true) s).berm.sets = [] := by
  rw [(bermForget_task id _ s).2.1]
  simp [List.filter_eq_nil_iff]

namespace ForgetOnly
variable {s t : State} (h : ForgetOnly s t)
include h

theorem tab : t.tab = s.tab := by rw [h]
theorem grad : t.grad = s.grad := by rw [h]
theorem strm : t.strm = s.strm := by rw [h]
theorem fab : t.fab = s.fab := by rw [h]
theorem rep : t.rep = s.rep := by rw [h]
theorem regs : t.regs = s.regs := by rw [h]
theorem dev : t.mem.dev = s.mem.dev := by rw [h]
theorem host : t.mem.host = s.mem.host := by rw [h]
theorem lists : t.hold.lists = s.hold.lists := by rw [h]

end ForgetOnly

/-! ### Resizes -/

theorem bermConfigApply_none {s : State} (h : runningWork s (fun w => w matches .bermConfig) = none) : bermConfigApply s = s := by
  unfold bermConfigApply
  split
  · rename_i ht
    cases ht.symm.trans h
  · rfl

theorem bermConfigApply_some {s : State} {t : Task} (h : runningWork s (fun w => w matches .bermConfig) = some t) :
    bermConfigApply s = if earlierGone s t.id then bermResize t s else s := by
  unfold bermConfigApply
  split
  · rename_i ht
    cases ht.symm.trans h
    rfl
  · rename_i ht
    cases ht.symm.trans h

/-- The berm of a new size, its fetches given up, before the scratchpad's part of it is cleared. -/
def resized (t : Task) (f : State) : State :=
  let u := fetchDrop (fun _ _ => true) f
  { u with berm := { u.berm with size := pf t.pkt 8 1, share := pf t.pkt 9 1, threshold := BitVec.ofNat 32 (pf t.pkt 12 4), test := none } }

/-- A resize drops part of the scratchpad of what it leaves of the berm, and ends its task. -/
theorem bermResize_of (t : Task) (s : State) : ∃ lo hi b, bermResize t s =
    finishOk t.id 0 (dropScratch lo hi b (resized t (bermForget (.task t.id) (fun _ => true) s))) := by
  unfold bermResize
  simp only
  split
  · exact ⟨_, _, _, rfl⟩
  · exact ⟨_, _, _, rfl⟩

/-- What a resize leaves as the berm's forgetting left it. -/
theorem resized_keeps (t : Task) (f : State) (lo hi : Nat) (b : Bool) :
    let u := dropScratch lo hi b (resized t f)
    u.berm.sets = f.berm.sets ∧ u.cmd.tasks = f.cmd.tasks ∧ u.mem.dev = f.mem.dev ∧ u.mem.host = f.mem.host ∧ u.tab = f.tab ∧ u.grad = f.grad ∧
    u.strm = f.strm ∧ u.hold.lists = f.hold.lists ∧ u.fab = f.fab ∧ u.rep = f.rep ∧ u.regs = f.regs :=
  ⟨rfl, rfl, rfl, rfl, rfl, rfl, rfl, rfl, rfl, rfl, rfl⟩

/-! ### Repairs -/

theorem repairApply_none {s : State} (h : runningWork s (fun w => w matches .repair) = none) : repairApply s = s := by
  unfold repairApply
  split
  · rfl
  · rename_i ht
    cases ht.symm.trans h

theorem repairApply_some {s : State} {t : Task} (h : runningWork s (fun w => w matches .repair) = some t) : repairApply s =
    if earlierGone s t.id then repairNow t.pkt (finishTask t.id (resultOf stOk 0) { s with rep := { s.rep with busy := none } }) else s := by
  unfold repairApply
  split
  · rename_i ht
    cases ht.symm.trans h
  · rename_i ht
    cases ht.symm.trans h
    rfl

/-- What a repair of a lane or polder changes: the repairs in service, the tasks marked, and two draws. -/
theorem repairNow_late {p : Packet} (s : State) (hl : 2 < pf p 8 1) : ∃ rep tasks draws,
    repairNow p s = { s with rep := rep, cmd := { s.cmd with tasks := tasks }, draws := draws } ∧ rep.busy = s.rep.busy ∧
    rep.soft = if pf p 9 1 = 0 then s.rep.soft ++ [⟨pf p 8 1, pf p 10 2, BitVec.ofNat 32 (pf p 12 4)⟩]
      else s.rep.soft.filter (fun r => !namesRepair p r) := by
  unfold repairNow
  simp only
  split
  · rw [if_neg (by omega)]
    exact ⟨_, _, _, rfl, rfl, rfl⟩
  · exact ⟨_, _, _, rfl, rfl, rfl⟩

/-! ### Self-tests -/

theorem selftestRun_none {found : List Finding} {s : State} (h : runningWork s (fun w => w matches .selftest) = none) : selftestRun found s = s := by
  unfold selftestRun
  split
  · rfl
  · rename_i ht
    cases ht.symm.trans h

theorem selftestRun_waits {found : List Finding} {s : State} {t : Task} (h : runningWork s (fun w => w matches .selftest) = some t)
    (he : earlierGone s t.id = false) : selftestRun found s = s := by
  unfold selftestRun
  split
  · rfl
  · rename_i ht
    cases ht.symm.trans h
    rw [he]
    rfl

/-- What the sets run leave where nothing is found: the berm's set drops every sector and the scratchpad. -/
def setsRun (mask id : Nat) (s : State) : State :=
  if mask / 4 % 2 = 1 then dropScratch 0 (scratchTop s) true (fetchDrop (fun _ _ => true) (bermForget (.task id) (fun _ => true) s)) else s

theorem runSets_clean (mask id : Nat) (s : State) : runSets mask [] (.task id) s = ⟨[], [], none, none, setsRun mask id s⟩ := rfl

theorem setsRun_keeps (mask id : Nat) (s : State) : (setsRun mask id s).rep = s.rep ∧ (setsRun mask id s).tab = s.tab ∧
    (setsRun mask id s).grad = s.grad ∧ (setsRun mask id s).mem.dev = s.mem.dev ∧
    ((∀ e ∈ s.berm.sets, ∀ x ∈ e.2, x.spec = false) → (setsRun mask id s).cmd.tasks = s.cmd.tasks) := by
  obtain ⟨hf, -, htasks⟩ := bermForget_task id (fun _ => true) s
  unfold setsRun
  split
  · exact ⟨hf.rep, hf.tab, hf.grad, hf.dev, fun h => htasks (unusedOf_none h)⟩
  · exact ⟨rfl, rfl, rfl, rfl, fun _ => rfl⟩

theorem selftestRun_clean {s u v y : State} {t : Task} {x : Xlat} {r : Bytes × State} (h : runningWork s (fun w => w matches .selftest) = some t)
    (he : earlierGone s t.id = true) (hd : (demand (pf t.pkt 12 8) true).go (some t.id) s = (.ok x, u))
    (hv : v = setsRun (pf t.pkt 8 1) t.id { s with rep := { s.rep with busy := none } })
    (hr : r = selftestBlock (pf t.pkt 8 1) ⟨[], [], none, none, v⟩ v) (hw : (writeVa (pf t.pkt 12 8) r.1).go (some t.id) r.2 = (.ok (), y)) :
    selftestRun [] s = finishTask t.id ⟨stOk, 0, 0, BitVec.ofNat 32 ((List.range 6).filter (fun k => pf t.pkt 8 1 / 2 ^ k % 2 == 1)).length⟩ y := by
  unfold selftestRun
  split
  · rename_i ht
    cases ht.symm.trans h
  · rename_i ht
    cases ht.symm.trans h
    rw [he, hd]
    simp only [Bool.not_true, Bool.false_eq_true, if_false, runSets_clean, ← hv, ← hr]
    unfold runTask
    rw [go_bind_ok _ hw]
    rfl

/-! ### Ageing -/

theorem bermCount_nobody (k n : Nat) (s : State) : ∃ b, bermCount k n .nobody s = { s with berm := b } ∧ b.sets = s.berm.sets := by
  unfold bermCount
  simp only
  split
  · exact ⟨_, rfl, setBermCtr_sets _ _ _⟩
  · exact ⟨_, rfl, setBermCtr_sets _ _ _⟩

theorem bermAgeing_running {s : State} (h : s.boot.inReset = false) :
    ∃ b, bermAgeing s = { s with berm := b } ∧ b.sets = s.berm.sets.map (fun e => (e.1, e.2.map (ageSector s.berm.threshold))) := by
  unfold bermAgeing
  rw [h]
  obtain ⟨b, hb, hsets⟩ := bermCount_nobody 6 _ _
  exact ⟨b, hb, hsets⟩

/-! ### The statement -/

/-- Settles O12. -/
theorem drainedWorkRuns : Obligations.DrainedWorkRuns := by
  intro s t found hs
  refine ⟨fun h => leaves_nothing hs (bermConfigApply_none h), fun h he => leaves_nothing hs ?_, fun h he => ?_,
    fun h => leaves_nothing hs (repairApply_none h), fun h he => leaves_nothing hs ?_, fun h he hl => ?_,
    fun h => leaves_nothing hs (selftestRun_none h), fun h he => leaves_nothing hs (selftestRun_waits h he),
    fun x u y v r h he hd hv hr hw => ?_, fun h => leaves_nothing hs (if_pos h), fun h => ?_⟩
  · rw [bermConfigApply_some h, he]
    rfl
  · obtain ⟨lo, hi, b, hr⟩ := bermResize_of t s
    have run : exec .bermConfigApply s =
        leaves s (finishOk t.id 0 (dropScratch lo hi b (resized t (bermForget (.task t.id) (fun _ => true) s)))) := by
      rw [← hr]
      exact congrArg (leaves s) ((bermConfigApply_some h).trans (if_pos he))
    obtain ⟨hf, -, htasks⟩ := bermForget_task t.id (fun _ => true) s
    have hall := bermForget_all t.id s
    rw [run]
    generalize bermForget (.task t.id) (fun _ => true) s = f at *
    obtain ⟨ksets, ktasks, kdev, khost, ktab, kgrad, kstrm, klists, kfab, krep, kregs⟩ := resized_keeps t f lo hi b
    have sizes : (dropScratch lo hi b (resized t f)).berm.size = pf t.pkt 8 1 ∧ (dropScratch lo hi b (resized t f)).berm.share = pf t.pkt 9 1 ∧
        (dropScratch lo hi b (resized t f)).berm.threshold = BitVec.ofNat 32 (pf t.pkt 12 4) := ⟨rfl, rfl, rfl⟩
    generalize dropScratch lo hi b (resized t f) = u at *
    refine ⟨_, rfl, sizes.1, sizes.2.1, sizes.2.2, ksets.trans hall, fun hx => ?_, kdev.trans hf.dev, khost.trans hf.host, ktab.trans hf.tab,
      kgrad.trans hf.grad, kstrm.trans hf.strm, klists.trans hf.lists, kfab.trans hf.fab, krep.trans hf.rep,
      (congrArg Regs.tidy (kregs.trans hf.regs)).trans hs.tidy⟩
    exact congrArg (List.map _) (ktasks.trans (htasks (unusedOf_none hx)))
  · rw [repairApply_some h, he]
    rfl
  · obtain ⟨rep, tasks, draws, hr, hb, hsoft⟩ := repairNow_late (finishTask t.id (resultOf stOk 0) { s with rep := { s.rep with busy := none } }) hl
    have run : exec .repairApplyPoint s = leaves s (repairNow t.pkt (finishTask t.id (resultOf stOk 0) { s with rep := { s.rep with busy := none } })) :=
      congrArg (leaves s) ((repairApply_some h).trans (if_pos he))
    rw [run, hr]
    exact ⟨_, rfl, hb, fun h0 => hsoft.trans (if_pos h0), fun h0 => hsoft.trans (if_neg h0), rfl, rfl, rfl, rfl, rfl, rfl, rfl⟩
  · have hv' : v = setsRun (pf t.pkt 8 1) t.id { s with rep := { s.rep with busy := none } } := hv
    obtain ⟨hrep, htab, hgrad, hdev, htasks⟩ := setsRun_keeps (pf t.pkt 8 1) t.id { s with rep := { s.rep with busy := none } }
    rw [← hv'] at hrep htab hgrad hdev htasks
    exact ⟨congrArg (leaves s) (selftestRun_clean h he hd hv' hr hw), hrep, htab, hgrad, hdev, htasks⟩
  · obtain ⟨b, hb, hsets⟩ := bermAgeing_running h
    refine ⟨{ s with berm := b }, leaves_of_eq hs hb, hsets, fun e he x hx => ?_, rfl⟩
    rw [hsets] at he
    obtain ⟨e', -, rfl⟩ := List.mem_map.mp he
    obtain ⟨y, -, rfl⟩ := List.mem_map.mp hx
    exact ⟨y, rfl⟩

end Sys2Proof.Machine
end

section
/-! PROOFS. Tests of polder lanes, control-SRAM macros and berm macros (R277, R278, R461, R462). -/

namespace Sys2Proof.Machine

/-! ### A part retired -/

/-- A record of severity 1 or 2 raises event 1. -/
theorem logErr_irqPend {e : ErrRec} (s : State) (h : e.sev ≠ 0) : (logErr e s).regs.irqPend = s.regs.irqPend ||| 2 := by
  have emitted : ∀ (held : BitVec 32) (u : State), (logErr.emit e held u).regs.irqPend = u.regs.irqPend ||| 2 := by
    intro held u
    obtain ⟨t, ht⟩ := logErr_emit_eq e held u
    have kept : (countSev e.sev (recordWritten e held (quietNoted e.det t u))).regs = u.regs :=
      (numberAll_regs e.conts _).trans ((numberRecord_regs _ _).trans (quietNoted_frame _ _ _).2)
    rw [ht, if_neg h, raiseEvent_irqPend, kept]
    rfl
  unfold logErr
  simp only
  split
  · rw [if_neg (fun k => h k.1)]
    exact emitted _ _
  · exact emitted _ _

/-- A record of a part retired, with the running tasks marked and the repair added. -/
def retired (level unit det : Nat) (e : ErrRec) (s : State) : State :=
  addSoft level unit 0 (degradeTasks det (nextErrIdx s) (logErr e s))

/-- What retiring a part changes. -/
structure Retires (level unit det : Nat) (s t : State) : Prop where
  inv : t.Inv
  fuses : t.fuses = s.fuses
  pending : t.pending = s.pending
  soft : t.rep.soft = s.rep.soft ++ [⟨level, unit, 0⟩]
  prod : t.rep.prod = s.rep.prod + 1
  sev1 : t.rep.sev1 = satAdd s.rep.sev1 1
  tasks : t.cmd.tasks = (degradeTasks det (nextErrIdx s) s).cmd.tasks
  event : t.regs.irqPend = s.regs.irqPend ||| 2
  laneTest : t.rep.laneTest = s.rep.laneTest
  csramTest : t.rep.csramTest = s.rep.csramTest
  tab : t.tab = s.tab
  hold : t.hold = s.hold
  grad : t.grad = s.grad
  berm : t.berm = s.berm
  strm : t.strm = s.strm
  xl : t.xl = s.xl
  fab : t.fab = s.fab
  scratch : t.mem.scratch = s.mem.scratch

theorem degradeTasks_ids {det : Nat} {idx : BitVec 16} {s : State} {n : Nat} (h : ∀ t ∈ s.cmd.tasks, t.id < n) :
    ∀ t ∈ (degradeTasks det idx s).cmd.tasks, t.id < n := by
  intro t ht
  obtain ⟨x, hx, rfl⟩ := List.mem_map.mp ht
  split
  · exact h x hx
  · exact h x hx

theorem retired_retires {s : State} (hs : s.Inv) (level unit det : Nat) {e : ErrRec} (hc : e.conts = []) (h : e.sev = 1) :
    Retires level unit det s (retired level unit det e s) := by
  have h0 : e.sev ≠ 0 := by omega
  obtain ⟨hprod, -, hsev1, -⟩ := logErr_counted s hc h0
  have hinv := logErr_inv e hs
  have htasks : (degradeTasks det (nextErrIdx s) (logErr e s)).cmd.tasks = (degradeTasks det (nextErrIdx s) s).cmd.tasks :=
    congrArg (List.map _) (logErr_tasks e s)
  exact ⟨⟨hinv.1, degradeTasks_ids hinv.2⟩, logErr_fuses e s, logErr_pending e s, congrArg (· ++ _) (logErr_soft e s), hprod,
    hsev1.trans (if_pos h), htasks, logErr_irqPend s h0, logErr_laneTest e s, logErr_csramTest e s, logErr_tab e s, logErr_hold e s, logErr_grad e s,
    logErr_berm e s, logErr_strm e s, logErr_xl e s, logErr_fab e s, logErr_mem_scratch e s⟩

/-! ### Lanes -/

theorem laneTest_barred {p : Nat} {s : State} (h : s.boot.inReset = true ∨ s.rep.failed = true ∨ 8 ≤ p ∨ laneFree s (physOf s p) = false) :
    laneTest p s = s := by
  refine if_pos ?_
  rcases h with h | h | h | h
  · simp [h]
  · simp [h]
  · simp [h]
  · simp [h]

theorem laneTest_starts {p : Nat} {s : State} (hr : s.boot.inReset = false) (hf : s.rep.failed = false) (hp : p < 8)
    (hl : laneFree s (physOf s p) = true) (ht : (s.rep.laneTest[p]?).getD none = none) : laneTest p s = { s with rep := { s.rep with
      laneTest := s.rep.laneTest.set p (some ((s.rep.nextLane[p]?).getD 0))
      nextLane := s.rep.nextLane.set p (((s.rep.nextLane[p]?).getD 0 + 1) % 17) } } :=
  if_neg (by simp [hr, hf, hl, ht]; omega)

/-- The state with a lane test over. -/
def laneTested (p : Nat) (s : State) : State := { s with rep := { s.rep with laneTest := s.rep.laneTest.set p none } }

theorem laneTestEnd_none {p : Nat} {s : State} (h : (s.rep.laneTest[p]?).getD none = none) (b : Bool) : laneTestEnd p b s = s := by
  simp only [laneTestEnd, h]

theorem laneTestEnd_some {p k : Nat} {s : State} (hi : s.rep.inj = none) (h : (s.rep.laneTest[p]?).getD none = some k) (b : Bool) :
    laneTestEnd p b s = if b then laneTested p s else laneFails (physOf s p) k (laneTested p s) := by
  have clean := injectAt_none (s := laneTested p s) 0x04 (laneUnit (physOf s p) k) hi
  unfold laneTestEnd
  simp only [h]
  unfold laneTested at clean
  rw [clean]
  rfl

theorem laneFails_free {q k : Nat} {s : State} (h : laneFree s q = true) : ∃ e : ErrRec, e.conts = [] ∧ e.sev = 1 ∧
    laneFails q k s = retired 3 (laneUnit q k) 0x04 e s := by
  unfold laneFails
  simp only [h, if_true]
  exact ⟨_, rfl, rfl, rfl⟩

/-! ### Control-SRAM macros -/

theorem csramTest_barred {p : Nat} {s : State} (h : s.boot.inReset = true ∨ s.rep.failed = true ∨ 8 ≤ p ∨ csramFree s (physOf s p) = false) :
    csramTest p s = s := by
  refine if_pos ?_
  rcases h with h | h | h | h
  · simp [h]
  · simp [h]
  · simp [h]
  · simp [h]

theorem csramTest_starts {p : Nat} {s : State} (hr : s.boot.inReset = false) (hf : s.rep.failed = false) (hp : p < 8)
    (hl : csramFree s (physOf s p) = true) (ht : (s.rep.csramTest[p]?).getD none = none) : csramTest p s = { s with rep := { s.rep with
      csramTest := s.rep.csramTest.set p (some ((s.rep.nextCsram[p]?).getD 0))
      nextCsram := s.rep.nextCsram.set p (((s.rep.nextCsram[p]?).getD 0 + 1) % 8) } } :=
  if_neg (by simp [hr, hf, hl, ht]; omega)

/-- The state with a control-SRAM test over. -/
def csramTested (p : Nat) (s : State) : State := { s with rep := { s.rep with csramTest := s.rep.csramTest.set p none } }

theorem csramTestEnd_none {p : Nat} {s : State} (h : (s.rep.csramTest[p]?).getD none = none) (o : TestOutcome) : csramTestEnd p o s = s := by
  simp only [csramTestEnd, h]

theorem csramTestEnd_pass {p k : Nat} {s : State} (hi : s.rep.inj = none) (h : (s.rep.csramTest[p]?).getD none = some k) :
    csramTestEnd p .pass s = csramTested p s := by
  have clean := injectAt_none (s := csramTested p s) 0x06 (csramUnit (physOf s p) k) hi
  unfold csramTestEnd
  simp only [h]
  unfold csramTested at clean
  rw [clean]
  rfl

theorem spareMacro_retires (det unit logical : Nat) (s : State) : ∃ e : ErrRec, e.conts = [] ∧ e.sev = 1 ∧
    spareMacro det unit logical s = retired 2 unit det e s := ⟨_, rfl, rfl, rfl⟩

theorem csramTestEnd_fail {p k : Nat} {s : State} (hi : s.rep.inj = none) (h : (s.rep.csramTest[p]?).getD none = some k)
    (hf : csramFree s (physOf s p) = true) : csramTestEnd p .fail s = spareMacro 0x06 (csramUnit (physOf s p) k) k (csramTested p s) := by
  have clean := injectAt_none (s := csramTested p s) 0x06 (csramUnit (physOf s p) k) hi
  have free : csramFree (csramTested p s) (physOf s p) = true := hf
  unfold csramTestEnd
  simp only [h]
  unfold csramTested at clean free ⊢
  rw [clean]
  simp only [free, Bool.false_eq_true, if_false, if_true]

/-! ### The berm's macros -/

theorem bermMacroTest_barred {s : State} (h : s.boot.inReset = true ∨ s.rep.failed = true ∨ s.berm.test.isSome = true) : bermMacroTest s = s := by
  refine if_pos ?_
  rcases h with h | h | h
  · simp [h]
  · simp [h]
  · simp [h]

/-- The state with the turn of the tests moved on. -/
def macroPassed (s : State) : State :=
  { s with berm := { s.berm with nextMacro := (s.berm.nextMacro % bermMacros s + 1) % bermMacros s } }

section
variable {s : State} (hr : s.boot.inReset = false) (hf : s.rep.failed = false) (ht : s.berm.test = none)
include hr hf ht

theorem bermMacroTest_withdrawn (hw : s.berm.withdrawn.contains (s.berm.nextMacro % bermMacros s) = true) : bermMacroTest s = macroPassed s :=
  (if_neg (by simp [hr, hf, ht])).trans (if_pos hw)

theorem bermMacroTest_spare (hw : s.berm.withdrawn.contains (s.berm.nextMacro % bermMacros s) = false)
    (hl : llsFree s (s.berm.nextMacro % bermMacros s % 8) = true) :
    bermMacroTest s = { macroPassed s with berm := { (macroPassed s).berm with test := some ⟨s.berm.nextMacro % bermMacros s, true, []⟩ } } :=
  (if_neg (by simp [hr, hf, ht])).trans ((if_neg (by rw [hw]; exact Bool.false_ne_true)).trans (if_pos hl))

end

/-- The state with the berm's test over. -/
def bermTested (s : State) : State := { s with berm := { s.berm with test := none } }

theorem bermTestEnd_none {s : State} (h : s.berm.test = none) (o : TestOutcome) : bermTestEnd o s = s := by
  simp only [bermTestEnd, h]

theorem bermTestEnd_pass {s : State} {x : MacroTest} (hi : s.rep.inj = none) (h : s.berm.test = some x) :
    bermTestEnd .pass s = refill x (bermTested s) := by
  have clean := injectAt_none (s := bermTested s) 0x07 (bermUnit x.unit) hi
  unfold bermTestEnd
  simp only [h]
  unfold bermTested at clean
  rw [clean]
  rfl

theorem bermTestEnd_fail {s : State} {x : MacroTest} (hi : s.rep.inj = none) (h : s.berm.test = some x) (hx : x.spare = true)
    (hf : llsFree s (x.unit % 8) = true) : bermTestEnd .fail s = spareMacro 0x07 (bermUnit x.unit) x.unit (bermTested s) := by
  have clean := injectAt_none (s := bermTested s) 0x07 (bermUnit x.unit) hi
  have free : llsFree (bermTested s) (x.unit % 8) = true := hf
  unfold bermTestEnd
  simp only [h]
  unfold bermTested at clean free ⊢
  rw [clean]
  simp only [free, hx, Bool.and_self, Bool.false_eq_true, if_false, if_true]

/-! ### The statements -/

/-- Settles O8. -/
theorem polderTestsRun : Obligations.PolderTestsRun := by
  intro s p k o b hs
  refine ⟨fun h => ⟨leaves_nothing hs (laneTest_barred ?_), leaves_nothing hs (csramTest_barred ?_)⟩, fun h => leaves_nothing hs (laneTestEnd_none h b),
    fun h => leaves_nothing hs (csramTestEnd_none h o), fun h => leaves_nothing hs (laneTest_barred (.inr (.inr (.inr h)))),
    fun h => leaves_nothing hs (csramTest_barred (.inr (.inr (.inr h)))), fun hr hf hp hl ht => leaves_of_eq hs (laneTest_starts hr hf hp hl ht),
    fun hr hf hp hl ht => leaves_of_eq hs (csramTest_starts hr hf hp hl ht),
    fun hi h => ⟨leaves_of_eq hs (laneTestEnd_some hi h true), fun hl => ?_⟩, fun hi h => ⟨leaves_of_eq hs (csramTestEnd_pass hi h), fun hl => ?_⟩⟩
  · rcases h with h | h | h
    · exact .inl h
    · exact .inr (.inl h)
    · exact .inr (.inr (.inl h))
  · rcases h with h | h | h
    · exact .inl h
    · exact .inr (.inl h)
    · exact .inr (.inr (.inl h))
  · obtain ⟨e, hc, he, hfails⟩ := laneFails_free (k := k) (s := laneTested p s) hl
    have r := retired_retires (s := laneTested p s) hs 3 (laneUnit (physOf s p) k) 0x04 hc he
    exact ⟨_, leaves_of_inv ((laneTestEnd_some hi h false).trans hfails) r.inv r.fuses r.pending, r.laneTest, r.soft, r.prod, r.sev1, r.tasks, r.event,
      r.tab, r.hold, r.grad, r.berm, r.strm, r.xl, r.fab, r.fuses⟩
  · obtain ⟨e, hc, he, hfails⟩ := spareMacro_retires 0x06 (csramUnit (physOf s p) k) k (csramTested p s)
    have r := retired_retires (s := csramTested p s) hs 2 (csramUnit (physOf s p) k) 0x06 hc he
    exact ⟨_, leaves_of_inv ((csramTestEnd_fail hi h hl).trans hfails) r.inv r.fuses r.pending, r.csramTest, r.soft, r.prod, r.sev1, r.tasks,
      r.tab, r.hold, r.grad, r.berm, r.strm, r.xl, r.fab, r.fuses⟩

/-- Settles O9. -/
theorem bermTestsRun : Obligations.BermTestsRun := by
  intro s o m l hs
  refine ⟨fun h => leaves_nothing hs (bermMacroTest_barred h), fun h => leaves_nothing hs (bermTestEnd_none h o),
    fun hr hf ht hm => ⟨fun hw => leaves_of_eq hs ?_, fun hw hl => leaves_of_eq hs ?_⟩,
    fun hi h => ⟨congrArg (leaves s) (bermTestEnd_pass hi h), fun hl => leaves_of_eq hs ?_, fun hl => ?_⟩⟩
  · subst hm
    exact bermMacroTest_withdrawn hr hf ht hw
  · subst hm
    exact bermMacroTest_spare hr hf ht hw hl
  · rw [bermTestEnd_pass hi h, hl]
    rfl
  · obtain ⟨e, hc, he, hfails⟩ := spareMacro_retires 0x07 (bermUnit m) m (bermTested s)
    have r := retired_retires (s := bermTested s) hs 2 (bermUnit m) 0x07 hc he
    exact ⟨_, leaves_of_inv ((bermTestEnd_fail hi h rfl hl).trans hfails) r.inv r.fuses r.pending, r.berm, r.soft, r.prod, r.sev1, r.tasks,
      r.tab, r.hold, r.scratch⟩

end Sys2Proof.Machine
end

section
/-! PROOFS. The sluice and the failed engine (R101 to R105, R469). -/

namespace Sys2Proof.Machine

/-! ### Words (R102) -/

/-- Slots that an index takes. -/
def slotsPer (wide : Bool) : Nat := if wide then 2 else 1

theorem indexSlots_length (wide : Bool) (x : Nat) : (indexSlots wide x).length = slotsPer wide := by
  cases wide <;> rfl

theorem slots_length (wide : Bool) (l : List (Nat × F32)) : (l.flatMap (fun x => indexSlots wide x.1)).length = slotsPer wide * l.length := by
  induction l with
  | nil => rfl
  | cons x l ih =>
    rw [List.flatMap_cons, List.length_append, indexSlots_length, ih, List.length_cons, Nat.mul_succ, Nat.add_comm]

/-- The valid slots of a word are its first ones. -/
theorem valid_slots {n : Nat} (hn : n ≤ 16) :
    ((List.range 16).filter (fun k => (BitVec.ofNat 64 (2 ^ (4 * n) - 1)).getLsbD (4 * k))).length = n := by
  have valid : ∀ k ∈ List.range 16, (BitVec.ofNat 64 (2 ^ (4 * n) - 1)).getLsbD (4 * k) = decide (k < n) := by
    intro k hk
    have hk := List.mem_range.mp hk
    rw [BitVec.getLsbD_ofNat, Nat.testBit_two_pow_sub_one]
    simp only [decide_eq_true (show 4 * k < 64 by omega), Bool.true_and, decide_eq_decide]
    omega
  rw [List.filter_congr valid]
  interval_cases n <;> rfl

theorem packWord_count {task num : Nat} {wide last : Bool} {l : List (Nat × F32)} (hl : l.length ≤ wordCap wide) :
    (packWord task num wide last l).count = l.length := by
  have fits : slotsPer wide * l.length ≤ 16 := by
    cases wide <;> simp only [wordCap, slotsPer, Bool.false_eq_true, if_false, if_true] at hl ⊢ <;> omega
  have counted := valid_slots fits
  rw [← slots_length wide l] at counted
  unfold SluiceWord.count packWord
  simp only
  rw [counted, slots_length]
  cases wide
  · simp [slotsPer]
  · simp [slotsPer]

theorem slots_at {wide : Bool} {l : List (Nat × F32)} {k : Nat} {x : Nat × F32} (h : l[k]? = some x) (j : Nat) (hj : j < slotsPer wide) :
    (l.flatMap (fun x => indexSlots wide x.1))[slotsPer wide * k + j]? = (indexSlots wide x.1)[j]? := by
  induction l generalizing k with
  | nil => cases h
  | cons y l ih =>
    cases k with
    | zero =>
      cases h
      rw [List.flatMap_cons, Nat.mul_zero, Nat.zero_add, List.getElem?_append_left (by rw [indexSlots_length]; exact hj)]
    | succ k =>
      have far : slotsPer wide * (k + 1) + j - slotsPer wide = slotsPer wide * k + j := by rw [Nat.mul_succ]; omega
      rw [List.flatMap_cons, List.getElem?_append_right (by rw [indexSlots_length, Nat.mul_succ]; omega), indexSlots_length, far]
      exact ih h

theorem packWord_index {task num : Nat} {wide last : Bool} {l : List (Nat × F32)} {k : Nat} {x : Nat × F32} (h : l[k]? = some x)
    (hx : x.1 < 2 ^ (if wide then 64 else 32)) : (packWord task num wide last l).index k = x.1 := by
  have at_ : ∀ j < slotsPer wide, ((packWord task num wide last l).slots[slotsPer wide * k + j]?) = (indexSlots wide x.1)[j]? := by
    intro j hj
    have found := slots_at (wide := wide) h j hj
    have inside : slotsPer wide * k + j < (l.flatMap (fun x => indexSlots wide x.1)).length := by
      have within : j < (indexSlots wide x.1).length := by rw [indexSlots_length]; exact hj
      rw [List.getElem?_eq_getElem within] at found
      exact (List.getElem?_eq_some_iff.mp found).1
    rw [← found]
    exact List.getElem?_append_left inside
  cases wide with
  | false =>
    have low := at_ 0 (by decide)
    simp only [slotsPer, Bool.false_eq_true, if_false, Nat.one_mul, Nat.add_zero] at low hx
    have narrow : (packWord task num false last l).index k = (((packWord task num false last l).slots[k]?).getD 0).toNat := rfl
    rw [narrow, low]
    exact Nat.mod_eq_of_lt hx
  | true =>
    have low := at_ 0 (by decide)
    have high := at_ 1 (by decide)
    simp only [slotsPer, if_true, Nat.add_zero] at low high hx
    have both : (packWord task num true last l).index k = (((packWord task num true last l).slots[2 * k]?).getD 0).toNat +
        (((packWord task num true last l).slots[2 * k + 1]?).getD 0).toNat * 2 ^ 32 := rfl
    rw [both, low, high]
    change x.1 % 2 ^ 32 + x.1 / 2 ^ 32 % 2 ^ 32 * 2 ^ 32 = x.1
    omega

theorem packWord_weight {task num : Nat} {wide last : Bool} {l : List (Nat × F32)} {k : Nat} {x : Nat × F32} (h : l[k]? = some x) :
    ((packWord task num wide last l).wslots[k]?).getD 0 = x.2 := by
  have weights : (packWord task num wide last l).wslots = l.map (·.2) ++ List.replicate (16 - l.length) 0 := rfl
  have inside : k < (l.map (·.2)).length := by
    rw [List.length_map]
    exact (List.getElem?_eq_some_iff.mp h).1
  rw [weights, List.getElem?_append_left inside, List.getElem?_map, h]
  rfl

/-- What is read of a word is what was packed into it. -/
theorem packWord_indices {task num : Nat} {wide last : Bool} {l : List (Nat × F32)} (hl : l.length ≤ wordCap wide)
    (hx : ∀ x ∈ l, x.1 < 2 ^ (if wide then 64 else 32)) : (packWord task num wide last l).indices = l := by
  refine List.ext_getElem? fun k => ?_
  unfold SluiceWord.indices
  rw [packWord_count hl, List.getElem?_map]
  rcases Nat.lt_or_ge k l.length with hk | hk
  · have found := List.getElem?_eq_getElem hk
    rw [List.getElem?_range hk, Option.map_some, packWord_index found (hx _ (List.getElem_mem hk)), packWord_weight found, found]
  · rw [List.getElem?_eq_none (by rw [List.length_range]; exact hk), List.getElem?_eq_none hk]
    rfl

theorem packWindow_indices {task num : Nat} {wide : Bool} (n : Nat) (l : List (Nat × F32)) (hn : l.length ≤ n)
    (hx : ∀ x ∈ l, x.1 < 2 ^ (if wide then 64 else 32)) : (packWindow task num wide n l).flatMap (·.indices) = l := by
  induction n generalizing l with
  | zero =>
    rw [List.length_eq_zero_iff.mp (Nat.le_zero.mp hn)]
    rfl
  | succ n ih =>
    have cap : 0 < wordCap wide := by cases wide <;> decide
    unfold packWindow
    split
    · rename_i h
      rw [List.isEmpty_iff.mp h]
      rfl
    · have rest := ih (l.drop (wordCap wide)) (by rw [List.length_drop]; omega) fun x h => hx x (List.mem_of_mem_drop h)
      simp only [List.flatMap_cons]
      rw [rest, packWord_indices (List.length_take_le _ _) fun x h => hx x (List.mem_of_mem_take h), List.take_append_drop]

/-! ### Banks and pointers (R104, R105) -/

theorem agree_iff (x : Sluice) : x.agree = true ↔ x.ptrs = x.ptrs2 := beq_iff_eq

theorem setBank_ptrs (b : Bool) (l : List SluiceWord) (x : Sluice) : (x.setBank b l).ptrs = x.ptrs ∧ (x.setBank b l).ptrs2 = x.ptrs2 := by
  unfold Sluice.setBank
  split <;> exact ⟨rfl, rfl⟩

theorem move_agrees {f : SluicePtrs → SluicePtrs} {x : Sluice} (h : x.ptrs = x.ptrs2) : (x.move f).ptrs = (x.move f).ptrs2 := congrArg f h

theorem setBank_agrees {b : Bool} {l : List SluiceWord} {x : Sluice} (h : x.ptrs = x.ptrs2) : (x.setBank b l).ptrs = (x.setBank b l).ptrs2 := by
  rw [(setBank_ptrs b l x).1, (setBank_ptrs b l x).2, h]

theorem putWord_agrees {w : SluiceWord} {x : Sluice} (h : x.ptrs = x.ptrs2) : (x.putWord w).ptrs = (x.putWord w).ptrs2 :=
  move_agrees (setBank_agrees h)

theorem write_agrees {o : SluiceOffer} {x : Sluice} (h : x.ptrs = x.ptrs2) : (x.write o).ptrs = (x.write o).ptrs2 := by
  unfold Sluice.write
  simp only
  split
  · exact putWord_agrees h
  · exact h

theorem read_agrees {x : Sluice} (h : x.ptrs = x.ptrs2) : x.read.ptrs = x.read.ptrs2 := by
  unfold Sluice.read
  split
  · split
    · exact h
    · simp only
      split
      · exact move_agrees (x := { x.setBank _ _ with taken := 0 }) (setBank_agrees h)
      · exact move_agrees (x := { x.setBank _ _ with taken := 0 }) (setBank_agrees h)
  · exact h

theorem handOver_agrees {b : Bool} {x : Sluice} (h : x.ptrs = x.ptrs2) : (x.handOver b).ptrs = (x.handOver b).ptrs2 := by
  unfold Sluice.handOver
  simp only
  split
  · exact move_agrees h
  · exact h

theorem cycle_agrees {take : Bool} {o : Option SluiceOffer} {x : Sluice} (h : x.ptrs = x.ptrs2) : (x.cycle take o).ptrs = (x.cycle take o).ptrs2 := by
  have taken : (if take then x.read else x).ptrs = (if take then x.read else x).ptrs2 := by
    split
    · exact read_agrees h
    · exact h
  unfold Sluice.cycle
  refine handOver_agrees ?_
  split
  · exact write_agrees taken
  · exact taken

theorem cycle_stalled {o : SluiceOffer} {x : Sluice} (h : x.writeStalled = true) : x.cycle false (some o) = x.cycle false none := by
  unfold Sluice.cycle
  simp only [h, if_true]

/-! ### A mismatch -/

theorem sluiceMismatch_barred {p : Nat} {s : State} (h : s.boot.inReset = true ∨ s.rep.failed = true ∨ 8 ≤ p) : sluiceMismatch p s = s := by
  refine if_pos ?_
  rcases h with h | h | h
  · simp [h]
  · simp [h]
  · simp [h]

theorem sluiceMismatch_of {p : Nat} {s u : State} {idx : BitVec 16} (hr : s.boot.inReset = false) (hf : s.rep.failed = false) (hp : p < 8)
    (h : sluiceReset p (sluiceTasks s p).head? false s = (idx, u)) :
    sluiceMismatch p s = strikeOut p 0x03 ((sluiceTasks s p).foldl (fun w id => stopLookup id (rHw 0x03 idx) w) u) := by
  have runs : (s.boot.inReset || s.rep.failed || decide (8 ≤ p)) = false := by
    rw [hr, hf, decide_eq_false (by omega)]
    rfl
  simp only [sluiceMismatch, runs, h, Bool.false_eq_true, if_false]

/-- The state with a polder's sluice cleared, and its strikes as given. -/
def sluiceCleared (p : Nat) (l : List (Nat × Word)) (u : State) : State :=
  { u with
    hold := { u.hold with sluice := u.hold.sluice.zipIdx.map (fun (x, k) => if k = p then Sluice.empty else x) }
    rep := { u.rep with strikes := l } }

theorem sluiceReset_real (p : Nat) (s : State) : ∃ e : ErrRec, e.conts = [] ∧ e.sev = 2 ∧
    sluiceReset p none false s = (nextErrIdx s, sluiceCleared p ((logErr e s).rep.strikes ++ [(p, tick (logErr e s))]) (logErr e s)) :=
  ⟨_, rfl, rfl, rfl⟩

theorem logErr_strikes (e : ErrRec) (s : State) : (logErr e s).rep.strikes = s.rep.strikes := by rw [← (logErr_logOnly e s).repair]

theorem logErr_tick (e : ErrRec) (s : State) : tick (logErr e s) = tick s := by rw [tick, tick, logErr_time]

theorem usSince_now (s : State) : usSince s (tick s) = 0 := by
  rw [usSince, BitVec.sub_self]
  rfl

/-- What a strike short of the fourth leaves. -/
theorem strikeOut_spared {p det : Nat} {s : State}
    (h : ((s.rep.strikes.filter (fun x => decide (usSince s x.2 < 1000000))).filter (fun x => x.1 == p)).length < 4) :
    strikeOut p det s = { s with rep := { s.rep with strikes := s.rep.strikes.filter (fun x => decide (usSince s x.2 < 1000000)) } } :=
  if_neg (Nat.not_le.mpr h)

/-- A mismatch with no task in the sluice and few strikes: a record, the sluice cleared, one strike more. -/
theorem sluiceMismatch_spared {p : Nat} {s : State} (hr : s.boot.inReset = false) (hf : s.rep.failed = false) (hp : p < 8)
    (hn : sluiceTasks s p = []) (h3 : (s.rep.strikes.filter (fun x => x.1 == p && decide (usSince s x.2 < 1000000))).length < 3) :
    ∃ (e : ErrRec) (l : List (Nat × Word)), e.conts = [] ∧ e.sev = 2 ∧ (p, tick s) ∈ l ∧ sluiceMismatch p s = sluiceCleared p l (logErr e s) := by
  obtain ⟨e, hc, he, hreset⟩ := sluiceReset_real p s
  have since : ∀ t, usSince (logErr e s) t = usSince s t := fun t => by rw [usSince, usSince, logErr_tick]
  have none_in : (sluiceTasks s p).head? = none := by rw [hn]; rfl
  rw [← none_in, logErr_strikes, logErr_tick] at hreset
  have run := sluiceMismatch_of hr hf hp hreset
  rw [hn] at run
  have few : (((s.rep.strikes ++ [(p, tick s)]).filter (fun x => decide (usSince s x.2 < 1000000))).filter (fun x => x.1 == p)).length < 4 := by
    rw [List.filter_filter, List.filter_append, List.length_append]
    have last : ([(p, tick s)].filter (fun x => x.1 == p && decide (usSince s x.2 < 1000000))).length ≤ 1 := List.length_filter_le _ _
    omega
  have spared := strikeOut_spared (p := p) (det := 0x03) (s := sluiceCleared p (s.rep.strikes ++ [(p, tick s)]) (logErr e s))
    (by
      have same : ∀ t, usSince (sluiceCleared p (s.rep.strikes ++ [(p, tick s)]) (logErr e s)) t = usSince s t := since
      simp only [same]
      exact few)
  refine ⟨e, _, hc, he, ?_, run.trans spared⟩
  have same : ∀ t, usSince (sluiceCleared p (s.rep.strikes ++ [(p, tick s)]) (logErr e s)) t = usSince s t := since
  simp only [same]
  refine List.mem_filter.mpr ⟨List.mem_append_right _ (List.mem_singleton.mpr rfl), ?_⟩
  rw [usSince_now]
  rfl

theorem sluiceCleared_inv {p : Nat} {l : List (Nat × Word)} {u : State} (h : u.Inv) : (sluiceCleared p l u).Inv := h

/-! ### A failed engine -/

theorem engineFail_state (det phys : Nat) (s : State) : ∃ (e : ErrRec) (r : Result), e.conts = [] ∧ e.sev = 3 ∧ (engineFail det phys s).2 =
    { endAll r (logErr e s) with rep := { (endAll r (logErr e s)).rep with failed := true, busy := none }
                                 boot := { (endAll r (logErr e s)).boot with phase := 7 } } :=
  ⟨_, _, rfl, rfl, rfl⟩

theorem endAll_nobody {r : Result} {s : State} (h : s.cmd.tasks = []) : endAll r s = s := by
  rw [endAll, h]
  rfl

theorem mayAccept_failed {s : State} (h : s.rep.failed = true) (op : Byte) (n : Nat) : mayAccept s op n = false := by
  simp [mayAccept, acceptHeld, h]

/-! ### The statement -/

/-- Settles O10. -/
theorem sluiceAndEngineFail : Obligations.SluiceAndEngineFail := by
  intro s p det phys n q hs
  refine ⟨fun task num wide l hl => packWindow_indices _ l (Nat.le_refl _) hl, fun x o h => cycle_stalled h, rfl,
    fun x take o h => (agree_iff _).mpr (cycle_agrees ((agree_iff _).mp h)), fun h => leaves_nothing hs (sluiceMismatch_barred h),
    fun idx u hr hf hp h => congrArg (leaves s) (sluiceMismatch_of hr hf hp h), fun hr hf hp hn h3 => ?_, ?_, fun h => ⟨?_, ?_⟩⟩
  · obtain ⟨e, l, hc, he, hmem, hrun⟩ := sluiceMismatch_spared hr hf hp hn h3
    obtain ⟨hprod, -, -, hsev⟩ := logErr_counted s hc (show e.sev ≠ 0 by omega)
    have hlog := logErr_logOnly e s
    have hold : (sluiceCleared p l (logErr e s)).hold =
        { s.hold with sluice := s.hold.sluice.zipIdx.map (fun (x, k) => if k = p then Sluice.empty else x) } := by
      simp only [sluiceCleared, logErr_hold]
    have put_back : { sluiceCleared p l (logErr e s) with hold := s.hold, rep := { (sluiceCleared p l (logErr e s)).rep with strikes := s.rep.strikes } } = logErr e s := by
      rw [← logErr_hold e s, ← logErr_strikes e s]
      rfl
    refine ⟨_, leaves_of_inv hrun (sluiceCleared_inv (logErr_inv e hs)) (logErr_fuses e s) (logErr_pending e s), hprod, hsev.trans (if_neg (by omega)),
      hold, hmem, ?_⟩
    rw [put_back]
    exact hlog
  · obtain ⟨e, r, hc, he, hst⟩ := engineFail_state det phys s
    rw [hst]
    refine ⟨rfl, rfl, rfl, fun h0 => ?_⟩
    rw [endAll_nobody ((logErr_tasks e s).trans h0)]
    exact (logErr_counted s hc (show e.sev ≠ 0 by omega)).1
  · exact (exec_packet (op := 0x00) (c := .nop) rfl n q s).trans (leaves_nothing hs (acceptPacket_held _ _ q (mayAccept_failed h _ n)))
  · exact (exec_packet (op := 0x20) (c := .lookupPool) rfl n q s).trans (leaves_nothing hs (acceptPacket_held _ _ q (mayAccept_failed h _ n)))

end Sys2Proof.Machine
end

section
/-! PROOFS. Work in progress: windows, fills, buckets and row updates (R149, R176, R183, R193, R195, R262). -/

namespace Sys2Proof.Machine

/-! ### Windows -/

theorem windowAdmit_unknown {id : Nat} {s : State} (h : taskOf s id = none) : windowAdmit id s = s := by
  simp only [windowAdmit, h]

theorem windowAdmit_other {id : Nat} {s : State} {t : Task} (h : taskOf s id = some t) (hl : lookupRunOf t = none) : windowAdmit id s = s := by
  simp only [windowAdmit, h, hl]

theorem windowAdmit_lookup {id : Nat} {s : State} {t : Task} {l : LookupRun} (h : taskOf s id = some t) (hl : lookupRunOf t = some l) :
    windowAdmit id s = if l.failing.isSome then s else runTask id (do
      let (tab, v) ← bindVersion t
      lookupAct id (admitAll t tab v.toNat l.windows)
      modify (lookupSettle id)) s := by
  simp only [windowAdmit, h, hl]

/-! ### Fills -/

theorem bermFillComplete_ok {id : Nat} {s v : State} (h : (fillComplete id).go none s = (.ok (), v)) : bermFillComplete id s = v := by
  simp only [bermFillComplete, h]

theorem bermFillComplete_mig {id va : Nat} {w : Bool} {s v : State} (h : (fillComplete id).go none s = (.error (.mig va w), v)) :
    bermFillComplete id s = if s.xl.walks.any (fun k => k.va == va && k.mig.isSome) then s else waitMig none va w s := by
  simp only [bermFillComplete, h]

theorem fillComplete_unknown {id : Nat} {s : State} (h : s.hold.fetches.find? (fun f => f.id == id) = none) :
    (fillComplete id).go none s = (.ok (), s) := by
  unfold fillComplete
  rw [go_get_bind]
  simp only [h]
  rfl

/-- The state with a fetch taken out. -/
def fetchTaken (id : Nat) (s : State) : State :=
  { s with hold := { s.hold with fetches := s.hold.fetches.filter (fun x => x.id != id) } }

theorem cancelAcks_none {s : State} (h : s.hold.cancels = []) : cancelAcks s = s := by
  unfold cancelAcks
  rw [h]
  exact congrArg (fun l => { s with hold := { s.hold with cancels := l } }) h.symm

/-- With no cancellation kept, none waits for a fetch. -/
theorem cancelFetched_none {id : Nat} {s : State} (h : s.hold.cancels = []) : cancelFetched id s = s := by
  have none_kept : { s with hold := { s.hold with cancels := s.hold.cancels.map (fun c => { c with fetches := c.fetches.filter (· != id) }) } } = s := by
    rw [h]
    exact congrArg (fun l => { s with hold := { s.hold with cancels := l } }) h.symm
  rw [cancelFetched, none_kept, cancelAcks_none h]

theorem fetchReturn_gone {f : Fetch} {s : State} (h : tabGet s f.tid = none) : (fetchReturn f).go none s = (.ok (), s) := by
  unfold fetchReturn
  simp only
  rw [go_get_bind]
  simp only [h]
  rfl

theorem fillComplete_gone {id : Nat} {s : State} {f : Fetch} (h : s.hold.fetches.find? (fun f => f.id == id) = some f)
    (ht : tabGet s f.tid = none) (hc : s.hold.cancels = []) : (fillComplete id).go none s = (.ok (), fetchTaken id s) := by
  have taken : (set (fetchTaken id s) : Act Unit).go none s = (.ok (), fetchTaken id s) := rfl
  have returned := fetchReturn_gone (s := fetchTaken id s) ht
  have settled := cancelFetched_none (id := id) (s := fetchTaken id s) hc
  unfold fillComplete
  rw [go_get_bind]
  simp only [h]
  unfold fetchTaken at *
  rw [go_bind_ok _ taken, go_bind_ok _ returned, go_modify, settled]

/-! ### Buckets -/

theorem bucketExpand_none {s : State} (h : s.grad.buckets.find? (fun b => decide (b.segs ≤ b.got)) = none) : bucketExpand s = s := by
  simp only [bucketExpand, h]

theorem live_eq {lost : Option (BitVec 16)} {o : Option Version} : (lost.isNone && o.isSome) = decide (lost = none ∧ o.isSome = true) := by
  cases lost <;> cases o <;> rfl

/-- The answer to a bucket expanded: lost lists, or its flags and the contributions added. -/
def expandResult (lost : Option (BitVec 16)) (x : Option Bucket) (n : Nat) : Result :=
  match lost, x with
  | some idx, _ => rHw 0x0A idx
  | none, some x => ⟨stOk, (if x.sat then 1 else 0) ||| (if x.spill then 2 else 0), 0, BitVec.ofNat 32 (min n (2 ^ 32 - 1))⟩
  | none, none => ⟨stOk, 0, 0, BitVec.ofNat 32 (min n (2 ^ 32 - 1))⟩

/-- What a bucket's expansion leaves, from what its reads and contributions come to. -/
theorem bucketExpand_of {s o y : State} {b : Bucket} {lost : Option (BitVec 16)} {rest : Bytes} {n : Nat} {st : Bool} {w : State}
    (h : s.grad.buckets.find? (fun b => decide (b.segs ≤ b.got)) = some b) (hk : readKept (bucketLists s b) none (useKept b s) = (lost, o))
    (he : (if lost = none ∧ ((tabGet o b.tid).bind (·.version b.ver)).isSome then
        expandEntries b (gradWidth s b.tid) (bucketRows o b) (bucketWho s b) (b.bytes.length + 1) b.bytes b.added o
      else ([], b.added, false, o)) = (rest, n, st, w)) (hy : y = countCmd 5 (n - b.added) (bucketWho s b) w) :
    bucketExpand s = if st then (let z := if y.grad.stalled then y else gradCount 4 (bucketWho s b) y
        { z with grad := { z.grad with
          stalled := true
          buckets := z.grad.buckets.map (fun x => if isBucket b x then { x with bytes := rest, added := n } else x) } })
      else sendTaskAck b.src b.task.toNat b.tag.toNat 0x11
        (expandResult lost (y.grad.buckets.find? (isBucket b)) n)
        (creditBack b.src false (bucketUnits b.len)
          (progress { y with grad := { y.grad with stalled := false, buckets := y.grad.buckets.filter (fun x => !isBucket b x) } })) := by
  subst hy
  unfold bucketExpand
  simp only [h, hk, live_eq, decide_eq_true_eq]
  rw [he]
  simp only
  split
  · rfl
  · refine congrArg (fun r => sendTaskAck _ _ _ _ r _) ?_
    cases lost with
    | some idx => rfl
    | none => cases (countCmd 5 (n - b.added) (bucketWho s b) w).grad.buckets.find? (isBucket b) <;> rfl

/-! ### Row updates -/

theorem cucRowUpdate_unknown {id : Nat} {s : State} (h : taskOf s id = none) (lb off : Nat) : cucRowUpdate id lb off s = s := by
  simp only [cucRowUpdate, h]

section
variable {id lb off : Nat} {s v : State} {t : Task} (h : taskOf s id = some t)
include h

theorem cucRowUpdate_other (hu : updateRunOf t = none) : cucRowUpdate id lb off s = s := by
  simp only [cucRowUpdate, h, hu]

variable {u : UpdateRun} (hu : updateRunOf t = some u)
include hu

theorem cucRowUpdate_noRow (hg : (closedBy s id).find? (fun g => g.lb == lb && g.off == off) = none) : cucRowUpdate id lb off s = s := by
  simp only [cucRowUpdate, h, hu, hg]

theorem cucRowUpdate_awaited (ha : u.await.any (fun a => a.2.1 == lb && a.2.2 == off) = true) : cucRowUpdate id lb off s = s := by
  cases hg : (closedBy s id).find? (fun g => g.lb == lb && g.off == off) with
  | none => exact cucRowUpdate_noRow h hu hg
  | some g => simp only [cucRowUpdate, h, hu, hg, ha, Bool.or_true, if_true]

variable {g : Grad} (hg : (closedBy s id).find? (fun g => g.lb == lb && g.off == off) = some g) (hf : u.failed = none)
  (ha : u.await.any (fun a => a.2.1 == lb && a.2.2 == off) = false)
include hg hf ha

theorem cucRowUpdate_drains (hd : (drainRow t u g).go (some id) s = (.ok (), v)) : cucRowUpdate id lb off s = updateSettle id v := by
  simp only [cucRowUpdate, h, hu, hg, hf, ha, Option.isSome_none, Bool.or_self, Bool.false_eq_true, if_false, hd]

theorem cucRowUpdate_mig {va : Nat} {w : Bool} (hd : (drainRow t u g).go (some id) s = (.error (.mig va w), v)) :
    cucRowUpdate id lb off s = stopFrom id (.mig va w) s v := by
  simp only [cucRowUpdate, h, hu, hg, hf, ha, Option.isSome_none, Bool.or_self, Bool.false_eq_true, if_false, hd]

theorem cucRowUpdate_fails {x : Stop} {c : Byte × BitVec 24} {y : State} (hd : (drainRow t u g).go (some id) s = (.error x, v))
    (hx : ∀ va w, x ≠ .mig va w) (hc : stopCode id x v = (c, y)) :
    cucRowUpdate id lb off s = updateSettle id (updateMap id (fun u => { u with failed := some c }) y) := by
  cases x with
  | mig va w => exact absurd rfl (hx va w)
  | fail r => simp only [cucRowUpdate, h, hu, hg, hf, ha, Option.isSome_none, Bool.or_self, Bool.false_eq_true, if_false, hd, hc]
  | poison i => simp only [cucRowUpdate, h, hu, hg, hf, ha, Option.isSome_none, Bool.or_self, Bool.false_eq_true, if_false, hd, hc]
  | fault a b c d e => simp only [cucRowUpdate, h, hu, hg, hf, ha, Option.isSome_none, Bool.or_self, Bool.false_eq_true, if_false, hd, hc]

end

/-! ### The statement -/

/-- Settles O13. -/
theorem engineWorkRuns : Obligations.EngineWorkRuns := by
  intro s v id lb off t l u g f b hs
  refine ⟨fun h => ⟨leaves_nothing hs (windowAdmit_unknown h), leaves_nothing hs (cucRowUpdate_unknown h lb off)⟩,
    fun h hl => leaves_nothing hs (windowAdmit_other h hl), fun h hl hf => leaves_nothing hs ((windowAdmit_lookup h hl).trans (if_pos hf)),
    fun h hl hf => congrArg (leaves s) ((windowAdmit_lookup h hl).trans (if_neg (by rw [hf]; exact Bool.false_ne_true))),
    fun h => leaves_nothing hs (bermFillComplete_ok (fillComplete_unknown h)),
    fun h ht hc => leaves_of_eq hs (bermFillComplete_ok (fillComplete_gone h ht hc)), fun h => congrArg (leaves s) (bermFillComplete_ok h),
    fun va w h => ⟨fun hw => leaves_nothing hs ((bermFillComplete_mig h).trans (if_pos hw)),
      fun hw => congrArg (leaves s) ((bermFillComplete_mig h).trans (if_neg (by rw [hw]; exact Bool.false_ne_true)))⟩,
    fun h => leaves_nothing hs (bucketExpand_none h), fun lost o rest n st w y h hk he hy => ⟨fun hst => ?_, fun hst => ?_⟩,
    fun h hu => leaves_nothing hs (cucRowUpdate_other h hu), fun h hu hg => leaves_nothing hs (cucRowUpdate_noRow h hu hg),
    fun h hu ha => leaves_nothing hs (cucRowUpdate_awaited h hu ha), fun h hu hg hf ha hd => congrArg (leaves s) (cucRowUpdate_drains h hu hg hf ha hd),
    fun x h hu hg hf ha hd => ⟨fun va w hx => ?_, fun c y hx hc => congrArg (leaves s) (cucRowUpdate_fails h hu hg hf ha hd hx hc)⟩⟩
  · have run := bucketExpand_of h hk he hy
    rw [if_pos hst] at run
    exact congrArg (leaves s) run
  · have run := bucketExpand_of h hk he hy
    rw [if_neg (by rw [hst]; exact Bool.false_ne_true)] at run
    have e : exec .bucketExpand s = leaves s (bucketExpand s) := rfl
    rw [e, run]
    generalize creditBack b.src _ _ _ = z
    generalize y.grad.buckets.find? (isBucket b) = found
    cases lost with
    | some idx => rfl
    | none => cases found <;> rfl
  · subst hx
    exact congrArg (leaves s) (cucRowUpdate_mig h hu hg hf ha hd)

end Sys2Proof.Machine
end

section
/-! PROOFS. Streams (R287): the landing of a tile where two tasks bear one number. -/

namespace Sys2Proof.Machine

/-- A stream of one dimension and tiles of 64 KiB to another engine, with no semaphores. -/
def remoteStream : Stream :=
  { (default : Stream) with desc := 0x10010000, full := 0xFFFF, empty := 0xFFFF }

/-- A transfer over that stream with its first tile in place and its second awaited. -/
def remoteTransfer (outer : Nat) : TransferRun :=
  { (default : TransferRun) with outer := outer, context := some 0, next := 2, flight := [(0, []), (1, [7])] }

/-- A task of number 0 that runs such a transfer. -/
def transferTask (outer : Nat) : Task := { (default : Task) with op := 0x51, phase := .running (.transfer (remoteTransfer outer)) }

/-- Two tasks of number 0, of 131072 and of 1000 B: the invariant bounds tasks' numbers and does not keep them apart. -/
def sharedNumber : State :=
  { State.reset with
    cmd := { State.reset.cmd with tasks := [transferTask 131072, transferTask 1000], nextTask := 1 }
    strm := { State.reset.strm with streams := [(0, remoteStream)] } }

/-- The bytes that each transfer of an outcome's state has counted. -/
def transferredBytes : Host.Outcome State Fault Refusal → List Nat
  | .next s => s.cmd.tasks.filterMap fun t => (transferRunOf t).map (·.bytes)
  | _ => []

/-- What the lander's clause says the landing leaves: each transfer of that number adds its own tile's bytes. -/
def clauseLanded : State :=
  transferMap 0 (fun r => { r with
    signalled := r.signalled + 1
    bytes := if writtenHere remoteStream.desc then r.bytes
      else r.bytes + (tileEnd remoteStream.desc r 0 - tileStart remoteStream.desc 0) })
    (gaugeBytes (tileEnd remoteStream.desc (remoteTransfer 131072) 0 - tileStart remoteStream.desc 0)
      (streamMap 0 (fun x => { x with tilesDone := x.tilesDone + 1 })
        (transferMap 0 (fun r => { r with flight := [(1, [7])] }) (waitStarts sharedNumber))))

theorem sharedNumber_inv : sharedNumber.Inv := ⟨by decide +kernel, by decide +kernel⟩

theorem sharedNumber_lands : transferredBytes (exec (.streamTileLanded 0) sharedNumber) = [65536, 65536] := by decide +kernel

theorem clauseLanded_bytes : transferredBytes (leaves sharedNumber clauseLanded) = [65536, 1000] := by decide +kernel

/-- Refutes O15: where two tasks of one number run transfers of different lengths, which the invariant allows, the lander counts the
bytes of the first one's tile to both (`tileLanded` takes the size before `transferMap`), while the clause's `y` has each run add the
size of its own tile. -/
theorem not_streamsRun : ¬ Obligations.StreamsRun := by
  intro h
  obtain ⟨-, transfer, -⟩ := h sharedNumber sharedNumber 0 0 (transferTask 131072) (remoteTransfer 131072) remoteStream [] sharedNumber_inv rfl
  obtain ⟨-, -, -, -, landed, -⟩ := transfer rfl rfl
  have lands : exec (.streamTileLanded 0) sharedNumber = leaves sharedNumber clauseLanded :=
    landed [(1, [7])] _ clauseLanded rfl rfl rfl (by decide +kernel) (fun k hk => by cases hk) rfl rfl (by decide +kernel)
  have bytes := sharedNumber_lands
  rw [lands, clauseLanded_bytes] at bytes
  exact absurd bytes (by decide)

end Sys2Proof.Machine
end

section
/-! PROOFS. What control and time messages do (R411, R413, R416 to R419, R437, R438). -/

namespace Sys2Proof.Machine

/-- A message whose type changes the state and can meet nothing. -/
theorem deliverTo_modify {h : Header} {b : Bytes} {f : State → State} {s t : State} (hf : deliverAny h b = modify f) (ht : f s = t) :
    deliverTo h b s = (.ok (), t) := by
  unfold deliverTo
  rw [hf, ← ht]
  rfl

section
variable {h : Header} (b : Bytes)

/-! ### What each of these types runs -/

theorem deliverAny_ack (hn : hTyp h = 0x03) : deliverAny h b = modify fun s =>
    drainKept (hSrc h) (((List.range (min 6 (hf h 56 1))).map fun k => BitVec.ofNat 32 (hf h (32 + 4 * k) 4)).foldl
      (fun s m => freeKept (hSrc h) m s) s) := by
  unfold deliverAny
  simp only [hn]
  rfl

theorem deliverAny_nack (hn : hTyp h = 0x04) : deliverAny h b = deliverNack h b := by
  unfold deliverAny
  simp only [hn]

theorem deliverAny_creditReq (hn : hTyp h = 0x05) : deliverAny h b = deliverCreditReq h b := by
  unfold deliverAny
  simp only [hn]

theorem deliverAny_creditGrant (hn : hTyp h = 0x06) : deliverAny h b = deliverCreditGrant h b := by
  unfold deliverAny
  simp only [hn]

theorem deliverAny_peerDown (hn : hTyp h = 0x07) : deliverAny h b = deliverPeerDown h b := by
  unfold deliverAny
  simp only [hn]

theorem deliverAny_announce (hn : hTyp h = 0x40) : deliverAny h b = deliverTimeAnnounce h b := by
  unfold deliverAny
  simp only [hn]

theorem deliverAny_sync (hn : hTyp h = 0x41) : deliverAny h b = deliverTimeSync h b := by
  unfold deliverAny
  simp only [hn]

theorem deliverAny_delayReq (hn : hTyp h = 0x42) : deliverAny h b = deliverTimeDelayReq h b := by
  unfold deliverAny
  simp only [hn]

theorem deliverAny_delayResp (hn : hTyp h = 0x43) : deliverAny h b = deliverTimeDelayResp h b := by
  unfold deliverAny
  simp only [hn]

end

/-! ### Acknowledgements and NACKs -/

theorem drainKept_nothing {dst : Nat} {s : State} (h : ∀ x ∈ s.fab.kept, x.dst ≠ dst) : drainKept dst s = s := by
  have none' : s.fab.kept.filter (fun m => m.dst == dst && m.tries == 0) = [] := List.filter_eq_nil_iff.mpr fun x hx => by
    rw [beq_eq_false_iff_ne.mpr (h x hx), Bool.false_and]
    exact Bool.false_ne_true
  unfold drainKept
  rw [none', List.foldl_nil]

theorem freeKept_nothing {src : Nat} {m : BitVec 32} {s : State} (h : ∀ x ∈ s.fab.kept, (x.msgId == m && x.dst == src) = false) :
    freeKept src m s = s := by
  have none' : s.fab.kept.find? (fun k => k.msgId == m && k.dst == src) = none := List.find?_eq_none.mpr fun x hx => by
    rw [h x hx]
    exact Bool.false_ne_true
  simp only [freeKept, none']

theorem freeKept_only {src : Nat} {k : SentMsg} {s : State} (h : s.fab.kept = [k]) (hd : k.dst = src) (hx : hTyp k.header ≠ 0x52)
    (ht : taskOf s (hTask k.header) = none) : freeKept src k.msgId s = { s with fab := { s.fab with kept := [] } } := by
  have found : s.fab.kept.find? (fun x => x.msgId == k.msgId && x.dst == src) = some k := by
    rw [h, List.find?_cons_of_pos (by rw [hd]; simp)]
  have left : s.fab.kept.filter (fun x => x.msgId != k.msgId) = [] := by simp [h]
  have done : messageDone (hTask k.header) src (hTyp k.header) (BitVec.ofNat 32 (hMsgId k.header)) { s with fab := { s.fab with kept := [] } } =
      { s with fab := { s.fab with kept := [] } } := by
    unfold messageDone
    rw [show taskOf { s with fab := { s.fab with kept := [] } } (hTask k.header) = none from ht]
  simp only [freeKept, found, left, acked, done, if_neg hx]

theorem deliverNack_unknown {h : Header} {b : Bytes} {s : State} (hn : hTyp h = 0x04)
    (hk : s.fab.kept.find? (fun x => x.msgId == BitVec.ofNat 32 (hf h 32 4) && x.dst == hSrc h) = none) : deliverTo h b s = (.ok (), s) :=
  deliverTo_modify (deliverAny_nack b hn) (by simp only [hk])

section
variable {h : Header} {b : Bytes} {s : State} {k : SentMsg} (hn : hTyp h = 0x04)
  (hk : s.fab.kept.find? (fun x => x.msgId == BitVec.ofNat 32 (hf h 32 4) && x.dst == hSrc h) = some k)
include hn hk

theorem deliverNack_drops (hc : hf h 36 1 = 4) : deliverTo h b s = (.ok (), s) :=
  deliverTo_modify (deliverAny_nack b hn) (by simp only [hk, hc])

theorem deliverNack_again (hc : hf h 36 1 = 1 ∨ hf h 36 1 = 2) (ht : k.tries < 8) : deliverTo h b s = (.ok (), resend k (hVer k.header) s) :=
  deliverTo_modify (deliverAny_nack b hn) (by rcases hc with hc | hc <;> simp only [hk, hc, if_pos ht])

theorem deliverNack_version (hc : hf h 36 1 = 3) (hv : hf h 37 1 = 0x20) (ht : k.tries < 8) :
    deliverTo h b s = (.ok (), resend k 0x20 (settleVersion (hSrc h) 0x20 s)) :=
  deliverTo_modify (deliverAny_nack b hn) (by
    simp only [hk, hc, hv, if_pos ht]
    rfl)

end

/-! ### Credits -/

theorem deliverCreditReq_known {h : Header} {b : Bytes} {s : State} (hn : hTyp h = 0x05)
    (hc : s.fab.grants.any (fun c => c.peer == hSrc h && c.relay == (hf h 32 1 == 1)) = true) : deliverTo h b s =
      (.ok (), grantAll (setGrant (hSrc h) (hf h 32 1 == 1) (fun c => { c with wanted := c.wanted + hf h 34 2 }) s)) :=
  deliverTo_modify (deliverAny_creditReq b hn) (by simp only [hc, if_true])

theorem deliverCreditGrant_first {h : Header} {b : Bytes} {s : State} (hn : hTyp h = 0x06) (hc : s.fab.credits = []) (hk : s.fab.kept = []) :
    deliverTo h b s = (.ok (), { s with fab := { s.fab with credits := [⟨hSrc h, hf h 32 1 == 1, hf h 34 2, 0, hf h 36 4, 0⟩] } }) :=
  deliverTo_modify (deliverAny_creditGrant b hn) (by
    simp only [hc, List.any_nil, Bool.false_eq_true, if_false, List.nil_append, List.map_cons, List.map_nil, and_self, if_true, Nat.zero_add]
    exact drainKept_nothing (by rw [hk]; exact fun x hx => nomatch hx))

/-! ### Fabric time -/

section
variable {h : Header} {b : Bytes} {s : State}

theorem deliverAnnounce_ignored (hn : hTyp h = 0x40) (hi : (neighbourOf s (hSrc h)).isNone = true ∨ 32 ≤ hf h 43 1) :
    deliverTo h b s = (.ok (), s) :=
  deliverTo_modify (deliverAny_announce b hn) (if_pos (by rcases hi with hi | hi <;> simp [hi]))

theorem deliverAnnounce_kept (hn : hTyp h = 0x40) (hi : (neighbourOf s (hSrc h)).isSome = true) (hp : hf h 43 1 < 32) :
    deliverTo h b s = (.ok (), elect { s with time := { s.time with
      announces := s.time.announces.filter (fun x => x.src != hSrc h) ++ [⟨hSrc h, hf h 40 2, hf h 42 1, hf h 43 1, tick s⟩] } }) :=
  deliverTo_modify (deliverAny_announce b hn) (if_neg (by
    rw [Option.isNone_eq_false_iff.mpr hi, decide_eq_false (Nat.not_le.mpr hp)]
    exact Bool.false_ne_true))

theorem deliverSync_ignored (hn : hTyp h = 0x41) (hp : s.time.parent ≠ some (hSrc h)) : deliverTo h b s = (.ok (), s) :=
  deliverTo_modify (deliverAny_sync b hn) (if_pos (bne_iff_ne.mpr hp))

theorem deliverSync_first (hn : hTyp h = 0x41) (hp : s.time.parent = some (hSrc h)) (hl : s.time.lastSync = none)
    (hc : (s.time.syncCount + 1) % 16 ≠ 0) : deliverTo h b s = (.ok (), { s with time := { s.time with
      lastSync := some (BitVec.ofNat 32 (hf h 40 4), now s), syncCount := s.time.syncCount + 1, syncAt := tick s } }) :=
  deliverTo_modify (deliverAny_sync b hn) (by
    have other : ((s.time.syncCount + 1) % 16 != 0) = true := bne_iff_ne.mpr hc
    simp only [hp, hl, bne_self_eq_false, Bool.false_eq_true, if_false, onTime, other, if_true])

theorem deliverDelayReq_answered {n : Nat × Option Nat} (hn : hTyp h = 0x42) (hi : neighbourOf s (hSrc h) = some n) :
    deliverTo h b s = (.ok (), sendTime n 0x43 [(32, 8, (now s).toNat), (40, 4, hf h 40 4)] s) :=
  deliverTo_modify (deliverAny_delayReq b hn) (by simp only [hi])

end

section
variable {h : Header} {b : Bytes} {s : State} {q : BitVec 32} {t3 : Word} {t1 t2 : Int} (hn : hTyp h = 0x43)
  (hq : s.time.delayReq = some (q, t3)) (hl : s.time.lastPair = some (t1, t2))
include hn hq hl

theorem deliverDelayResp_other (ho : q.toNat ≠ hf h 40 4) : deliverTo h b s = (.ok (), s) :=
  deliverTo_modify (deliverAny_delayResp b hn) (by
    simp only [hq, hl, bne_iff_ne.mpr ho, Bool.or_true, if_true])

theorem deliverDelayResp_adds (hp : s.time.parent = some (hSrc h)) (ho : q.toNat = hf h 40 4) (hd : s.time.delays.length < 8) :
    deliverTo h b s = (.ok (), { s with time := { s.time with
      delayReq := none, delays := s.time.delays ++ [((hf h 32 8 : Int) - t3.toNat) + (t2 - t1)] } }) :=
  deliverTo_modify (deliverAny_delayResp b hn) (by
    have all : s.time.delays.length + 1 - 8 = 0 := by omega
    simp only [hq, hl, hp, ho, bne_self_eq_false, Bool.or_self, Bool.false_eq_true, if_false, onTime, all, List.drop_zero])

end

/-- Settles O49: each clause is the equation of its message's type. -/
theorem controlMessagesAct : Obligations.ControlMessagesAct := by
  unfold Obligations.ControlMessagesAct
  intro s h b k _
  refine ⟨fun hn h1 hk hd hm hx ht => ?_, fun hn hk => ?_, fun hn hk => deliverNack_unknown hn ?_,
    fun hn hk => ⟨deliverNack_drops hn hk, deliverNack_again hn hk, deliverNack_version hn hk⟩, deliverCreditReq_known,
    deliverCreditGrant_first, fun hn => deliverTo_modify (deliverAny_peerDown b hn) rfl, deliverAnnounce_kept, deliverAnnounce_ignored,
    deliverSync_ignored, deliverSync_first, fun n => deliverDelayReq_answered,
    fun q t3 t1 t2 hn hq hl => ⟨deliverDelayResp_adds hn hq hl, deliverDelayResp_other hn hq hl⟩⟩
  · refine deliverTo_modify (deliverAny_ack b hn) ?_
    have freed : freeKept (hSrc h) (BitVec.ofNat 32 (hf h 32 4)) s = { s with fab := { s.fab with kept := [] } } :=
      hm ▸ freeKept_only hk hd hx ht
    have one : (List.range (min 6 (hf h 56 1))).map (fun k => BitVec.ofNat 32 (hf h (32 + 4 * k) 4)) = [BitVec.ofNat 32 (hf h 32 4)] := by
      rw [h1]
      rfl
    rw [one, List.foldl_cons, List.foldl_nil, freed]
    exact drainKept_nothing fun x hx => nomatch hx
  · refine deliverTo_modify (deliverAny_ack b hn) ?_
    have freed : ∀ ids : List (BitVec 32), ids.foldl (fun s m => freeKept (hSrc h) m s) s = s := fun ids => by
      induction ids with
      | nil => rfl
      | cons m ids ih =>
        rw [List.foldl_cons, freeKept_nothing fun x hx => by rw [beq_eq_false_iff_ne.mpr (hk x hx), Bool.and_false]]
        exact ih
    rw [freed]
    exact drainKept_nothing hk
  · exact List.find?_eq_none.mpr fun x hx => by
      rw [beq_eq_false_iff_ne.mpr (hk x hx), Bool.false_and]
      exact Bool.false_ne_true

end Sys2Proof.Machine
end

section
/-! PROOFS. What the messages of tasks do (R126, R189, R250, R292, R303, R337, R342, R407). -/

namespace Sys2Proof.Machine

/-! ### How a message's action runs -/

theorem bitsNat_lt {w : Nat} (x : BitVec w) (lo n : Nat) : bitsNat x lo n < 2 ^ n := Nat.mod_lt _ (Nat.two_pow_pos n)

theorem hf_toNat16 (h : Header) (lo : Nat) : (BitVec.ofNat 16 (hf h lo 2)).toNat = hf h lo 2 := Nat.mod_eq_of_lt (bitsNat_lt ..)

theorem hTask_toNat (h : Header) : (BitVec.ofNat 32 (hTask h)).toNat = hTask h := Nat.mod_eq_of_lt (bitsNat_lt ..)

theorem hTag_toNat (h : Header) : (BitVec.ofNat 32 (hTag h)).toNat = hTag h := Nat.mod_eq_of_lt (bitsNat_lt ..)

/-- Whom a message is served for. -/
def servedFor (h : Header) (s : State) : Serves :=
  ⟨none, if decide (hSrc h = (ownEid s).toNat) then some (hTask h) else none, hTag h⟩

theorem deliverTo_runs {h : Header} {b : Bytes} {a : Act Unit} (hd : deliverAny h b = a) (s : State) :
    deliverTo h b s = (a.run (servedFor h s)).run s := by
  subst hd
  rfl

theorem run_get_bind {β : Type} (f : State → Act β) (w : Serves) (s : State) :
    ((MonadState.get >>= f).run w).run s = ((f s).run w).run s := rfl

theorem run_modify (f : State → State) (w : Serves) (s : State) : ((modify f : Act Unit).run w).run s = (.ok (), f s) := rfl

section
variable {α : Type} {src task tag : Nat} {a : Act α} {f : Result → Act α} {w : Serves} {s u : State}

theorem onBehalf_done {x : α} (h : ∀ w, (a.run w).run s = (.ok x, u)) : ((onBehalf src task tag a f).run w).run s = (.ok x, u) := by
  have served : ((serving src task tag a).run w).run s = (.ok x, u) := h _
  rw [onBehalf, run_tryCatch, served]

theorem onBehalf_fails {r : Result} (h : ∀ w, (a.run w).run s = (.error (.fail r), u)) :
    ((onBehalf src task tag a f).run w).run s = ((f r).run w).run u := by
  have served : ((serving src task tag a).run w).run s = (.error (.fail r), u) := h _
  rw [onBehalf, run_tryCatch, served]

end

theorem ackFailure_sends {dst task tag kind : Nat} {r : Result} (s : State) (h : r.status ≠ stFault) :
    ackFailure dst task tag kind r s = sendTaskAck dst task tag kind r s :=
  if_neg (by rw [decide_eq_false h, Bool.false_and]; exact Bool.false_ne_true)

section
variable {h : Header} (b : Bytes)

/-! ### What each of these types runs -/

theorem deliverAny_indexList (hn : hTyp h = 0x10) : deliverAny h b = deliverIndexList h b := by
  unfold deliverAny
  simp only [hn]

theorem deliverAny_partialSum (hn : hTyp h = 0x11) : deliverAny h b = deliverPartialSum h b := by
  unfold deliverAny
  simp only [hn]

theorem deliverAny_taskAck (hn : hTyp h = 0x12) : deliverAny h b = deliverTaskAck h b := by
  unfold deliverAny
  simp only [hn]

theorem deliverAny_cancel (hn : hTyp h = 0x13) : deliverAny h b = deliverCancel h b := by
  unfold deliverAny
  simp only [hn]

theorem deliverAny_gradBucket (hn : hTyp h = 0x20) : deliverAny h b = deliverGradBucket h b := by
  unfold deliverAny
  simp only [hn]

theorem deliverAny_updateRow (hn : hTyp h = 0x21) : deliverAny h b = deliverUpdateRow h b := by
  unfold deliverAny
  simp only [hn]

theorem deliverAny_atomicGroup (hn : hTyp h = 0x22) : deliverAny h b = deliverAtomicGroup h b := by
  unfold deliverAny
  simp only [hn]

theorem deliverAny_atomicDone (hn : hTyp h = 0x23) : deliverAny h b = deliverAtomicDone h b := by
  unfold deliverAny
  simp only [hn]

theorem deliverAny_remoteWrite (hn : hTyp h = 0x30) : deliverAny h b = deliverRemoteWrite h b := by
  unfold deliverAny
  simp only [hn]

theorem deliverAny_relayChunk (hn : hTyp h = 0x31) : deliverAny h b = deliverRelayChunk h b := by
  unfold deliverAny
  simp only [hn]

theorem deliverAny_semOp (hn : hTyp h = 0x32) : deliverAny h b = deliverSemOp h b := by
  unfold deliverAny
  simp only [hn]

theorem deliverAny_relayHopSet (hn : hTyp h = 0x33) : deliverAny h b = deliverRelayHopSet h b := by
  unfold deliverAny
  simp only [hn]

theorem deliverAny_commandForward (hn : hTyp h = 0x34) : deliverAny h b = deliverCommandForward h b := by
  unfold deliverAny
  simp only [hn]

theorem deliverAny_migrateData (hn : hTyp h = 0x35) : deliverAny h b = deliverMigrateData h b := by
  unfold deliverAny
  simp only [hn]

theorem deliverAny_faultRecord (hn : hTyp h = 0x50) : deliverAny h b = deliverFaultRecord h b := by
  unfold deliverAny
  simp only [hn]

theorem deliverAny_faultNotice (hn : hTyp h = 0x51) : deliverAny h b = deliverFaultNotice h b := by
  unfold deliverAny
  simp only [hn]

theorem deliverAny_xlateDrop (hn : hTyp h = 0x52) : deliverAny h b = deliverXlateDrop h b := by
  unfold deliverAny
  simp only [hn]

end

section
variable {h : Header} {b : Bytes} {s : State}

/-! ### Lists, sums and buckets -/

theorem deliverIndexList_discards (hn : hTyp h = 0x10)
    (hd : s.fab.discards.contains (hSrc h, BitVec.ofNat 32 (hTask h), BitVec.ofNat 32 (hTag h)) = true) : deliverTo h b s = (.ok (), s) := by
  rw [deliverTo_runs (deliverAny_indexList b hn)]
  unfold deliverIndexList
  rw [run_get_bind, if_pos hd]
  rfl

theorem deliverPartialSum_late (hn : hTyp h = 0x11) (ht : taskOf s (hTask h) = none) : deliverTo h b s = (.ok (), s) := by
  rw [deliverTo_runs (deliverAny_partialSum b hn)]
  unfold deliverPartialSum
  rw [run_get_bind]
  simp only [ht]
  rfl

theorem deliverGradBucket_discards (hn : hTyp h = 0x20)
    (hd : s.fab.discards.contains (hSrc h, BitVec.ofNat 32 (hTask h), BitVec.ofNat 32 (hTag h)) = true) : deliverTo h b s = (.ok (), s) :=
  deliverTo_modify (deliverAny_gradBucket b hn) (if_pos hd)

theorem deliverGradBucket_first (hn : hTyp h = 0x20) (hd : s.fab.discards = []) (hg : s.grad.buckets = []) :
    deliverTo h b s = (.ok (), { s with grad := { s.grad with
      buckets := [⟨hSrc h, BitVec.ofNat 32 (hTask h), BitVec.ofNat 32 (hTag h), hf h 32 3, BitVec.ofNat 16 (hf h 36 2), hf h 38 1,
        hf h 40 4, BitVec.ofNat 32 (hf h 44 4), hf h 50 2, 1, hf h 52 4, b, 0, false, false⟩] } }) :=
  deliverTo_modify (deliverAny_gradBucket b hn) (by
    simp only [hd, hg, List.contains_nil, List.any_nil, Bool.false_eq_true, if_false, List.nil_append, List.map_cons, List.map_nil, beq_self_eq_true,
      Bool.and_self, if_true, Nat.zero_add])

/-! ### Updates and additions -/

theorem deliverUpdateRow_unknown (hn : hTyp h = 0x21) (hr : s.grad.remote = []) :
    deliverTo h b s = (.ok (), sendTaskAck (hSrc h) (hTask h) (hTag h) 0x11 (rBadParam 5 8) s) := by
  rw [deliverTo_runs (deliverAny_updateRow b hn), ← ackFailure_sends s (by decide)]
  unfold deliverUpdateRow
  rw [run_get_bind]
  simp only [hr, List.find?_nil]
  rfl

theorem deliverAtomicGroup_held {d : DirLine} (hn : hTyp h = 0x22) (hd : hostHolds s (hf h 32 8 / 64) = some d) :
    deliverTo h b s = (.ok (), queueGroup (hTask h) (some (hSrc h, hTask h, hTag h))
      ⟨none, hf h 32 8 / 64, maskedAdds (BitVec.ofNat 16 (hf h 40 2)) (f32List 16 b)⟩ 16 (backInvalidate d [] s)) := by
  rw [deliverTo_runs (deliverAny_atomicGroup b hn)]
  unfold deliverAtomicGroup
  rw [run_get_bind]
  simp only [hd]
  rfl

theorem deliverAtomicDone_late (hn : hTyp h = 0x23) (ht : taskOf s (hTask h) = none) : deliverTo h b s = (.ok (), s) :=
  deliverTo_modify (deliverAny_atomicDone b hn) (by simp only [ht, Option.bind_none])

/-! ### Writes to the scratchpad -/

theorem writeWindow_inside {off : Nat} (hb : b ≠ []) (hl : llsBytes s ≤ off) (ht : off + b.length ≤ scratchTop s) (w : Serves) :
    ((writeWindow off b).run w).run s = (.ok (), writeScratch off b s) := by
  unfold writeWindow
  rw [run_get_bind, if_pos ⟨hl, ht⟩, writePlace, if_neg (by rw [List.isEmpty_iff]; exact hb)]
  rfl

theorem writeWindow_outside {off : Nat} (ho : off < llsBytes s ∨ scratchTop s < off + b.length) (w : Serves) :
    ((writeWindow off b).run w).run s = (.error (.fail (rBadParam 3 20)), s) := by
  unfold writeWindow
  rw [run_get_bind, if_neg (by omega)]
  rfl

theorem deliverRemoteWrite_window (hn : hTyp h = 0x30) (hw : hf h 40 1 = 1) (hb : b ≠ []) (hl : llsBytes s ≤ hf h 32 8)
    (ht : hf h 32 8 + b.length ≤ scratchTop s) : deliverTo h b s = (.ok (), writeScratch (hf h 32 8) b s) := by
  rw [deliverTo_runs (deliverAny_remoteWrite b hn)]
  unfold deliverRemoteWrite
  simp only [hw]
  exact onBehalf_done (writeWindow_inside hb hl ht)

theorem deliverRemoteWrite_outside (hn : hTyp h = 0x30) (hw : hf h 40 1 = 1) (ho : hf h 32 8 < llsBytes s ∨ scratchTop s < hf h 32 8 + b.length) :
    deliverTo h b s = (.ok (), sendTaskAck (hSrc h) (hTask h) (hTag h) 0x11 (rBadParam 3 20) { s with
      fab := { s.fab with unwritten := s.fab.unwritten ++ [(hSrc h, BitVec.ofNat 32 (hMsgId h))] } }) := by
  rw [deliverTo_runs (deliverAny_remoteWrite b hn), ← ackFailure_sends _ (by decide)]
  unfold deliverRemoteWrite
  simp only [hw]
  exact (onBehalf_fails (writeWindow_outside ho)).trans rfl

/-! ### Relay hops -/

theorem deliverRelayChunk_unknown (hn : hTyp h = 0x31) (hh : s.strm.hops = []) :
    deliverTo h b s = (.ok (), logErr { det := 0x10, sev := 0, phys := 0xFFFF, eid := hSrc h } s) := by
  have nohop : chunkHop s (hSrc h) (hf h 32 2) (hf h 34 1) = none := by
    unfold chunkHop
    rw [hh]
    rfl
  rw [deliverTo_runs (deliverAny_relayChunk b hn)]
  unfold deliverRelayChunk
  rw [run_get_bind]
  simp only [nohop]
  rfl

theorem deliverRelayHopSet_letsGo (hn : hTyp h = 0x33) (hc : hf h 35 1 = 0) : deliverTo h b s = (.ok (), { s with strm := { s.strm with
    hops := s.strm.hops.filter (fun x => !(x.owner == hSrc h && x.chain == hf h 32 2)) } }) := by
  rw [deliverTo_runs (deliverAny_relayHopSet b hn)]
  unfold deliverRelayHopSet
  rw [run_get_bind]
  simp only [hc]
  rfl

theorem deliverRelayHopSet_first (hn : hTyp h = 0x33) (hc : 0 < hf h 35 1) (hs : hSrc h ≠ (ownEid s).toNat) (hh : s.strm.hops = [])
    (he : hopEid (BitVec.ofNat 128 (leField b 0 16)) ≠ (ownEid s).toNat) : deliverTo h b s = (.ok (), { s with strm := { s.strm with
      hops := [⟨hSrc h, hf h 32 2, hf h 35 1, hf h 36 1 % 2 == 1, hf h 37 1, [(hf h 34 1, BitVec.ofNat 128 (leField b 0 16))], []⟩] } }) := by
  rw [deliverTo_runs (deliverAny_relayHopSet b hn)]
  unfold deliverRelayHopSet
  rw [run_get_bind]
  simp only [hh, List.find?_nil, Option.bind_none, Option.isSome_none, decide_eq_false he, Bool.false_and, Bool.or_self, Bool.false_eq_true, if_false,
    ite_self, if_neg (show ¬ hf h 35 1 = 0 by omega), decide_eq_false hs]
  rw [run_bind]
  exact congrArg (fun x => ((.ok () : Except Stop Unit), x)) (by rw [putHop, hh]; rfl)

/-! ### Forwarded commands, migration and drops -/

theorem deliverCommandForward_update (hn : hTyp h = 0x34) (ho : leField b 0 1 = 0x32) :
    deliverTo h b s = (.ok (), keepRemote (hSrc h) (BitVec.ofNat 32 (hTask h)) (packetOf b) s) :=
  deliverTo_modify ((deliverAny_commandForward b hn).trans (by unfold deliverCommandForward; simp only [ho])) rfl

theorem deliverMigrateData_unknown (hn : hTyp h = 0x35) (ht : s.cmd.tasks = []) (htab : s.tab.tables = []) (he : s.fab.migEnded = []) :
    deliverTo h b s = (.ok (), sendTaskAck (hSrc h) (hTask h) (hTag h) 0x12 (rBadParam 5 0) (logErr
      { det := 0x1B, sev := 0, eid := hSrc h, tag := hTag h, detail := fields 16 [(0, 3, hf h 32 3), (4, 2, hf h 36 2), (8, 4, hf h 40 4)] } s)) := by
  have notask : migTaskOf h s = none := by
    unfold migTaskOf
    rw [ht]
    rfl
  have notable : tabGet s (hf h 32 3) = none := by
    unfold tabGet
    rw [htab]
    rfl
  rw [deliverTo_runs (deliverAny_migrateData b hn)]
  unfold deliverMigrateData
  rw [run_get_bind]
  simp only [he, List.contains_nil, Bool.false_eq_true, if_false, notask, notable, Option.bind_none, run_bind, run_modify, hf_toNat16 h 36]

theorem deliverXlateDrop_drops (hn : hTyp h = 0x52) (hc : hf h 48 1 = 2) :
    deliverTo h b s = (.ok (), (tlbDrop (hf h 32 8) (hf h 40 8) s).2) :=
  deliverTo_modify (deliverAny_xlateDrop b hn) (by simp only [hc]; rfl)

end

/-! ### Cancels -/

/-- The state in which an engine has let go of all of a task, where it held nothing for anyone. -/
theorem forgetTask_nothing {src : Nat} {task : BitVec 32} {s : State} (hl : s.hold.lists = []) (hf : s.hold.fetches = []) (hk : s.hold.kept = [])
    (hg : s.grad.buckets = []) : forgetTask src task s = s := by
  obtain ⟨lists, fetches, kept, buckets⟩ :
      (s.hold.lists.filter (fun l => !(l.src == src && l.task == task)) = s.hold.lists) ∧
      (∀ f : Fetch → Fetch, s.hold.fetches.map f = s.hold.fetches) ∧
      (s.hold.kept.filter (fun l => !(l.req == src && l.task == task)) = s.hold.kept) ∧
      (s.grad.buckets.filter (fun b => !(b.src == src && b.task == task)) = s.grad.buckets) := by
    rw [hl, hf, hk, hg]
    exact ⟨rfl, fun _ => rfl, rfl, rfl⟩
  simp only [forgetTask, unfetch, lists, fetches, kept, buckets]

theorem bermUncount_empty {who : Nat × BitVec 32} {s : State} (h : s.berm.sets = []) : bermUncount who s = s := by
  have sets : ∀ f : Nat × List Sector → Nat × List Sector, s.berm.sets.map f = s.berm.sets := fun f => by rw [h]; rfl
  simp only [bermUncount, sets]

/-- A cancel that waits for nothing is answered at once. -/
theorem cancelAcks_one {src work : Nat} {task tag : BitVec 32} {s : State} (h : s.hold.cancels = []) :
    cancelAcks { s with hold := { s.hold with cancels := s.hold.cancels ++ [⟨src, task, tag, [], work⟩] } } =
      sendTaskAck src task.toNat tag.toNat 0x10 ⟨stOk, 0, 0, BitVec.ofNat 32 work⟩ s := by
  have done : (s.hold.cancels ++ [(⟨src, task, tag, [], work⟩ : CancelWait)]).filter (fun c => c.fetches.isEmpty) = [⟨src, task, tag, [], work⟩] := by
    rw [h]
    rfl
  have left : (s.hold.cancels ++ [(⟨src, task, tag, [], work⟩ : CancelWait)]).filter (fun c => !c.fetches.isEmpty) = s.hold.cancels := by
    rw [h]
    rfl
  simp only [cancelAcks, done, left, List.foldl_cons, List.foldl_nil]

theorem deliverCancel_forgets {h : Header} {b : Bytes} {s : State} (hn : hTyp h = 0x13) (hl : s.hold.lists = []) (hf : s.hold.fetches = [])
    (hk : s.hold.kept = []) (hc : s.hold.cancels = []) (hb : s.berm.sets = []) (hg : s.grad.buckets = []) (hd : s.fab.discards = []) :
    deliverTo h b s = (.ok (), sendTaskAck (hSrc h) (hTask h) (hTag h) 0x10 (resultOf stOk 0) { s with
      fab := { s.fab with discards := [(hSrc h, BitVec.ofNat 32 (hTask h), BitVec.ofNat 32 (hTag h))] } }) := by
  have answered := cancelAcks_one (src := hSrc h) (task := BitVec.ofNat 32 (hTask h)) (tag := BitVec.ofNat 32 (hTag h)) (work := 0)
    (s := { s with fab := { s.fab with discards := [(hSrc h, BitVec.ofNat 32 (hTask h), BitVec.ofNat 32 (hTag h))] } }) hc
  rw [hTask_toNat, hTag_toNat] at answered
  refine deliverTo_modify (deliverAny_cancel b hn) (Eq.trans ?_ answered)
  have fetched : taskFetches (hSrc h) (BitVec.ofNat 32 (hTask h)) s = [] := by
    unfold taskFetches
    rw [hf]
    rfl
  simp only [hk, List.any_nil, Bool.false_eq_true, if_false, bermUncount_empty hb, forgetTask_nothing hl hf hk hg, hd, List.contains_nil, hl,
    List.filter_nil, List.map_nil, List.sum_nil, List.nil_append, fetched]

/-- Settles O50: each clause is the equation of its message's type. -/
theorem taskMessagesAct : Obligations.TaskMessagesAct := by
  unfold Obligations.TaskMessagesAct
  intro s h b _
  exact ⟨deliverIndexList_discards, deliverPartialSum_late, fun hn => deliverTo_modify (deliverAny_taskAck b hn) rfl,
    deliverCancel_forgets, deliverGradBucket_discards, deliverGradBucket_first, deliverUpdateRow_unknown, fun d => deliverAtomicGroup_held,
    deliverAtomicDone_late, deliverRemoteWrite_window, deliverRemoteWrite_outside, deliverRelayChunk_unknown,
    fun hn => deliverTo_modify (deliverAny_semOp b hn) rfl, deliverRelayHopSet_letsGo, deliverRelayHopSet_first, deliverCommandForward_update,
    deliverMigrateData_unknown, fun hn => deliverTo_modify (deliverAny_faultRecord b hn) rfl,
    fun hn ht => deliverTo_modify (deliverAny_faultNotice b hn) (by simp only [ht]), deliverXlateDrop_drops⟩

end Sys2Proof.Machine
end

section
/-! PROOFS. STREAM_CANCEL (R296) of a stream that an earlier cancel of the same number disarms. -/

namespace Sys2Proof.Machine

/-- A STREAM_CANCEL of stream 0, which does not disarm it. -/
def cancelPacket : Packet := ⟨0x20, 0, 7, 0, 0xFDF424B7⟩

/-- An engine in phase 0x5 whose ring 1 holds one packet, and whose stream 0 names the next task's number as the one that disarms it: the
invariant says nothing of the numbers that streams keep. -/
def disarmingStream : State :=
  ringSet 1 { Ring.blank with depthLog2 := 6, proto := 0x20, st := .enabled, sqTail := 1 }
    { State.reset with
      boot := { State.reset.boot with phase := 5 }
      regs := { State.reset.regs with rctBase := 0x100000 }
      mem := { State.reset.mem with hbmTrained := true, hbmOnline := 3 }
      xl := { State.reset.xl with ringStore := [(1, [⟨0, 16, 0x10000, .dev 0x200000, true, false, 0⟩])] }
      strm := { State.reset.strm with streams := [(0, { (default : Stream) with disarming := some 1 })] } }

/-- How many streams the state of an outcome has. -/
def streamsLeft : Host.Outcome State Fault Refusal → Nat
  | .next s => s.strm.streams.length
  | _ => 0

theorem disarmingStream_inv : disarmingStream.Inv := ⟨by decide +kernel, by decide +kernel⟩

theorem disarmingStream_idle : disarmingStream.cmd.tasks = [] := by decide +kernel

theorem disarmingStream_accepts : Accepts 0x42 streamCancelStep4 1 cancelPacket disarmingStream := by
  refine ⟨⟨?_, ?_, ?_, ?_, ?_⟩, ?_, ?_⟩ <;> decide +kernel

theorem disarmingStream_starts : Starts 0x42 1 cancelPacket disarmingStream (tookPacket 0x42 1 cancelPacket disarmingStream)
    (packetTask 0x42 1 cancelPacket disarmingStream) := by
  refine ⟨disarmingStream_accepts, ⟨streamCancelCheck, rfl, ?_⟩, ?_, rfl, rfl, ?_⟩ <;> decide +kernel

/-- What O7 says of a STREAM_CANCEL that does not disarm and matches nothing. -/
theorem cancelClause (h : Obligations.TablePacketsAct) {s u : State} {n : Nat} {p : Packet} {t : Task} (hs : s.Inv) (ht : Starts 0x42 n p s u t)
    (hp : pf t.pkt 10 1 = 0) (hu : ∀ x ∈ u.cmd.tasks, x.op ≠ 0x41) (hc : ∀ x ∈ s.cmd.tasks, ∀ a b c d, x.phase ≠ .running (.cancel a b c d)) :
    exec (.streamCancel n p) s = leaves s (finishTask s.cmd.nextTask ⟨stOk, 0x4, 0, 0⟩ u) := by
  obtain ⟨-, -, -, -, -, -, -, -, -, -, -, -, -, -, -, -, -, -, -, cancel⟩ := h s u u n s.cmd.nextTask p t default hs rfl
  exact cancel ht hp hu hc

/-- Refutes O7: a STREAM_CANCEL that does not disarm ends with the cancel's own sweep, which disarms a stream that names its number; the
last clause says that only the task ends. -/
theorem not_tablePacketsAct : ¬ Obligations.TablePacketsAct := by
  intro h
  have only := cancelClause h disarmingStream_inv disarmingStream_starts (by decide +kernel) (by decide +kernel) 
    (by rw [disarmingStream_idle]; exact fun x hx => nomatch hx)
  exact absurd (congrArg streamsLeft only) (by decide +kernel)

end Sys2Proof.Machine
end
